-- ==== Sys2Proof/Word.lean ====
section
/-! DEFINITION. Words, bit fields, places and the sparse tables that hold every indexed part of the state. -/
namespace Sys2Proof

abbrev Byte := BitVec 8
abbrev Word := BitVec 64

/-- One line is 128 bytes (00 R6). -/
abbrev LineBits := BitVec 1024

/-- The `len` bits of `w` from bit `lo` up. -/
def bits {n : Nat} (lo len : Nat) (w : BitVec n) : BitVec len := w.extractLsb' lo len

/-- The data of a host write, and whether the host sends it with poison (19 R387). -/
structure HostData where
  v : Nat
  poison : Bool
  deriving DecidableEq, Repr

/-- A unit of execution, numbered as the tags of 03 R56: `unit` 0-63 is a scalar core, 64-67 a SIMT engine; `slot` is
the thread set 0-4 (4 is the handler set) of a core, or the wave slot 0-15 of an engine (01 R15). -/
structure Place where
  die : Nat
  clu : Nat
  unit : Nat
  slot : Nat
  deriving DecidableEq, Repr

/-- The cluster of a place, numbered over the package. -/
def Place.cluster (p : Place) : Nat := p.die * 16 + p.clu

/-- The unit (core or engine) of a place, numbered over the package. -/
def Place.unitKey (p : Place) : Nat := p.cluster * 128 + p.unit

/-- The number of a place over the package. -/
def Place.key (p : Place) : Nat := p.unitKey * 32 + p.slot

def Place.ofKey (k : Nat) : Place :=
  { die := k / 65536, clu := k / 4096 % 16, unit := k / 32 % 128, slot := k % 32 }

/-- True of a wave slot of a SIMT engine. -/
def Place.wide (p : Place) : Bool := 64 ≤ p.unit

/-- A table of values by number: keys strictly rise, and no entry holds the default, so equal tables are equal data. -/
abbrev Tbl (α : Type) := List (Nat × α)

/-- The value at a key, `d` where the table lists none. -/
def Tbl.get {α : Type} (d : α) : Tbl α → Nat → α
  | [], _ => d
  | (i, v) :: t, k => if i = k then v else Tbl.get d t k

/-- Put an entry in its place, over the entry of its key. -/
def Tbl.put {α : Type} : Tbl α → Nat → α → Tbl α
  | [], k, v => [(k, v)]
  | (i, w) :: t, k, v =>
    if k < i then (k, v) :: (i, w) :: t
    else if i = k then (k, v) :: t
    else (i, w) :: Tbl.put t k v

/-- Insert or replace an entry, dropping it where the value is the default. -/
def Tbl.set {α : Type} [DecidableEq α] (d : α) (t : Tbl α) (k : Nat) (v : α) : Tbl α :=
  if v = d then t.filter fun e => e.1 ≠ k else Tbl.put t k v

/-- Every key of the list lies above `k`. -/
def Tbl.above {α : Type} (k : Nat) (t : Tbl α) : Bool := t.all fun e => k < e.1

/-- The canonical form: keys strictly rise and no entry holds the default. -/
def Tbl.wf {α : Type} [DecidableEq α] (d : α) : Tbl α → Bool
  | [] => true
  | (i, v) :: t => v ≠ d && Tbl.above i t && Tbl.wf d t

end Sys2Proof
end

