-- ==== Sys2Proof/Syntax.lean ====
section
/-! DEFINITION. The steps of the device: one constructor per row of spec/opcode_table.json, in the table's order.
An encoded instruction carries the raw fields of its word (09 R164: d = rd, a = rs1, b = rs2, c = rs3). An event of the
device carries the operands that name it: a place, a message number k, a register value. -/
namespace Sys2Proof

inductive Instr where
  /-- LUI (R195): Loads an upper immediate into rd. -/
  | lui (i : BitVec 20) (d : BitVec 5)
  /-- AUIPC (R195): Adds an upper immediate to the PC and writes rd. -/
  | auipc (i : BitVec 20) (d : BitVec 5)
  /-- JAL (R195): Jumps PC-relative and links PC+4 into rd. -/
  | jal (i : BitVec 20) (d : BitVec 5)
  /-- JALR (R195): Jumps to rs1+offset with bit 0 cleared and links PC+4. -/
  | jalr (i : BitVec 12) (a : BitVec 5) (d : BitVec 5)
  /-- BRANCH (R195): Conditional branch beq/bne/blt/bge/bltu/bgeu selected by funct3. -/
  | branch (j : BitVec 7) (b : BitVec 5) (a : BitVec 5) (f : BitVec 3) (k : BitVec 5)
  /-- LOAD (R202): Base integer load of 1, 2, 4 or 8 bytes selected by funct3. -/
  | load (i : BitVec 12) (a : BitVec 5) (f : BitVec 3) (d : BitVec 5)
  /-- STORE (R202): Base integer store of 1, 2, 4 or 8 bytes selected by funct3. -/
  | store (j : BitVec 7) (b : BitVec 5) (a : BitVec 5) (f : BitVec 3) (k : BitVec 5)
  /-- OP_IMM (R195): addi, slti, sltiu, xori, ori or andi selected by funct3. -/
  | opImm (i : BitVec 12) (a : BitVec 5) (f : BitVec 3) (d : BitVec 5)
  /-- SLLI (R195): Shift left logical by an immediate. -/
  | slli (s : BitVec 6) (a : BitVec 5) (d : BitVec 5)
  /-- SRLI (R195): Shift right logical by an immediate. -/
  | srli (s : BitVec 6) (a : BitVec 5) (d : BitVec 5)
  /-- SRAI (R195): Shift right arithmetic by an immediate. -/
  | srai (s : BitVec 6) (a : BitVec 5) (d : BitVec 5)
  /-- ADDIW (R195): 32-bit add immediate, sign-extended result. -/
  | addiw (i : BitVec 12) (a : BitVec 5) (d : BitVec 5)
  /-- SLLIW (R196): 32-bit shift left by an immediate. -/
  | slliw (s : BitVec 5) (a : BitVec 5) (d : BitVec 5)
  /-- SRLIW (R196): 32-bit logical shift right by an immediate. -/
  | srliw (s : BitVec 5) (a : BitVec 5) (d : BitVec 5)
  /-- SRAIW (R196): 32-bit arithmetic shift right by an immediate. -/
  | sraiw (s : BitVec 5) (a : BitVec 5) (d : BitVec 5)
  /-- OP (R195): add, sll, slt, sltu, xor, srl, or or and selected by funct3. -/
  | op (b : BitVec 5) (a : BitVec 5) (f : BitVec 3) (d : BitVec 5)
  /-- SUB (R195): Subtract rs2 from rs1. -/
  | sub (b : BitVec 5) (a : BitVec 5) (d : BitVec 5)
  /-- SRA (R195): Arithmetic shift right by rs2[5:0]. -/
  | sra (b : BitVec 5) (a : BitVec 5) (d : BitVec 5)
  /-- OP_32 (R195): addw, sllw or srlw selected by funct3. -/
  | op32 (b : BitVec 5) (a : BitVec 5) (f : BitVec 3) (d : BitVec 5)
  /-- SUBW (R195): 32-bit subtract, sign-extended. -/
  | subw (b : BitVec 5) (a : BitVec 5) (d : BitVec 5)
  /-- SRAW (R195): 32-bit arithmetic shift right, sign-extended. -/
  | sraw (b : BitVec 5) (a : BitVec 5) (d : BitVec 5)
  /-- FENCE (R204): Full fence at system scope, or a hint when pred or succ is 0. -/
  | fence (f : BitVec 4) (p : BitVec 4) (s : BitVec 4) (a : BitVec 5) (d : BitVec 5)
  /-- FENCE_I (R205): Drops every line of the executing unit's L1I. -/
  | fenceI (i : BitVec 12) (a : BitVec 5) (d : BitVec 5)
  /-- ECALL (R206): Raises the environment call of the current mode. -/
  | ecall
  /-- EBREAK (R206): Raises breakpoint with its PC in tval. -/
  | ebreak
  /-- MUL (R197): mul, mulh, mulhsu or mulhu selected by funct3. -/
  | mul (b : BitVec 5) (a : BitVec 5) (f : BitVec 2) (d : BitVec 5)
  /-- DIV (R198): div, divu, rem or remu selected by funct3, with defined division-by-zero results. -/
  | div (b : BitVec 5) (a : BitVec 5) (f : BitVec 2) (d : BitVec 5)
  /-- MULW (R197): 32-bit multiply, sign-extended. -/
  | mulw (b : BitVec 5) (a : BitVec 5) (d : BitVec 5)
  /-- DIVW (R198): divw, divuw, remw or remuw selected by funct3. -/
  | divw (b : BitVec 5) (a : BitVec 5) (f : BitVec 2) (d : BitVec 5)
  /-- SHADD (R199): sh1add, sh2add or sh3add selected by funct3. -/
  | shadd (b : BitVec 5) (a : BitVec 5) (f : BitVec 2) (d : BitVec 5)
  /-- ADD_UW (R199): Adds the zero-extended low word of rs1 to rs2. -/
  | addUw (b : BitVec 5) (a : BitVec 5) (d : BitVec 5)
  /-- SHADD_UW (R199): sh1add.uw, sh2add.uw or sh3add.uw selected by funct3. -/
  | shaddUw (b : BitVec 5) (a : BitVec 5) (f : BitVec 2) (d : BitVec 5)
  /-- SLLI_UW (R199): Shifts the zero-extended low word of rs1 left by an immediate. -/
  | slliUw (s : BitVec 6) (a : BitVec 5) (d : BitVec 5)
  /-- ANDN_ORN_XNOR (R199): andn, orn or xnor selected by funct3. -/
  | andnOrnXnor (b : BitVec 5) (a : BitVec 5) (f : BitVec 3) (d : BitVec 5)
  /-- MIN_MAX (R199): min, minu, max or maxu selected by funct3. -/
  | minMax (b : BitVec 5) (a : BitVec 5) (f : BitVec 2) (d : BitVec 5)
  /-- ROL_ROR (R199): Rotate left or right by rs2[5:0]. -/
  | rolRor (b : BitVec 5) (a : BitVec 5) (f : BitVec 1) (d : BitVec 5)
  /-- ROLW_RORW (R199): 32-bit rotate left or right, sign-extended. -/
  | rolwRorw (b : BitVec 5) (a : BitVec 5) (f : BitVec 1) (d : BitVec 5)
  /-- RORI (R199): Rotate right by an immediate. -/
  | rori (s : BitVec 6) (a : BitVec 5) (d : BitVec 5)
  /-- RORIW (R199): 32-bit rotate right by an immediate. -/
  | roriw (s : BitVec 5) (a : BitVec 5) (d : BitVec 5)
  /-- CLZ_CTZ_CPOP_SEXT (R199): clz, ctz, cpop, sext.b or sext.h selected by the immediate. -/
  | clzCtzCpopSext (f : BitVec 3) (a : BitVec 5) (d : BitVec 5)
  /-- CLZW_CTZW_CPOPW (R199): Counts over rs1[31:0]. -/
  | clzwCtzwCpopw (f : BitVec 3) (a : BitVec 5) (d : BitVec 5)
  /-- ORC_B (R199): Sets each non-zero byte to 0xFF. -/
  | orcB (a : BitVec 5) (d : BitVec 5)
  /-- REV8 (R199): Reverses the byte order. -/
  | rev8 (a : BitVec 5) (d : BitVec 5)
  /-- ZEXT_H (R199): Zero-extends the low half of rs1. -/
  | zextH (a : BitVec 5) (d : BitVec 5)
  /-- FP_LOAD (R200): flw or fld loads an FP register. -/
  | fpLoad (i : BitVec 12) (a : BitVec 5) (f : BitVec 1) (d : BitVec 5)
  /-- FP_STORE (R200): fsw or fsd stores an FP register. -/
  | fpStore (j : BitVec 7) (b : BitVec 5) (a : BitVec 5) (f : BitVec 1) (k : BitVec 5)
  /-- FP_FUSED (R200): fmadd, fmsub, fnmsub or fnmadd rounded once. -/
  | fpFused (c : BitVec 5) (t : BitVec 1) (b : BitVec 5) (a : BitVec 5) (r : BitVec 3) (d : BitVec 5) (o : BitVec 2)
  /-- FP_ARITH (R200): fadd, fsub, fmul or fdiv. -/
  | fpArith (o : BitVec 2) (t : BitVec 1) (b : BitVec 5) (a : BitVec 5) (r : BitVec 3) (d : BitVec 5)
  /-- FSQRT (R200): Correctly rounded square root. -/
  | fsqrt (t : BitVec 1) (a : BitVec 5) (r : BitVec 3) (d : BitVec 5)
  /-- FSGNJ (R200): fsgnj, fsgnjn or fsgnjx. -/
  | fsgnj (t : BitVec 1) (b : BitVec 5) (a : BitVec 5) (f : BitVec 3) (d : BitVec 5)
  /-- FMIN_FMAX (R160): minimumNumber or maximumNumber. -/
  | fminFmax (t : BitVec 1) (b : BitVec 5) (a : BitVec 5) (f : BitVec 1) (d : BitVec 5)
  /-- FCVT_S_D (R200): Converts FP64 to FP32. -/
  | fcvtSD (a : BitVec 5) (r : BitVec 3) (d : BitVec 5)
  /-- FCVT_D_S (R200): Converts FP32 to FP64. -/
  | fcvtDS (a : BitVec 5) (r : BitVec 3) (d : BitVec 5)
  /-- FP_COMPARE (R200): feq, flt or fle. -/
  | fpCompare (t : BitVec 1) (b : BitVec 5) (a : BitVec 5) (f : BitVec 2) (d : BitVec 5)
  /-- FCVT_TO_INT (R201): Converts an FP value to W, WU, L or LU with saturation. -/
  | fcvtToInt (t : BitVec 1) (f : BitVec 2) (a : BitVec 5) (r : BitVec 3) (d : BitVec 5)
  /-- FCVT_FROM_INT (R200): Converts W, WU, L or LU to an FP value. -/
  | fcvtFromInt (t : BitVec 1) (f : BitVec 2) (a : BitVec 5) (r : BitVec 3) (d : BitVec 5)
  /-- FMV_X (R200): fmv.x.w or fmv.x.d moves FP bits to an x register. -/
  | fmvX (t : BitVec 1) (a : BitVec 5) (d : BitVec 5)
  /-- FCLASS (R200): Writes the class mask of an FP value. -/
  | fclass (t : BitVec 1) (a : BitVec 5) (d : BitVec 5)
  /-- FMV_TO_F (R200): fmv.w.x or fmv.d.x moves x bits into an FP register. -/
  | fmvToF (t : BitVec 1) (a : BitVec 5) (d : BitVec 5)
  /-- CSRRW (R207): Atomically swaps a CSR with rs1. -/
  | csrrw (c : BitVec 12) (a : BitVec 5) (d : BitVec 5)
  /-- CSRRS (R207): Atomically reads a CSR and sets bits. -/
  | csrrs (c : BitVec 12) (a : BitVec 5) (d : BitVec 5)
  /-- CSRRC (R207): Atomically reads a CSR and clears bits. -/
  | csrrc (c : BitVec 12) (a : BitVec 5) (d : BitVec 5)
  /-- CSRRWI (R207): Atomically writes a CSR from an immediate. -/
  | csrrwi (c : BitVec 12) (u : BitVec 5) (d : BitVec 5)
  /-- CSRRSI (R207): Atomically sets CSR bits from an immediate. -/
  | csrrsi (c : BitVec 12) (u : BitVec 5) (d : BitVec 5)
  /-- CSRRCI (R207): Atomically clears CSR bits from an immediate. -/
  | csrrci (c : BitVec 12) (u : BitVec 5) (d : BitVec 5)
  /-- SFENCE_VMA (R46): Releases, broadcasts a TLB invalidation across the package and waits for it to finish. -/
  | sfenceVma (b : BitVec 5) (a : BitVec 5)
  /-- MRET (R316): Returns from an M-mode trap, restoring mode and the trapping lanes. -/
  | mret
  /-- SRET (R316): Returns from an S-mode trap, or ends an aborted handler task. -/
  | sret
  /-- WFI (R317): Leaves issue until an interrupt is pending; a save point in S or M mode. -/
  | wfi
  /-- LD_ACQ (R219): Acquire load of 1 to 8 bytes at the home, bank or owning core. -/
  | ldAcq (z : BitVec 2) (s : BitVec 3) (a : BitVec 5) (d : BitVec 5)
  /-- ST_REL (R219): Release store written through to the place where the line lives. -/
  | stRel (z : BitVec 2) (s : BitVec 3) (b : BitVec 5) (a : BitVec 5)
  /-- AMO_W (R224): Word atomic read-modify-write selected by FUNCT5. -/
  | amoW (o : BitVec 5) (q : BitVec 1) (l : BitVec 1) (b : BitVec 5) (a : BitVec 5) (d : BitVec 5)
  /-- AMO_D (R224): Double atomic read-modify-write selected by FUNCT5. -/
  | amoD (o : BitVec 5) (q : BitVec 1) (l : BitVec 1) (b : BitVec 5) (a : BitVec 5) (d : BitVec 5)
  /-- AMO_FADD_F32 (R224): Atomic FP32 add rounded once at the home. -/
  | amoFaddF32 (q : BitVec 1) (l : BitVec 1) (b : BitVec 5) (a : BitVec 5) (d : BitVec 5)
  /-- AMO_FADD_BF16 (R224): Atomic BF16 add rounded once at the home. -/
  | amoFaddBf16 (q : BitVec 1) (l : BitVec 1) (b : BitVec 5) (a : BitVec 5) (d : BitVec 5)
  /-- AMO_CAS_W (R226): Word compare-and-swap with release and acquire. -/
  | amoCasW (c : BitVec 5) (b : BitVec 5) (a : BitVec 5) (d : BitVec 5)
  /-- AMO_CAS_D (R226): Double compare-and-swap with release and acquire. -/
  | amoCasD (c : BitVec 5) (b : BitVec 5) (a : BitVec 5) (d : BitVec 5)
  /-- LEASE2 (R109): Requests ownership of two lines and arms a lease region over both. -/
  | lease2 (c : BitVec 5) (b : BitVec 5) (a : BitVec 5) (d : BitVec 5)
  /-- RED (R227): Posts a tagged reduction contribution. -/
  | red (o : BitVec 2) (t : BitVec 3) (b : BitVec 5) (a : BitVec 5)
  /-- FLD (R228): Future load that waits at the home until the word is full. -/
  | fld (a : BitVec 5) (d : BitVec 5)
  /-- FLD_D (R228): Future load of two words. -/
  | fldD (a : BitVec 5) (d : BitVec 5)
  /-- FST (R228): Future store that fills the word and wakes deferred loads. -/
  | fst (b : BitVec 5) (a : BitVec 5)
  /-- FST_D (R228): Future store of two words. -/
  | fstD (b : BitVec 5) (a : BitVec 5)
  /-- FRST (R228): Sets a future word empty. -/
  | frst (a : BitVec 5)
  /-- FRST_D (R228): Sets two future words empty. -/
  | frstD (a : BitVec 5)
  /-- LEASE (R109): Requests ownership of one line and arms a lease region. -/
  | lease (b : BitVec 5) (a : BitVec 5) (d : BitVec 5)
  /-- LCLOSE (R116): Commits the lease region by merging its shadows. -/
  | lclose
  /-- LABORT (R117): Abandons the lease region and discards its shadows. -/
  | labort
  /-- WAITCNT (R220): Waits until a path counter is at most a limit, acquiring completions. -/
  | waitcnt (a : BitVec 5) (p : BitVec 5)
  /-- FENCE_OWN (R221): Holds later loads until earlier stores leave the store queue. -/
  | fenceOwn
  /-- FENCE_FORCE (R222): Forces a full fence on every context of a target unit. -/
  | fenceForce (a : BitVec 5)
  /-- BSEAL (R230): Seals a write-once range in the seal table. -/
  | bseal (b : BitVec 5) (a : BitVec 5)
  /-- BOPEN (R231): Waits for a sealed range's copies and frees its entry. -/
  | bopen (a : BitVec 5)
  /-- CWB (R232): Writes back or gives up one line. -/
  | cwb (a : BitVec 5)
  /-- CWB_CTX (R232): Writes back every Dirty and Owned line of the context. -/
  | cwbCtx
  /-- CINV (R232): Writes back a line and leaves it Invalid. -/
  | cinv (a : BitVec 5)
  /-- PF_L1 (R233): Prefetches a line Valid into the L1D. -/
  | pfL1 (i : BitVec 12) (a : BitVec 5) (k : BitVec 5)
  /-- PF_L2 (R233): Prefetches a line into its home slice. -/
  | pfL2 (i : BitVec 12) (a : BitVec 5)
  /-- BAR_INIT (R236): Initialises a barrier object's count and phase. -/
  | barInit (b : BitVec 5) (a : BitVec 5)
  /-- BAR_ARRIVE (R236): Releases and counts one arrival, completing the phase when last. -/
  | barArrive (a : BitVec 5) (d : BitVec 5)
  /-- BAR_EXPECT (R236): Adds expected arrivals to the current phase. -/
  | barExpect (b : BitVec 5) (a : BitVec 5)
  /-- BAR_WAIT (R236): Waits while the phase equals the given number, then acquires. -/
  | barWait (b : BitVec 5) (a : BitVec 5)
  /-- BAR_TRY (R236): Tests for phase completion without waiting. -/
  | barTry (b : BitVec 5) (a : BitVec 5) (d : BitVec 5)
  /-- MSEND (R246): Releases and sends a message to run a handler on the core of a rank. -/
  | msend (n : BitVec 3) (s : BitVec 3) (b : BitVec 5) (a : BitVec 5)
  /-- HEND (R250): Ends a handler task, releasing held sends, or ends a thread. -/
  | hend
  /-- CARM (R254): Arms a codelet descriptor by an owner atomic. -/
  | carm (b : BitVec 5) (a : BitVec 5) (d : BitVec 5)
  /-- CDEC (R255): Decrements a codelet counter by an owner atomic. -/
  | cdec (a : BitVec 5)
  /-- SPAWN (R259): Claims a vacant light rank and sends a new thread's arrival. -/
  | spawn (b : BitVec 5) (a : BitVec 5) (d : BitVec 5)
  /-- MIGRATE_ADDR (R260): Moves a light thread to the owner of a core-pinned address. -/
  | migrateAddr (a : BitVec 5)
  /-- MIGRATE_RANK (R260): Moves a light thread to the core of a rank. -/
  | migrateRank (a : BitVec 5)
  /-- UIRET (R262): Ends a user-interrupt handler and returns to uepc. -/
  | uiret
  /-- YIELD (R263): Yields issue, or makes a migration point for a light thread. -/
  | yield
  /-- QSEND (R261): Pushes one packet to the channel a handle names. -/
  | qsend (n : BitVec 3) (b : BitVec 5) (a : BitVec 5)
  /-- QRECV (R261): Pops the head packet of a channel, waiting while empty. -/
  | qrecv (n : BitVec 3) (q : BitVec 5) (d : BitVec 5)
  /-- QPOLL (R261): Reports head packet size and fill of a channel without popping. -/
  | qpoll (q : BitVec 5) (d : BitVec 5)
  /-- MSAVE (R320): Writes an accumulator slot to a save area and frees it. -/
  | msave (a : BitVec 5) (n : BitVec 5)
  /-- MREST (R320): Restores an accumulator slot from a save area. -/
  | mrest (a : BitVec 5) (n : BitVec 5)
  /-- RTAB_SET (R322): Installs a rank table and invalidates cached entries. -/
  | rtabSet (b : BitVec 5) (a : BitVec 5)
  /-- CTX_TAG (R323): Records a new global context identifier, flushing the old entry. -/
  | ctxTag (a : BitVec 5)
  /-- ISLAND_QUERY (R325): island.req OP 0: returns an island's operating point and gating. -/
  | islandQuery (b : BitVec 5) (a : BitVec 5) (d : BitVec 5)
  /-- ISLAND_SET_POINT (R325): island.req OP 1: requests a new operating point. -/
  | islandSetPoint (b : BitVec 5) (a : BitVec 5) (d : BitVec 5)
  /-- ISLAND_GATE (R325): island.req OP 2: waits for regions, writes back and gates an island. -/
  | islandGate (b : BitVec 5) (a : BitVec 5) (d : BitVec 5)
  /-- ISLAND_UNGATE (R325): island.req OP 3: powers an island up. -/
  | islandUngate (b : BitVec 5) (a : BitVec 5) (d : BitVec 5)
  /-- WAVEGO (R266): Releases and sends a crossing request to the Tun, stalling the thread. -/
  | wavego (b : BitVec 5) (a : BitVec 5)
  /-- WRET (R268): Delivers each lane's OUT registers back to its thread and finishes the lane. -/
  | wret
  /-- WFLUSH (R270): Launches matching non-empty Tun bins at once. -/
  | wflush (a : BitVec 5)
  /-- REGROUP (R272): Parks the wave until the crew arrives, then merges survivors. -/
  | regroup (a : BitVec 5)
  /-- WSYNC (R271): Parks lanes until every unfinished lane is parked, then releases them. -/
  | wsync
  /-- VOTE_ANY (R274): Returns 1 if some executing non-helper lane has rs1 non-zero. -/
  | voteAny (a : BitVec 5) (d : BitVec 5)
  /-- VOTE_ALL (R274): Returns 1 if every executing non-helper lane has rs1 non-zero. -/
  | voteAll (a : BitVec 5) (d : BitVec 5)
  /-- BALLOT (R274): Returns the mask of non-helper lanes with rs1 non-zero. -/
  | ballot (a : BitVec 5) (d : BitVec 5)
  /-- SHFL (R275): Each lane reads rs1 of the lane its index names. -/
  | shfl (b : BitVec 5) (a : BitVec 5) (d : BitVec 5)
  /-- SHFL_XOR (R275): Each lane reads rs1 of lane l XOR index. -/
  | shflXor (b : BitVec 5) (a : BitVec 5) (d : BitVec 5)
  /-- RDLANE (R275): Every lane reads rs1 of one lane. -/
  | rdlane (b : BitVec 5) (a : BitVec 5) (d : BitVec 5)
  /-- QUAD_SX (R276): Quad exchange with lane l XOR 1. -/
  | quadSx (a : BitVec 5) (d : BitVec 5)
  /-- QUAD_SY (R276): Quad exchange with lane l XOR 2. -/
  | quadSy (a : BitVec 5) (d : BitVec 5)
  /-- QUAD_SD (R276): Quad exchange with lane l XOR 3. -/
  | quadSd (a : BitVec 5) (d : BitVec 5)
  /-- QUAD_BC (R276): Broadcasts lane i of each quad. -/
  | quadBc (i : BitVec 5) (a : BitVec 5) (d : BitVec 5)
  /-- ISHELPER (R276): Writes 1 in helper lanes and 0 otherwise. -/
  | ishelper (d : BitVec 5)
  /-- BXT (R278): Tests a ray against a box read from memory. -/
  | bxt (b : BitVec 5) (a : BitVec 5) (d : BitVec 5)
  /-- TRT (R279): Tests a ray against a triangle read from memory. -/
  | trt (b : BitVec 5) (a : BitVec 5) (d : BitVec 5)
  /-- VL_W (R281): Loads eight words into a w register. -/
  | vlW (i : BitVec 12) (a : BitVec 5) (d : BitVec 5)
  /-- VS_W (R281): Stores eight words from a w register. -/
  | vsW (i : BitVec 7) (b : BitVec 5) (a : BitVec 5) (j : BitVec 5)
  /-- VADD (R282): Element-wise short-vector add. -/
  | vadd (t : BitVec 1) (b : BitVec 5) (a : BitVec 5) (d : BitVec 5)
  /-- VSUB (R282): Element-wise short-vector subtract. -/
  | vsub (t : BitVec 1) (b : BitVec 5) (a : BitVec 5) (d : BitVec 5)
  /-- VMUL (R282): Element-wise short-vector multiply. -/
  | vmul (t : BitVec 1) (b : BitVec 5) (a : BitVec 5) (d : BitVec 5)
  /-- VMIN (R282): Element-wise minimumNumber. -/
  | vmin (t : BitVec 1) (b : BitVec 5) (a : BitVec 5) (d : BitVec 5)
  /-- VMAX (R282): Element-wise maximumNumber. -/
  | vmax (t : BitVec 1) (b : BitVec 5) (a : BitVec 5) (d : BitVec 5)
  /-- VBC (R282): Broadcasts an f register into every element. -/
  | vbc (t : BitVec 1) (a : BitVec 5) (d : BitVec 5)
  /-- BSORT (R283): Stable sort of eight key-value pairs. -/
  | bsort (t : BitVec 1) (a : BitVec 5) (d : BitVec 5)
  /-- BMERGE (R283): Stable sort of sixteen key-value pairs from two sources. -/
  | bmerge (t : BitVec 1) (b : BitVec 5) (a : BitVec 5) (d : BitVec 5)
  /-- VFMA (R282): Element-wise fused multiply-add. -/
  | vfma (c : BitVec 5) (t : BitVec 1) (b : BitVec 5) (a : BitVec 5) (d : BitVec 5)
  /-- MMA (R296): Checks and queues a 128x128 matrix multiply-accumulate into a slot. -/
  | mma (b : BitVec 5) (a : BitVec 5) (n : BitVec 5)
  /-- MZERO (R298): Clears an accumulator slot. -/
  | mzero (n : BitVec 5)
  /-- EPI (R300): Queues an epilogue that converts a slot into cluster SRAM. -/
  | epi (a : BitVec 5) (n : BitVec 5)
  /-- MLINK (R299): Hands an accumulator slot to another wave of the crew. -/
  | mlink (a : BitVec 5) (n : BitVec 5)
  /-- PRED (R304): Queues a row prediction on the Kudu. -/
  | pred (a : BitVec 5)
  /-- PUNION (R306): Queues a chunked union of index lists. -/
  | punion (a : BitVec 5)
  /-- SPARGE (R308): Queues the check stage that bounds skipped neurons. -/
  | sparge (a : BitVec 5)
  /-- MMA_SP (R297): Checks and queues a 2:4 sparse multiply-accumulate. -/
  | mmaSp (c : BitVec 5) (b : BitVec 5) (a : BitVec 5) (n : BitVec 5)
  /-- CPLAUNCH (R76): Read of cplaunch checks, snapshots and launches a Dray transfer. -/
  | cplaunch (d : BitVec 5)
  /-- CPSTAT_SELECT (R91): Write to cpstat selects a transfer and the status or fault address view. -/
  | cpstatSelect (v : BitVec 64)
  /-- CPSTAT_CANCEL (R91): Write of CANCEL to cpstat cancels the selected outstanding transfer. -/
  | cpstatCancel (v : BitVec 64)
  /-- CPSTAT_READ (R91): Read of cpstat returns status, acquiring a done transfer's completion. -/
  | cpstatRead (d : BitVec 5)
  /-- SDWQ_READ (R374): Read of sdwq returns the next double of the head fault record. -/
  | sdwqRead (d : BitVec 5)
  /-- SDWN_DISCARD (R374): Write of 0 to sdwn RECS discards every fault record. -/
  | sdwnDiscard
  /-- WEND_WRITE (R353): Write to wend stops the named wave so it retires. -/
  | wendWrite (cl : Nat) (v : BitVec 64)
  /-- CQ_DOORBELL (R344): Write to cqtail rings a command queue's doorbell. -/
  | cqDoorbell (q : Nat) (v : BitVec 64)
  /-- PAGE_WALK (R44): A free walker takes the head request of the next non-empty cluster FIFO. -/
  | pageWalk (die : Nat)
  /-- TABLE_LINE_REPLY (R41): A page table entry read returns from its home slice to a walker. -/
  | tableLineReply (k : Nat)
  /-- TLB_SHOOTDOWN (R46): An sfence.vma broadcast reaches a TLB, which invalidates matching entries. -/
  | tlbShootdown (k tlb : Nat)
  /-- SLICE_READ (R53): A read request is performed at its home slice. -/
  | sliceRead (k : Nat)
  /-- SLICE_WRITE (R54): A write-back, store or Dray write is merged at its home slice. -/
  | sliceWrite (k : Nat)
  /-- OWNERSHIP_REQUEST (R54): An ownership request reaches the home slice's directory. -/
  | ownershipRequest (k : Nat)
  /-- GIVE_UP_OWNERSHIP (R54): An owner gives up a line, freeing its directory entry. -/
  | giveUpOwnership (k : Nat)
  /-- RECALL (R55): A recall arrives at the owning L1, which writes back or queues it under a lease. -/
  | recall (k : Nat)
  /-- RECALL_REPLY (R54): A recall reply merges bytes at the home, which then serves its queue. -/
  | recallReply (k : Nat)
  /-- TAGGED_REQUEST (R57): A tagged atomic, contribution or future request is de-duplicated and performed at the slice. -/
  | taggedRequest (k : Nat)
  /-- BARE_ACKNOWLEDGEMENT (R57): An idle context's 4,096-clk timer sends its ACKSEQ. -/
  | bareAcknowledgement (p : Place) (home : Nat)
  /-- REFUSED_RESEND (R55): A refused request is resent after its delay expires. -/
  | refusedResend (k : Nat)
  /-- TAGGED_RESEND_TIMEOUT (R58): An unanswered tagged request is resent after 8,192 or 65,536 clk. -/
  | taggedResendTimeout (k : Nat)
  /-- FLD_RESEND (R67): A refused fld is resent with raised age after 512 clk. -/
  | fldResend (k : Nat)
  /-- FLD_CANCEL (R68): A cancel frees a deferral entry of a pre-empted, migrating or aborted waiter. -/
  | fldCancel (k : Nat)
  /-- L1_FILL (R102): A line reply installs a line in an L1D and writes waiting registers. -/
  | l1Fill (k : Nat)
  /-- WRITE_BACK_ACK (R103): A home acknowledges a write-back, completing counters and releases. -/
  | writeBackAck (k : Nat)
  /-- STORE_QUEUE_DRAIN (R221): A store leaves the 8-entry store queue for the L1D, bank or home. -/
  | storeQueueDrain (unit : Nat)
  /-- BANK_ACCESS (R96): A cluster-window access is performed at its SRAM bank. -/
  | bankAccess (k : Nat)
  /-- CORE_SRAM_ACCESS (R99): A load or store to a user page is performed at the owning core. -/
  | coreSramAccess (k : Nat)
  /-- TAG_FLUSH (R106): A tag flush reaches a unit, which writes back the entry's lines and replies. -/
  | tagFlush (k : Nat)
  /-- TAG_FLUSH_REPLY (R107): The flush reply lets a resumed context issue. -/
  | tagFlushReply (k : Nat)
  /-- LAZY_DRAIN (R106): Every 8 clk a Departed entry writes back one tagged line. -/
  | lazyDrain (unit entry : Nat)
  /-- LEASE_ARM (R112): Once all lines are Owned and a slot frees, the region arms with a checkpoint. -/
  | leaseArm (p : Place)
  /-- LEASE_EXPIRY (R112): The budget counter runs out and breaks the region. -/
  | leaseExpiry (p : Place)
  /-- RECALL_DEFERRAL_EXPIRY (R111): A recall deferred while acquiring is served after 128 clk. -/
  | recallDeferralExpiry (k : Nat)
  /-- DRAY_TRANSFER_START (R85): A Dray takes a queued transfer and begins issuing units. -/
  | drayTransferStart (dray : Nat)
  /-- DRAY_TILE_UNIT (R80): A tile-mode unit is copied or clipped. -/
  | drayTileUnit (x u : Nat)
  /-- DRAY_GATHER_UNIT (R82): A gather unit copies A[B[i]] to the dense side. -/
  | drayGatherUnit (x u : Nat)
  /-- DRAY_SCATTER_UNIT (R82): A scatter unit copies to A[B[i]]. -/
  | drayScatterUnit (x u : Nat)
  /-- DRAY_ROW_GATHER_UNIT (R83): A row-gather unit copies one indexed row. -/
  | drayRowGatherUnit (x u : Nat)
  /-- DRAY_POD_EXCHANGE_UNIT (R84): A pod-exchange unit sends one block and its notice. -/
  | drayPodExchangeUnit (x u : Nat)
  /-- DRAY_FAULT_STOP (R92): A fault in a unit stops the transfer with DONE and CAUSE. -/
  | drayFaultStop (x : Nat)
  /-- DRAY_COMPLETION (R87): A transfer completes: clip message, release, status, counter, settlement, interrupt. -/
  | drayCompletion (x : Nat)
  /-- RANK_LOOKUP_REPLY (R240): A rank entry read returns to a network interface. -/
  | rankLookupReply (k : Nat)
  /-- HELD_MESSAGE_REREAD (R241): Every 64 clk a held message re-reads an in-transit rank entry. -/
  | heldMessageReread (k : Nat)
  /-- MESSAGE_ADMISSION (R243): A message reaches a core and is admitted or refused. -/
  | messageAdmission (k : Nat)
  /-- ARRIVAL_ADMISSION (R243): A light context arrives and is admitted to an arrival place or refused. -/
  | arrivalAdmission (k : Nat)
  /-- OWNER_ATOMIC (R257): The built-in handler performs a core-pinned atomic in two clk. -/
  | ownerAtomic (core : Nat)
  /-- HANDLER_TASK_START (R247): The handler set takes the next message or codelet task. -/
  | handlerTaskStart (core : Nat)
  /-- BUDGET_EXPIRY (R248): A handler's budget runs out and raises BUDGET. -/
  | budgetExpiry (p : Place)
  /-- MIGRATE_TRANSIT_REPLY (R260): The step-3 reply sends the 80-byte context to the target. -/
  | migrateTransitReply (k : Nat)
  /-- CHANNEL_PUSH_ARRIVAL (R136): A packet lands in the target channel. -/
  | channelPushArrival (k : Nat)
  /-- TUN_REQUEST (R360): A wavego request joins or creates a Tun bin. -/
  | tunRequest (k : Nat)
  /-- TUN_BIN_TIMEOUT (R360): A bin's oldest request has waited TMO clk and the bin launches. -/
  | tunBinTimeout (cl bin : Nat)
  /-- GATHERED_WAVE_PLACE (R361): A queued gathered wave takes a free engine slot. -/
  | gatheredWavePlace (cl : Nat)
  /-- REGROUP_MERGE (R272): When the whole crew has arrived and is resident, survivors are merged. -/
  | regroupMerge (launch crew : Nat)
  /-- WAVE_RETIRE (R353): A stopped wave retires once its counters reach 0, clearing its slots. -/
  | waveRetire (p : Place)
  /-- MATRIX_UNIT_START (R289): A matrix unit starts the next queued instruction once its slot is free. -/
  | matrixUnitStart (eng n : Nat)
  /-- MATRIX_COMPLETION (R290): A matrix instruction writes, releases, arrives and lowers mx. -/
  | matrixCompletion (eng n : Nat)
  /-- PREDICTOR_START (R289): The predictor starts the next queued instruction. -/
  | predictorStart (cl : Nat)
  /-- PREDICTOR_COMPLETION (R302): A predictor instruction writes its results and status and lowers mx. -/
  | predictorCompletion (cl : Nat)
  /-- PACKET_READ (R344): The distributor reads a packet after a doorbell. -/
  | packetRead (q : Nat)
  /-- LAUNCH_ADMISSION (R349): The distributor admits the highest-priority head launch and places units. -/
  | launchAdmission
  /-- MARKER_SIGNAL (R345): A marker signals once earlier launches have completed. -/
  | markerSignal (q : Nat)
  /-- UNIT_PLACEMENT (R350): A waiting thread or wave is placed when room frees. -/
  | unitPlacement (launch : Nat)
  /-- LAUNCH_COMPLETION (R347): A launch completes, ranks are vacated and the signal is written. -/
  | launchCompletion (launch : Nat)
  /-- PREEMPTION_REQUEST (R354): The distributor requests pre-emption of victim units. -/
  | preemptionRequest (launch : Nat)
  /-- FLOOR_SHARE_SLICE (R354): A pre-empted concurrent launch is resumed for one slice in eight. -/
  | floorShareSlice (launch : Nat)
  /-- DEMOTION_EXPIRY (R357): A demotion ends after 1,024 clk. -/
  | demotionExpiry (p : Place)
  /-- SPIN_WAKE (R357): A wake event ends a demotion early. -/
  | spinWake (p : Place)
  /-- YIELD_EXPIRY (R263): A yield's 16-clk exclusion ends. -/
  | yieldExpiry (p : Place)
  /-- TRAP_ENTRY (R366): A precise exception enters the trap handler with cause, epc and tval. -/
  | trapEntry (cause : Nat) (tval : BitVec 64)
  /-- INTERRUPT_TAKEN (R368): A pending M or S interrupt is taken at a boundary. -/
  | interruptTaken (p : Place) (code : Nat)
  /-- MACHINE_CHECK (R377): A machine check interrupt is taken by the context that met the error. -/
  | machineCheck (p : Place)
  /-- PREEMPTION_INTERRUPT (R380): A pre-emption request is taken as an S-mode interrupt. -/
  | preemptionInterrupt (p : Place)
  /-- DEFERRED_WRITE (R375): A pending DEFERRED_WRITE is taken at a U-mode boundary. -/
  | deferredWrite (p : Place)
  /-- POISON_EXPORT (R375): A pending poison export trap is taken at a boundary. -/
  | poisonExport (p : Place)
  /-- USER_INTERRUPT (R319): A pending user interrupt enters the user handler. -/
  | userInterrupt (p : Place)
  /-- HARDWARE_SAVE (R381): A context is saved at a save point and its set or slot freed. -/
  | hardwareSave (p : Place)
  /-- CONTEXT_RESUME (R385): A saved context is placed, flushes tags and issues. -/
  | contextResume (area : Nat) (p : Place)
  /-- BACKGROUND_REGISTER_FETCH (R385): One absent register is fetched every 4 idle clk. -/
  | backgroundRegisterFetch (p : Place) (lane file reg : Nat)
  /-- WATCHDOG_EXPIRY (R378): The trap-handler watchdog passes 1,000,000 clk. -/
  | watchdogExpiry (p : Place)
  /-- TAGGED_REPLY (R57): The reply to a tagged atomic, contribution, future or owner-atomic request reaches the requester, writes rd and lowers its ld or st counter. -/
  | taggedReply (k : Nat)
  /-- OPERATING_POINT_CHANGE (R325): The power manager grants a requested operating point, the island clock settles and island.req OP 1 retires. -/
  | operatingPointChange (k : Nat) (granted : Bool)
  /-- ISLAND_POWER_UP (R325): A gated island finishes powering up and island.req OP 3 retires. -/
  | islandPowerUp (k : Nat) (granted : Bool)
  /-- SLPIN_WRITE (R50): Write to slpinN pins or unpins a frame in its home slice. -/
  | slpinWrite (sl n : Nat) (v : BitVec 64)
  /-- TUNCTL_WRITE (R355): Write to tunctl sets threshold and timeout, applying at once. -/
  | tunctlWrite (cl : Nat) (v : BitVec 64)
  /-- REGISTER_WRITE (R8): Write to a register or CSR with no behaviour of its own. -/
  | registerWrite (pa : Nat) (v : BitVec 64)
  /-- PATH_DECLARED_FAILED (R58): Firmware declares a path failed and waiting instructions raise REMOTE. -/
  | pathDeclaredFailed (home : Nat)
  /-- REGISTER_MISS (R326): First use of an absent register fetches it from the save area. -/
  | registerMiss (p : Place) (lane file reg : Nat)
  /-- HOST_READ (R388): A host read of device memory is performed at the home slice. -/
  | hostRead (addr size : Nat)
  /-- HOST_WRITE (R390): A host posted write is performed in order at the home slice. -/
  | hostWrite (addr size : Nat) (v : HostData)
  /-- HOST_ATOMIC (R387): A host AtomicOp is performed at the home slice. -/
  | hostAtomic (op size addr : Nat) (v c : BitVec 64)
  /-- HOST_SNOOP (R393): A host snoop recalls or drops a line the device holds. -/
  | hostSnoop (line : Nat) (inval : Bool)
  /-- FLIT_RETRY (R394): A CRC failure on UCIe or Span retries the flit. -/
  | flitRetry (link : Nat)
  /-- LANE_REPAIR (R394): A failed link lane is replaced by a spare or the link is bypassed. -/
  | laneRepair (link : Nat) (spare : Bool)
  /-- SPAN_PORT_DOWN (R396): A Span port goes down and its requests move to the next port. -/
  | spanPortDown (port : Nat)
  /-- CORRECTED_ERROR (R400): A single-bit error is corrected and counted. -/
  | correctedError (unit : Nat)
  /-- UNCORRECTABLE_ERROR (R400): An uncorrectable error drops, marks or poisons data. -/
  | uncorrectableError (site index : Nat)
  /-- COUNTER_SAMPLE (R400): Every 1 ms the management controller reads error counters. -/
  | counterSample
  /-- UNIT_SELF_TEST (R402): An idle or daily-due unit is tested. -/
  | unitSelfTest (unit : Nat) (pass : Bool)
  /-- UNIT_DECLARED_FAILED (R402): A unit that fails without warning is declared failed. -/
  | unitDeclaredFailed (unit : Nat)
  /-- THERMAL_TRIP (R404): A thermal or supply trip lowers points or force-gates islands. -/
  | thermalTrip (island : Nat) (point : BitVec 4) (gate : Bool)
  /-- DEVICE_RESET (R123): Device or core reset breaks regions and writes back owned lines. -/
  | deviceReset (core : Option Nat)
  /-- START_UP (R405): Power-on runs the start-up stages to READY. -/
  | startUp (stage : Nat) (reason : BitVec 8) (ports pkg : Nat)
  /-- START_UP_WATCHDOG_EXPIRY (R405): The 10 s start-up watchdog counts the start as failed. -/
  | startUpWatchdogExpiry
  /-- LINK_RETRAIN (R58): A UCIe or Span link retrains, losing the replies in flight, and then comes back up. -/
  | linkRetrain (link : Nat)
  /-- WFI_WAKE_WITHOUT_CAUSE (R317): A context that waits in wfi wakes with no interrupt pending. -/
  | wfiWakeWithoutCause (p : Place)
  deriving DecidableEq, Repr

end Sys2Proof
end

