-- ==== Sys2Proof/WellFormed.lean ====
section
/-! DEFINITION. What a well-formed instruction is: its selector fields name an assigned encoding (09 R165 to R183,
10 R194 to R201) and its operand fields keep their limits (09 R167). -/
namespace Sys2Proof

/-- A rounding-mode field that names a mode or `frm` (08 R160). -/
def rmAssigned (r : BitVec 3) : Bool := r != 5#3 && r != 6#3

/-- The selector fields name an assigned encoding; where they do not, the word raises sub-code 0x0000 (09 R166). -/
def Instr.assigned : Instr → Bool
  | .branch _ _ _ f _ => f != 2#3 && f != 3#3
  | .load _ _ f _ => f != 7#3
  | .store _ _ _ f _ => f.toNat ≤ 3
  | .opImm _ _ f _ => f != 1#3 && f != 5#3
  | .op32 _ _ f _ => f == 0#3 || f == 1#3 || f == 5#3
  | .shadd _ _ f _ => f != 0#2
  | .shaddUw _ _ f _ => f != 0#2
  | .andnOrnXnor _ _ f _ => f == 4#3 || f == 6#3 || f == 7#3
  | .clzCtzCpopSext f _ _ => f.toNat ≤ 2 || f == 4#3 || f == 5#3
  | .clzwCtzwCpopw f _ _ => f.toNat ≤ 2
  | .fpFused _ _ _ _ r _ _ => rmAssigned r
  | .fpArith _ _ _ _ r _ => rmAssigned r
  | .fsqrt _ _ r _ => rmAssigned r
  | .fsgnj _ _ _ f _ => f.toNat ≤ 2
  | .fcvtSD _ r _ => rmAssigned r
  | .fcvtDS _ r _ => rmAssigned r
  | .fpCompare _ _ _ f _ => f != 3#2
  | .fcvtToInt _ _ _ r _ => rmAssigned r
  | .fcvtFromInt _ _ _ r _ => rmAssigned r
  | .amoW o _ _ _ _ _ => o.toNat ≤ 8
  | .amoD o _ _ _ _ _ => o.toNat ≤ 8
  | .red o t _ _ => o != 3#2 && t.toNat ≤ 4
  | .pfL1 _ _ k => k != 1#5
  | _ => true

/-- The operand fields keep their limits (09 R167 and the entries); a breach raises sub-code 0x0001. -/
def Instr.inLimits : Instr → Bool
  | .ldAcq _ s _ _ => s.toNat ≤ 5
  | .stRel _ s _ _ => s.toNat ≤ 5
  | .waitcnt _ p => p.toNat ≤ 4
  | .msend _ s _ _ => s.toNat ≤ 5
  | .qsend n b _ => b.toNat + n.toNat ≤ 31
  | .qrecv n q d => q.toNat ≤ 15 && d.toNat + n.toNat ≤ 31
  | .qpoll q _ => q.toNat ≤ 15
  | .msave _ n => n.toNat ≤ 3
  | .mrest _ n => n.toNat ≤ 3
  | .quadBc i _ _ => i.toNat ≤ 3
  | .bxt _ a _ => a.toNat ≤ 25
  | .trt _ a d => a.toNat ≤ 25 && d.toNat ≤ 29
  | .bsort _ a d => a.toNat % 2 == 0 && d.toNat % 2 == 0
  | .bmerge _ b a d => a.toNat % 2 == 0 && b.toNat % 2 == 0 && d.toNat % 2 == 0 && d.toNat ≤ 28
  | .mma _ _ n => n.toNat ≤ 3
  | .mzero n => n.toNat ≤ 3
  | .epi _ n => n.toNat ≤ 3
  | .mlink _ n => n.toNat ≤ 3
  | .mmaSp _ _ _ n => n.toNat ≤ 3
  | _ => true

/-- An instruction that the decoder may give. -/
def Instr.wellFormed (i : Instr) : Bool := i.assigned && i.inLimits

end Sys2Proof
end

