-- ==== Sys2Proof/Decode.lean ====
section
/-! DEFINITION. The decoder, total on any word, rejecting by name, and the encoder beside it (09 R163 to R184; 10 R194 to
R207; 15 R316 to R325 for the system words). -/
namespace Sys2Proof

/-- Why a word is no instruction. `unassigned` raises sub-code 0x0000; `operandLimit` raises 0x0001 (09 R166). -/
inductive DecodeError where
  | unassigned
  | operandLimit
  deriving DecidableEq, Repr

def decodeLui (w : BitVec 32) : Option Instr :=
  some (.lui (bits 12 20 w) (bits 7 5 w))

def decodeAuipc (w : BitVec 32) : Option Instr :=
  some (.auipc (bits 12 20 w) (bits 7 5 w))

def decodeJal (w : BitVec 32) : Option Instr :=
  some (.jal (bits 12 20 w) (bits 7 5 w))

def decodeJalr (w : BitVec 32) : Option Instr :=
  if bits 12 3 w == 0x0#3 then some (.jalr (bits 20 12 w) (bits 15 5 w) (bits 7 5 w))
  else none

def decodeBranch (w : BitVec 32) : Option Instr :=
  some (.branch (bits 25 7 w) (bits 20 5 w) (bits 15 5 w) (bits 12 3 w) (bits 7 5 w))

def decodeLoad (w : BitVec 32) : Option Instr :=
  some (.load (bits 20 12 w) (bits 15 5 w) (bits 12 3 w) (bits 7 5 w))

def decodeStore (w : BitVec 32) : Option Instr :=
  some (.store (bits 25 7 w) (bits 20 5 w) (bits 15 5 w) (bits 12 3 w) (bits 7 5 w))

def decodeOpImm (w : BitVec 32) : Option Instr :=
  if bits 25 7 w == 0x14#7 && bits 20 5 w == 0x7#5 && bits 12 3 w == 0x5#3 then some (.orcB (bits 15 5 w) (bits 7 5 w))
  else if bits 25 7 w == 0x35#7 && bits 20 5 w == 0x18#5 && bits 12 3 w == 0x5#3 then some (.rev8 (bits 15 5 w) (bits 7 5 w))
  else if bits 25 7 w == 0x30#7 && bits 23 2 w == 0x0#2 && bits 12 3 w == 0x1#3 then some (.clzCtzCpopSext (bits 20 3 w) (bits 15 5 w) (bits 7 5 w))
  else if bits 26 6 w == 0x0#6 && bits 12 3 w == 0x1#3 then some (.slli (bits 20 6 w) (bits 15 5 w) (bits 7 5 w))
  else if bits 26 6 w == 0x0#6 && bits 12 3 w == 0x5#3 then some (.srli (bits 20 6 w) (bits 15 5 w) (bits 7 5 w))
  else if bits 26 6 w == 0x10#6 && bits 12 3 w == 0x5#3 then some (.srai (bits 20 6 w) (bits 15 5 w) (bits 7 5 w))
  else if bits 26 6 w == 0x18#6 && bits 12 3 w == 0x5#3 then some (.rori (bits 20 6 w) (bits 15 5 w) (bits 7 5 w))
  else some (.opImm (bits 20 12 w) (bits 15 5 w) (bits 12 3 w) (bits 7 5 w))

def decodeOpImm32 (w : BitVec 32) : Option Instr :=
  if bits 25 7 w == 0x30#7 && bits 23 2 w == 0x0#2 && bits 12 3 w == 0x1#3 then some (.clzwCtzwCpopw (bits 20 3 w) (bits 15 5 w) (bits 7 5 w))
  else if bits 25 7 w == 0x0#7 && bits 12 3 w == 0x1#3 then some (.slliw (bits 20 5 w) (bits 15 5 w) (bits 7 5 w))
  else if bits 25 7 w == 0x0#7 && bits 12 3 w == 0x5#3 then some (.srliw (bits 20 5 w) (bits 15 5 w) (bits 7 5 w))
  else if bits 25 7 w == 0x20#7 && bits 12 3 w == 0x5#3 then some (.sraiw (bits 20 5 w) (bits 15 5 w) (bits 7 5 w))
  else if bits 25 7 w == 0x30#7 && bits 12 3 w == 0x5#3 then some (.roriw (bits 20 5 w) (bits 15 5 w) (bits 7 5 w))
  else if bits 26 6 w == 0x2#6 && bits 12 3 w == 0x1#3 then some (.slliUw (bits 20 6 w) (bits 15 5 w) (bits 7 5 w))
  else if bits 12 3 w == 0x0#3 then some (.addiw (bits 20 12 w) (bits 15 5 w) (bits 7 5 w))
  else none

def decodeOp (w : BitVec 32) : Option Instr :=
  if bits 25 7 w == 0x20#7 && bits 12 3 w == 0x0#3 then some (.sub (bits 20 5 w) (bits 15 5 w) (bits 7 5 w))
  else if bits 25 7 w == 0x20#7 && bits 12 3 w == 0x5#3 then some (.sra (bits 20 5 w) (bits 15 5 w) (bits 7 5 w))
  else if bits 25 7 w == 0x30#7 && bits 12 2 w == 0x1#2 then some (.rolRor (bits 20 5 w) (bits 15 5 w) (bits 14 1 w) (bits 7 5 w))
  else if bits 25 7 w == 0x1#7 && bits 14 1 w == 0x0#1 then some (.mul (bits 20 5 w) (bits 15 5 w) (bits 12 2 w) (bits 7 5 w))
  else if bits 25 7 w == 0x1#7 && bits 14 1 w == 0x1#1 then some (.div (bits 20 5 w) (bits 15 5 w) (bits 12 2 w) (bits 7 5 w))
  else if bits 25 7 w == 0x10#7 && bits 12 1 w == 0x0#1 then some (.shadd (bits 20 5 w) (bits 15 5 w) (bits 13 2 w) (bits 7 5 w))
  else if bits 25 7 w == 0x5#7 && bits 14 1 w == 0x1#1 then some (.minMax (bits 20 5 w) (bits 15 5 w) (bits 12 2 w) (bits 7 5 w))
  else if bits 25 7 w == 0x0#7 then some (.op (bits 20 5 w) (bits 15 5 w) (bits 12 3 w) (bits 7 5 w))
  else if bits 25 7 w == 0x20#7 then some (.andnOrnXnor (bits 20 5 w) (bits 15 5 w) (bits 12 3 w) (bits 7 5 w))
  else none

def decodeOp32 (w : BitVec 32) : Option Instr :=
  if bits 25 7 w == 0x4#7 && bits 20 5 w == 0x0#5 && bits 12 3 w == 0x4#3 then some (.zextH (bits 15 5 w) (bits 7 5 w))
  else if bits 25 7 w == 0x20#7 && bits 12 3 w == 0x0#3 then some (.subw (bits 20 5 w) (bits 15 5 w) (bits 7 5 w))
  else if bits 25 7 w == 0x20#7 && bits 12 3 w == 0x5#3 then some (.sraw (bits 20 5 w) (bits 15 5 w) (bits 7 5 w))
  else if bits 25 7 w == 0x1#7 && bits 12 3 w == 0x0#3 then some (.mulw (bits 20 5 w) (bits 15 5 w) (bits 7 5 w))
  else if bits 25 7 w == 0x4#7 && bits 12 3 w == 0x0#3 then some (.addUw (bits 20 5 w) (bits 15 5 w) (bits 7 5 w))
  else if bits 25 7 w == 0x30#7 && bits 12 2 w == 0x1#2 then some (.rolwRorw (bits 20 5 w) (bits 15 5 w) (bits 14 1 w) (bits 7 5 w))
  else if bits 25 7 w == 0x1#7 && bits 14 1 w == 0x1#1 then some (.divw (bits 20 5 w) (bits 15 5 w) (bits 12 2 w) (bits 7 5 w))
  else if bits 25 7 w == 0x10#7 && bits 12 1 w == 0x0#1 then some (.shaddUw (bits 20 5 w) (bits 15 5 w) (bits 13 2 w) (bits 7 5 w))
  else if bits 25 7 w == 0x0#7 then some (.op32 (bits 20 5 w) (bits 15 5 w) (bits 12 3 w) (bits 7 5 w))
  else none

def decodeMiscMem (w : BitVec 32) : Option Instr :=
  if bits 12 3 w == 0x0#3 then some (.fence (bits 28 4 w) (bits 24 4 w) (bits 20 4 w) (bits 15 5 w) (bits 7 5 w))
  else if bits 12 3 w == 0x1#3 then some (.fenceI (bits 20 12 w) (bits 15 5 w) (bits 7 5 w))
  else none

def decodeSystem (w : BitVec 32) : Option Instr :=
  if bits 25 7 w == 0x0#7 && bits 20 5 w == 0x0#5 && bits 15 5 w == 0x0#5 && bits 12 3 w == 0x0#3 && bits 7 5 w == 0x0#5 then some (.ecall)
  else if bits 25 7 w == 0x0#7 && bits 20 5 w == 0x1#5 && bits 15 5 w == 0x0#5 && bits 12 3 w == 0x0#3 && bits 7 5 w == 0x0#5 then some (.ebreak)
  else if bits 25 7 w == 0x18#7 && bits 20 5 w == 0x2#5 && bits 15 5 w == 0x0#5 && bits 12 3 w == 0x0#3 && bits 7 5 w == 0x0#5 then some (.mret)
  else if bits 25 7 w == 0x8#7 && bits 20 5 w == 0x2#5 && bits 15 5 w == 0x0#5 && bits 12 3 w == 0x0#3 && bits 7 5 w == 0x0#5 then some (.sret)
  else if bits 25 7 w == 0x8#7 && bits 20 5 w == 0x5#5 && bits 15 5 w == 0x0#5 && bits 12 3 w == 0x0#3 && bits 7 5 w == 0x0#5 then some (.wfi)
  else if bits 25 7 w == 0x9#7 && bits 12 3 w == 0x0#3 && bits 7 5 w == 0x0#5 then some (.sfenceVma (bits 20 5 w) (bits 15 5 w))
  else if bits 12 3 w == 0x1#3 then some (.csrrw (bits 20 12 w) (bits 15 5 w) (bits 7 5 w))
  else if bits 12 3 w == 0x2#3 then some (.csrrs (bits 20 12 w) (bits 15 5 w) (bits 7 5 w))
  else if bits 12 3 w == 0x3#3 then some (.csrrc (bits 20 12 w) (bits 15 5 w) (bits 7 5 w))
  else if bits 12 3 w == 0x5#3 then some (.csrrwi (bits 20 12 w) (bits 15 5 w) (bits 7 5 w))
  else if bits 12 3 w == 0x6#3 then some (.csrrsi (bits 20 12 w) (bits 15 5 w) (bits 7 5 w))
  else if bits 12 3 w == 0x7#3 then some (.csrrci (bits 20 12 w) (bits 15 5 w) (bits 7 5 w))
  else none

def decodeLoadFp (w : BitVec 32) : Option Instr :=
  if bits 13 2 w == 0x1#2 then some (.fpLoad (bits 20 12 w) (bits 15 5 w) (bits 12 1 w) (bits 7 5 w))
  else none

def decodeStoreFp (w : BitVec 32) : Option Instr :=
  if bits 13 2 w == 0x1#2 then some (.fpStore (bits 25 7 w) (bits 20 5 w) (bits 15 5 w) (bits 12 1 w) (bits 7 5 w))
  else none

def decodeOpFp (w : BitVec 32) : Option Instr :=
  if bits 26 6 w == 0x38#6 && bits 20 5 w == 0x0#5 && bits 12 3 w == 0x0#3 then some (.fmvX (bits 25 1 w) (bits 15 5 w) (bits 7 5 w))
  else if bits 26 6 w == 0x38#6 && bits 20 5 w == 0x0#5 && bits 12 3 w == 0x1#3 then some (.fclass (bits 25 1 w) (bits 15 5 w) (bits 7 5 w))
  else if bits 26 6 w == 0x3C#6 && bits 20 5 w == 0x0#5 && bits 12 3 w == 0x0#3 then some (.fmvToF (bits 25 1 w) (bits 15 5 w) (bits 7 5 w))
  else if bits 25 7 w == 0x20#7 && bits 20 5 w == 0x1#5 then some (.fcvtSD (bits 15 5 w) (bits 12 3 w) (bits 7 5 w))
  else if bits 25 7 w == 0x21#7 && bits 20 5 w == 0x0#5 then some (.fcvtDS (bits 15 5 w) (bits 12 3 w) (bits 7 5 w))
  else if bits 26 6 w == 0x16#6 && bits 20 5 w == 0x0#5 then some (.fsqrt (bits 25 1 w) (bits 15 5 w) (bits 12 3 w) (bits 7 5 w))
  else if bits 26 6 w == 0x30#6 && bits 22 3 w == 0x0#3 then some (.fcvtToInt (bits 25 1 w) (bits 20 2 w) (bits 15 5 w) (bits 12 3 w) (bits 7 5 w))
  else if bits 26 6 w == 0x34#6 && bits 22 3 w == 0x0#3 then some (.fcvtFromInt (bits 25 1 w) (bits 20 2 w) (bits 15 5 w) (bits 12 3 w) (bits 7 5 w))
  else if bits 26 6 w == 0xA#6 && bits 13 2 w == 0x0#2 then some (.fminFmax (bits 25 1 w) (bits 20 5 w) (bits 15 5 w) (bits 12 1 w) (bits 7 5 w))
  else if bits 26 6 w == 0x28#6 && bits 14 1 w == 0x0#1 then some (.fpCompare (bits 25 1 w) (bits 20 5 w) (bits 15 5 w) (bits 12 2 w) (bits 7 5 w))
  else if bits 26 6 w == 0x8#6 then some (.fsgnj (bits 25 1 w) (bits 20 5 w) (bits 15 5 w) (bits 12 3 w) (bits 7 5 w))
  else if bits 29 3 w == 0x0#3 && bits 26 1 w == 0x0#1 then some (.fpArith (bits 27 2 w) (bits 25 1 w) (bits 20 5 w) (bits 15 5 w) (bits 12 3 w) (bits 7 5 w))
  else none

def decodeKzMem (w : BitVec 32) : Option Instr :=
  if bits 25 7 w == 0x9#7 && bits 20 5 w == 0x0#5 && bits 15 5 w == 0x0#5 && bits 12 3 w == 0x5#3 && bits 7 5 w == 0x0#5 then some (.lclose)
  else if bits 25 7 w == 0xA#7 && bits 20 5 w == 0x0#5 && bits 15 5 w == 0x0#5 && bits 12 3 w == 0x5#3 && bits 7 5 w == 0x0#5 then some (.labort)
  else if bits 25 7 w == 0x18#7 && bits 20 5 w == 0x0#5 && bits 15 5 w == 0x0#5 && bits 12 3 w == 0x5#3 && bits 7 5 w == 0x0#5 then some (.fenceOwn)
  else if bits 25 7 w == 0x29#7 && bits 20 5 w == 0x0#5 && bits 15 5 w == 0x0#5 && bits 12 3 w == 0x5#3 && bits 7 5 w == 0x0#5 then some (.cwbCtx)
  else if bits 25 7 w == 0x4#7 && bits 20 5 w == 0x0#5 && bits 12 3 w == 0x5#3 && bits 7 5 w == 0x0#5 then some (.frst (bits 15 5 w))
  else if bits 25 7 w == 0x5#7 && bits 20 5 w == 0x0#5 && bits 12 3 w == 0x5#3 && bits 7 5 w == 0x0#5 then some (.frstD (bits 15 5 w))
  else if bits 25 7 w == 0x19#7 && bits 20 5 w == 0x0#5 && bits 12 3 w == 0x5#3 && bits 7 5 w == 0x0#5 then some (.fenceForce (bits 15 5 w))
  else if bits 25 7 w == 0x21#7 && bits 20 5 w == 0x0#5 && bits 12 3 w == 0x5#3 && bits 7 5 w == 0x0#5 then some (.bopen (bits 15 5 w))
  else if bits 25 7 w == 0x28#7 && bits 20 5 w == 0x0#5 && bits 12 3 w == 0x5#3 && bits 7 5 w == 0x0#5 then some (.cwb (bits 15 5 w))
  else if bits 25 7 w == 0x2A#7 && bits 20 5 w == 0x0#5 && bits 12 3 w == 0x5#3 && bits 7 5 w == 0x0#5 then some (.cinv (bits 15 5 w))
  else if bits 25 7 w == 0x0#7 && bits 20 5 w == 0x0#5 && bits 12 3 w == 0x5#3 then some (.fld (bits 15 5 w) (bits 7 5 w))
  else if bits 25 7 w == 0x1#7 && bits 20 5 w == 0x0#5 && bits 12 3 w == 0x5#3 then some (.fldD (bits 15 5 w) (bits 7 5 w))
  else if bits 25 7 w == 0x2#7 && bits 12 3 w == 0x5#3 && bits 7 5 w == 0x0#5 then some (.fst (bits 20 5 w) (bits 15 5 w))
  else if bits 25 7 w == 0x3#7 && bits 12 3 w == 0x5#3 && bits 7 5 w == 0x0#5 then some (.fstD (bits 20 5 w) (bits 15 5 w))
  else if bits 25 7 w == 0x10#7 && bits 20 5 w == 0x0#5 && bits 12 3 w == 0x5#3 then some (.waitcnt (bits 15 5 w) (bits 7 5 w))
  else if bits 25 7 w == 0x20#7 && bits 12 3 w == 0x5#3 && bits 7 5 w == 0x0#5 then some (.bseal (bits 20 5 w) (bits 15 5 w))
  else if bits 25 7 w == 0x0#7 && bits 12 3 w == 0x7#3 && bits 7 5 w == 0x0#5 then some (.barInit (bits 20 5 w) (bits 15 5 w))
  else if bits 25 7 w == 0x1#7 && bits 20 5 w == 0x0#5 && bits 12 3 w == 0x7#3 then some (.barArrive (bits 15 5 w) (bits 7 5 w))
  else if bits 25 7 w == 0x2#7 && bits 12 3 w == 0x7#3 && bits 7 5 w == 0x0#5 then some (.barExpect (bits 20 5 w) (bits 15 5 w))
  else if bits 25 7 w == 0x3#7 && bits 12 3 w == 0x7#3 && bits 7 5 w == 0x0#5 then some (.barWait (bits 20 5 w) (bits 15 5 w))
  else if bits 30 2 w == 0x0#2 && bits 20 5 w == 0x0#5 && bits 12 3 w == 0x0#3 then some (.ldAcq (bits 28 2 w) (bits 25 3 w) (bits 15 5 w) (bits 7 5 w))
  else if bits 30 2 w == 0x1#2 && bits 12 3 w == 0x0#3 && bits 7 5 w == 0x0#5 then some (.stRel (bits 28 2 w) (bits 25 3 w) (bits 20 5 w) (bits 15 5 w))
  else if bits 25 2 w == 0x0#2 && bits 12 3 w == 0x4#3 && bits 7 5 w == 0x0#5 then some (.red (bits 30 2 w) (bits 27 3 w) (bits 20 5 w) (bits 15 5 w))
  else if bits 25 7 w == 0x8#7 && bits 12 3 w == 0x5#3 then some (.lease (bits 20 5 w) (bits 15 5 w) (bits 7 5 w))
  else if bits 25 7 w == 0x4#7 && bits 12 3 w == 0x7#3 then some (.barTry (bits 20 5 w) (bits 15 5 w) (bits 7 5 w))
  else if bits 27 5 w == 0x9#5 && bits 12 3 w == 0x1#3 then some (.amoFaddF32 (bits 26 1 w) (bits 25 1 w) (bits 20 5 w) (bits 15 5 w) (bits 7 5 w))
  else if bits 27 5 w == 0xA#5 && bits 12 3 w == 0x1#3 then some (.amoFaddBf16 (bits 26 1 w) (bits 25 1 w) (bits 20 5 w) (bits 15 5 w) (bits 7 5 w))
  else if bits 12 3 w == 0x6#3 && bits 7 5 w == 0x1#5 then some (.pfL2 (bits 20 12 w) (bits 15 5 w))
  else if bits 25 2 w == 0x0#2 && bits 12 3 w == 0x3#3 then some (.amoCasW (bits 27 5 w) (bits 20 5 w) (bits 15 5 w) (bits 7 5 w))
  else if bits 25 2 w == 0x1#2 && bits 12 3 w == 0x3#3 then some (.amoCasD (bits 27 5 w) (bits 20 5 w) (bits 15 5 w) (bits 7 5 w))
  else if bits 25 2 w == 0x2#2 && bits 12 3 w == 0x3#3 then some (.lease2 (bits 27 5 w) (bits 20 5 w) (bits 15 5 w) (bits 7 5 w))
  else if bits 12 3 w == 0x1#3 then some (.amoW (bits 27 5 w) (bits 26 1 w) (bits 25 1 w) (bits 20 5 w) (bits 15 5 w) (bits 7 5 w))
  else if bits 12 3 w == 0x2#3 then some (.amoD (bits 27 5 w) (bits 26 1 w) (bits 25 1 w) (bits 20 5 w) (bits 15 5 w) (bits 7 5 w))
  else if bits 12 3 w == 0x6#3 then some (.pfL1 (bits 20 12 w) (bits 15 5 w) (bits 7 5 w))
  else none

def decodeKzMsg (w : BitVec 32) : Option Instr :=
  if bits 25 7 w == 0x0#7 && bits 20 5 w == 0x0#5 && bits 15 5 w == 0x0#5 && bits 12 3 w == 0x1#3 && bits 7 5 w == 0x0#5 then some (.hend)
  else if bits 25 7 w == 0x6#7 && bits 20 5 w == 0x0#5 && bits 15 5 w == 0x0#5 && bits 12 3 w == 0x1#3 && bits 7 5 w == 0x0#5 then some (.uiret)
  else if bits 25 7 w == 0x7#7 && bits 20 5 w == 0x0#5 && bits 15 5 w == 0x0#5 && bits 12 3 w == 0x1#3 && bits 7 5 w == 0x0#5 then some (.yield)
  else if bits 25 7 w == 0x2#7 && bits 20 5 w == 0x0#5 && bits 12 3 w == 0x1#3 && bits 7 5 w == 0x0#5 then some (.cdec (bits 15 5 w))
  else if bits 25 7 w == 0x4#7 && bits 20 5 w == 0x0#5 && bits 12 3 w == 0x1#3 && bits 7 5 w == 0x0#5 then some (.migrateAddr (bits 15 5 w))
  else if bits 25 7 w == 0x5#7 && bits 20 5 w == 0x0#5 && bits 12 3 w == 0x1#3 && bits 7 5 w == 0x0#5 then some (.migrateRank (bits 15 5 w))
  else if bits 25 7 w == 0x3#7 && bits 20 5 w == 0x0#5 && bits 12 3 w == 0x4#3 && bits 7 5 w == 0x0#5 then some (.ctxTag (bits 15 5 w))
  else if bits 25 7 w == 0x40#7 && bits 20 5 w == 0x0#5 && bits 12 3 w == 0x2#3 then some (.qpoll (bits 15 5 w) (bits 7 5 w))
  else if bits 25 7 w == 0x0#7 && bits 20 5 w == 0x0#5 && bits 12 3 w == 0x4#3 then some (.msave (bits 15 5 w) (bits 7 5 w))
  else if bits 25 7 w == 0x1#7 && bits 20 5 w == 0x0#5 && bits 12 3 w == 0x4#3 then some (.mrest (bits 15 5 w) (bits 7 5 w))
  else if bits 25 7 w == 0x2#7 && bits 12 3 w == 0x4#3 && bits 7 5 w == 0x0#5 then some (.rtabSet (bits 20 5 w) (bits 15 5 w))
  else if bits 28 4 w == 0x0#4 && bits 12 3 w == 0x2#3 && bits 7 5 w == 0x0#5 then some (.qsend (bits 25 3 w) (bits 20 5 w) (bits 15 5 w))
  else if bits 28 4 w == 0x4#4 && bits 20 5 w == 0x0#5 && bits 12 3 w == 0x2#3 then some (.qrecv (bits 25 3 w) (bits 15 5 w) (bits 7 5 w))
  else if bits 25 7 w == 0x1#7 && bits 12 3 w == 0x1#3 then some (.carm (bits 20 5 w) (bits 15 5 w) (bits 7 5 w))
  else if bits 25 7 w == 0x3#7 && bits 12 3 w == 0x1#3 then some (.spawn (bits 20 5 w) (bits 15 5 w) (bits 7 5 w))
  else if bits 25 7 w == 0x4#7 && bits 12 3 w == 0x4#3 then some (.islandQuery (bits 20 5 w) (bits 15 5 w) (bits 7 5 w))
  else if bits 31 1 w == 0x0#1 && bits 12 3 w == 0x0#3 && bits 7 5 w == 0x0#5 then some (.msend (bits 28 3 w) (bits 25 3 w) (bits 20 5 w) (bits 15 5 w))
  else none

def decodeKzWv (w : BitVec 32) : Option Instr :=
  if bits 25 7 w == 0x1#7 && bits 20 5 w == 0x0#5 && bits 15 5 w == 0x0#5 && bits 12 3 w == 0x0#3 && bits 7 5 w == 0x0#5 then some (.wret)
  else if bits 25 7 w == 0x4#7 && bits 20 5 w == 0x0#5 && bits 15 5 w == 0x0#5 && bits 12 3 w == 0x0#3 && bits 7 5 w == 0x0#5 then some (.wsync)
  else if bits 25 7 w == 0x2#7 && bits 20 5 w == 0x0#5 && bits 12 3 w == 0x0#3 && bits 7 5 w == 0x0#5 then some (.wflush (bits 15 5 w))
  else if bits 25 7 w == 0x3#7 && bits 20 5 w == 0x0#5 && bits 12 3 w == 0x0#3 && bits 7 5 w == 0x0#5 then some (.regroup (bits 15 5 w))
  else if bits 25 7 w == 0xC#7 && bits 20 5 w == 0x0#5 && bits 15 5 w == 0x0#5 && bits 12 3 w == 0x1#3 then some (.ishelper (bits 7 5 w))
  else if bits 25 7 w == 0x0#7 && bits 12 3 w == 0x0#3 && bits 7 5 w == 0x0#5 then some (.wavego (bits 20 5 w) (bits 15 5 w))
  else if bits 25 7 w == 0x0#7 && bits 20 5 w == 0x0#5 && bits 12 3 w == 0x1#3 then some (.voteAny (bits 15 5 w) (bits 7 5 w))
  else if bits 25 7 w == 0x1#7 && bits 20 5 w == 0x0#5 && bits 12 3 w == 0x1#3 then some (.voteAll (bits 15 5 w) (bits 7 5 w))
  else if bits 25 7 w == 0x2#7 && bits 20 5 w == 0x0#5 && bits 12 3 w == 0x1#3 then some (.ballot (bits 15 5 w) (bits 7 5 w))
  else if bits 25 7 w == 0x8#7 && bits 20 5 w == 0x0#5 && bits 12 3 w == 0x1#3 then some (.quadSx (bits 15 5 w) (bits 7 5 w))
  else if bits 25 7 w == 0x9#7 && bits 20 5 w == 0x0#5 && bits 12 3 w == 0x1#3 then some (.quadSy (bits 15 5 w) (bits 7 5 w))
  else if bits 25 7 w == 0xA#7 && bits 20 5 w == 0x0#5 && bits 12 3 w == 0x1#3 then some (.quadSd (bits 15 5 w) (bits 7 5 w))
  else if bits 26 6 w == 0xA#6 && bits 20 5 w == 0x0#5 && bits 12 3 w == 0x5#3 then some (.vbc (bits 25 1 w) (bits 15 5 w) (bits 7 5 w))
  else if bits 26 6 w == 0x10#6 && bits 20 5 w == 0x0#5 && bits 12 3 w == 0x5#3 then some (.bsort (bits 25 1 w) (bits 15 5 w) (bits 7 5 w))
  else if bits 25 7 w == 0x3#7 && bits 12 3 w == 0x1#3 then some (.shfl (bits 20 5 w) (bits 15 5 w) (bits 7 5 w))
  else if bits 25 7 w == 0x4#7 && bits 12 3 w == 0x1#3 then some (.shflXor (bits 20 5 w) (bits 15 5 w) (bits 7 5 w))
  else if bits 25 7 w == 0x5#7 && bits 12 3 w == 0x1#3 then some (.rdlane (bits 20 5 w) (bits 15 5 w) (bits 7 5 w))
  else if bits 25 7 w == 0xB#7 && bits 12 3 w == 0x1#3 then some (.quadBc (bits 20 5 w) (bits 15 5 w) (bits 7 5 w))
  else if bits 25 7 w == 0x0#7 && bits 12 3 w == 0x2#3 then some (.bxt (bits 20 5 w) (bits 15 5 w) (bits 7 5 w))
  else if bits 25 7 w == 0x1#7 && bits 12 3 w == 0x2#3 then some (.trt (bits 20 5 w) (bits 15 5 w) (bits 7 5 w))
  else if bits 26 6 w == 0x0#6 && bits 12 3 w == 0x5#3 then some (.vadd (bits 25 1 w) (bits 20 5 w) (bits 15 5 w) (bits 7 5 w))
  else if bits 26 6 w == 0x2#6 && bits 12 3 w == 0x5#3 then some (.vsub (bits 25 1 w) (bits 20 5 w) (bits 15 5 w) (bits 7 5 w))
  else if bits 26 6 w == 0x4#6 && bits 12 3 w == 0x5#3 then some (.vmul (bits 25 1 w) (bits 20 5 w) (bits 15 5 w) (bits 7 5 w))
  else if bits 26 6 w == 0x6#6 && bits 12 3 w == 0x5#3 then some (.vmin (bits 25 1 w) (bits 20 5 w) (bits 15 5 w) (bits 7 5 w))
  else if bits 26 6 w == 0x8#6 && bits 12 3 w == 0x5#3 then some (.vmax (bits 25 1 w) (bits 20 5 w) (bits 15 5 w) (bits 7 5 w))
  else if bits 26 6 w == 0x12#6 && bits 12 3 w == 0x5#3 then some (.bmerge (bits 25 1 w) (bits 20 5 w) (bits 15 5 w) (bits 7 5 w))
  else if bits 26 1 w == 0x0#1 && bits 12 3 w == 0x6#3 then some (.vfma (bits 27 5 w) (bits 25 1 w) (bits 20 5 w) (bits 15 5 w) (bits 7 5 w))
  else if bits 12 3 w == 0x3#3 then some (.vlW (bits 20 12 w) (bits 15 5 w) (bits 7 5 w))
  else if bits 12 3 w == 0x4#3 then some (.vsW (bits 25 7 w) (bits 20 5 w) (bits 15 5 w) (bits 7 5 w))
  else none

def decodeKzMx (w : BitVec 32) : Option Instr :=
  if bits 25 7 w == 0x1#7 && bits 20 5 w == 0x0#5 && bits 15 5 w == 0x0#5 && bits 12 3 w == 0x0#3 then some (.mzero (bits 7 5 w))
  else if bits 25 7 w == 0x8#7 && bits 20 5 w == 0x0#5 && bits 12 3 w == 0x0#3 && bits 7 5 w == 0x0#5 then some (.pred (bits 15 5 w))
  else if bits 25 7 w == 0x9#7 && bits 20 5 w == 0x0#5 && bits 12 3 w == 0x0#3 && bits 7 5 w == 0x0#5 then some (.punion (bits 15 5 w))
  else if bits 25 7 w == 0xA#7 && bits 20 5 w == 0x0#5 && bits 12 3 w == 0x0#3 && bits 7 5 w == 0x0#5 then some (.sparge (bits 15 5 w))
  else if bits 25 7 w == 0x2#7 && bits 20 5 w == 0x0#5 && bits 12 3 w == 0x0#3 then some (.epi (bits 15 5 w) (bits 7 5 w))
  else if bits 25 7 w == 0x3#7 && bits 20 5 w == 0x0#5 && bits 12 3 w == 0x0#3 then some (.mlink (bits 15 5 w) (bits 7 5 w))
  else if bits 25 7 w == 0x0#7 && bits 12 3 w == 0x0#3 then some (.mma (bits 20 5 w) (bits 15 5 w) (bits 7 5 w))
  else if bits 25 2 w == 0x0#2 && bits 12 3 w == 0x1#3 then some (.mmaSp (bits 27 5 w) (bits 20 5 w) (bits 15 5 w) (bits 7 5 w))
  else none

def decodeFused (w : BitVec 32) : Option Instr :=
  if bits 26 1 w == 0x0#1 && bits 4 3 w == 0x4#3 && bits 0 2 w == 0x3#2 then some (.fpFused (bits 27 5 w) (bits 25 1 w) (bits 20 5 w) (bits 15 5 w) (bits 12 3 w) (bits 7 5 w) (bits 2 2 w))
  else none

/-- The row of a word, by its major opcode (09 R165); no row where the opcode is not assigned. -/
def decodeRow (w : BitVec 32) : Option Instr :=
  match (bits 0 7 w).toNat with
  | 0x37 => decodeLui w
  | 0x17 => decodeAuipc w
  | 0x6F => decodeJal w
  | 0x67 => decodeJalr w
  | 0x63 => decodeBranch w
  | 0x03 => decodeLoad w
  | 0x23 => decodeStore w
  | 0x13 => decodeOpImm w
  | 0x1B => decodeOpImm32 w
  | 0x33 => decodeOp w
  | 0x3B => decodeOp32 w
  | 0x0F => decodeMiscMem w
  | 0x73 => decodeSystem w
  | 0x07 => decodeLoadFp w
  | 0x27 => decodeStoreFp w
  | 0x53 => decodeOpFp w
  | 0x0B => decodeKzMem w
  | 0x2B => decodeKzMsg w
  | 0x5B => decodeKzWv w
  | 0x7B => decodeKzMx w
  | 0x43 => decodeFused w
  | 0x47 => decodeFused w
  | 0x4B => decodeFused w
  | 0x4F => decodeFused w
  | _ => none

/-- The decoder: the checks of 09 R166 that need only the word, in their order. -/
def decode (w : BitVec 32) : Except DecodeError Instr :=
  match decodeRow w with
  | none => .error .unassigned
  | some i =>
    if i.assigned then (if i.inLimits then .ok i else .error .operandLimit) else .error .unassigned

/-- Four bytes as the little-endian word they store (00 R5). -/
def wordOfBytes (b0 b1 b2 b3 : Byte) : BitVec 32 := b3 ++ b2 ++ b1 ++ b0

/-- The decoder over the bytes at the program counter, lowest address first. -/
def decodeBytes : List Byte → Except DecodeError (Instr × List Byte)
  | b0 :: b1 :: b2 :: b3 :: rest => (decode (wordOfBytes b0 b1 b2 b3)).map fun i => (i, rest)
  | _ => .error .unassigned

/-- The instruction of a row of the opcode table whose bits are `w`; every bit above `nbits` is 0. -/
def decodeTableWord (nbits w : Nat) : Option Instr :=
  let v := BitVec.ofNat 32 (w % 2 ^ min nbits 32)
  match decodeBytes [bits 0 8 v, bits 8 8 v, bits 16 8 v, bits 24 8 v] with
  | .ok (i, _) => some i
  | .error _ => none

/-- The steps that have a word; the others are events of the device. -/
def Instr.hasWord : Instr → Bool
  | .cplaunch _ => false
  | .cpstatSelect _ => false
  | .cpstatCancel _ => false
  | .cpstatRead _ => false
  | .sdwqRead _ => false
  | .sdwnDiscard => false
  | .wendWrite _ _ => false
  | .cqDoorbell _ _ => false
  | .slpinWrite _ _ _ => false
  | .tunctlWrite _ _ => false
  | .registerWrite _ _ => false
  | .pageWalk _ => false
  | .tableLineReply _ => false
  | .tlbShootdown _ _ => false
  | .sliceRead _ => false
  | .sliceWrite _ => false
  | .ownershipRequest _ => false
  | .giveUpOwnership _ => false
  | .recall _ => false
  | .recallReply _ => false
  | .taggedRequest _ => false
  | .bareAcknowledgement _ _ => false
  | .refusedResend _ => false
  | .taggedResendTimeout _ => false
  | .pathDeclaredFailed _ => false
  | .fldResend _ => false
  | .fldCancel _ => false
  | .l1Fill _ => false
  | .writeBackAck _ => false
  | .storeQueueDrain _ => false
  | .bankAccess _ => false
  | .coreSramAccess _ => false
  | .tagFlush _ => false
  | .tagFlushReply _ => false
  | .lazyDrain _ _ => false
  | .leaseArm _ => false
  | .leaseExpiry _ => false
  | .recallDeferralExpiry _ => false
  | .drayTransferStart _ => false
  | .drayTileUnit _ _ => false
  | .drayGatherUnit _ _ => false
  | .drayScatterUnit _ _ => false
  | .drayRowGatherUnit _ _ => false
  | .drayPodExchangeUnit _ _ => false
  | .drayFaultStop _ => false
  | .drayCompletion _ => false
  | .rankLookupReply _ => false
  | .heldMessageReread _ => false
  | .messageAdmission _ => false
  | .arrivalAdmission _ => false
  | .ownerAtomic _ => false
  | .handlerTaskStart _ => false
  | .budgetExpiry _ => false
  | .migrateTransitReply _ => false
  | .channelPushArrival _ => false
  | .tunRequest _ => false
  | .tunBinTimeout _ _ => false
  | .gatheredWavePlace _ => false
  | .regroupMerge _ _ => false
  | .waveRetire _ => false
  | .matrixUnitStart _ _ => false
  | .matrixCompletion _ _ => false
  | .predictorStart _ => false
  | .predictorCompletion _ => false
  | .packetRead _ => false
  | .launchAdmission => false
  | .markerSignal _ => false
  | .unitPlacement _ => false
  | .launchCompletion _ => false
  | .preemptionRequest _ => false
  | .floorShareSlice _ => false
  | .demotionExpiry _ => false
  | .spinWake _ => false
  | .yieldExpiry _ => false
  | .trapEntry _ _ => false
  | .interruptTaken _ _ => false
  | .machineCheck _ => false
  | .preemptionInterrupt _ => false
  | .deferredWrite _ => false
  | .poisonExport _ => false
  | .userInterrupt _ => false
  | .hardwareSave _ => false
  | .contextResume _ _ => false
  | .registerMiss _ _ _ _ => false
  | .backgroundRegisterFetch _ _ _ _ => false
  | .watchdogExpiry _ => false
  | .hostRead _ _ => false
  | .hostWrite _ _ _ => false
  | .hostAtomic _ _ _ _ _ => false
  | .hostSnoop _ _ => false
  | .flitRetry _ => false
  | .laneRepair _ _ => false
  | .spanPortDown _ => false
  | .correctedError _ => false
  | .uncorrectableError _ _ => false
  | .counterSample => false
  | .unitSelfTest _ _ => false
  | .unitDeclaredFailed _ => false
  | .thermalTrip _ _ _ => false
  | .deviceReset _ => false
  | .startUp _ _ _ _ => false
  | .startUpWatchdogExpiry => false
  | .taggedReply _ => false
  | .linkRetrain _ => false
  | .operatingPointChange _ _ => false
  | .islandPowerUp _ _ => false
  | .wfiWakeWithoutCause _ => false
  | _ => true

/-- The word of an instruction, high field first (09 R164). An event has none and answers 0. -/
def encode : Instr → BitVec 32
  | .lui i d => i ++ d ++ 0x37#7
  | .auipc i d => i ++ d ++ 0x17#7
  | .jal i d => i ++ d ++ 0x6F#7
  | .jalr i a d => i ++ a ++ 0x0#3 ++ d ++ 0x67#7
  | .branch j b a f k => j ++ b ++ a ++ f ++ k ++ 0x63#7
  | .load i a f d => i ++ a ++ f ++ d ++ 0x3#7
  | .store j b a f k => j ++ b ++ a ++ f ++ k ++ 0x23#7
  | .opImm i a f d => i ++ a ++ f ++ d ++ 0x13#7
  | .slli s a d => 0x0#6 ++ s ++ a ++ 0x1#3 ++ d ++ 0x13#7
  | .srli s a d => 0x0#6 ++ s ++ a ++ 0x5#3 ++ d ++ 0x13#7
  | .srai s a d => 0x10#6 ++ s ++ a ++ 0x5#3 ++ d ++ 0x13#7
  | .addiw i a d => i ++ a ++ 0x0#3 ++ d ++ 0x1B#7
  | .slliw s a d => 0x0#7 ++ s ++ a ++ 0x1#3 ++ d ++ 0x1B#7
  | .srliw s a d => 0x0#7 ++ s ++ a ++ 0x5#3 ++ d ++ 0x1B#7
  | .sraiw s a d => 0x20#7 ++ s ++ a ++ 0x5#3 ++ d ++ 0x1B#7
  | .op b a f d => 0x0#7 ++ b ++ a ++ f ++ d ++ 0x33#7
  | .sub b a d => 0x20#7 ++ b ++ a ++ 0x0#3 ++ d ++ 0x33#7
  | .sra b a d => 0x20#7 ++ b ++ a ++ 0x5#3 ++ d ++ 0x33#7
  | .op32 b a f d => 0x0#7 ++ b ++ a ++ f ++ d ++ 0x3B#7
  | .subw b a d => 0x20#7 ++ b ++ a ++ 0x0#3 ++ d ++ 0x3B#7
  | .sraw b a d => 0x20#7 ++ b ++ a ++ 0x5#3 ++ d ++ 0x3B#7
  | .fence f p s a d => f ++ p ++ s ++ a ++ 0x0#3 ++ d ++ 0xF#7
  | .fenceI i a d => i ++ a ++ 0x1#3 ++ d ++ 0xF#7
  | .ecall => 0x0#7 ++ 0x0#5 ++ 0x0#5 ++ 0x0#3 ++ 0x0#5 ++ 0x73#7
  | .ebreak => 0x0#7 ++ 0x1#5 ++ 0x0#5 ++ 0x0#3 ++ 0x0#5 ++ 0x73#7
  | .mul b a f d => 0x1#7 ++ b ++ a ++ 0x0#1 ++ f ++ d ++ 0x33#7
  | .div b a f d => 0x1#7 ++ b ++ a ++ 0x1#1 ++ f ++ d ++ 0x33#7
  | .mulw b a d => 0x1#7 ++ b ++ a ++ 0x0#3 ++ d ++ 0x3B#7
  | .divw b a f d => 0x1#7 ++ b ++ a ++ 0x1#1 ++ f ++ d ++ 0x3B#7
  | .shadd b a f d => 0x10#7 ++ b ++ a ++ f ++ 0x0#1 ++ d ++ 0x33#7
  | .addUw b a d => 0x4#7 ++ b ++ a ++ 0x0#3 ++ d ++ 0x3B#7
  | .shaddUw b a f d => 0x10#7 ++ b ++ a ++ f ++ 0x0#1 ++ d ++ 0x3B#7
  | .slliUw s a d => 0x2#6 ++ s ++ a ++ 0x1#3 ++ d ++ 0x1B#7
  | .andnOrnXnor b a f d => 0x20#7 ++ b ++ a ++ f ++ d ++ 0x33#7
  | .minMax b a f d => 0x5#7 ++ b ++ a ++ 0x1#1 ++ f ++ d ++ 0x33#7
  | .rolRor b a f d => 0x30#7 ++ b ++ a ++ f ++ 0x1#2 ++ d ++ 0x33#7
  | .rolwRorw b a f d => 0x30#7 ++ b ++ a ++ f ++ 0x1#2 ++ d ++ 0x3B#7
  | .rori s a d => 0x18#6 ++ s ++ a ++ 0x5#3 ++ d ++ 0x13#7
  | .roriw s a d => 0x30#7 ++ s ++ a ++ 0x5#3 ++ d ++ 0x1B#7
  | .clzCtzCpopSext f a d => 0x30#7 ++ 0x0#2 ++ f ++ a ++ 0x1#3 ++ d ++ 0x13#7
  | .clzwCtzwCpopw f a d => 0x30#7 ++ 0x0#2 ++ f ++ a ++ 0x1#3 ++ d ++ 0x1B#7
  | .orcB a d => 0x14#7 ++ 0x7#5 ++ a ++ 0x5#3 ++ d ++ 0x13#7
  | .rev8 a d => 0x35#7 ++ 0x18#5 ++ a ++ 0x5#3 ++ d ++ 0x13#7
  | .zextH a d => 0x4#7 ++ 0x0#5 ++ a ++ 0x4#3 ++ d ++ 0x3B#7
  | .fpLoad i a f d => i ++ a ++ 0x1#2 ++ f ++ d ++ 0x7#7
  | .fpStore j b a f k => j ++ b ++ a ++ 0x1#2 ++ f ++ k ++ 0x27#7
  | .fpFused c t b a r d o => c ++ 0x0#1 ++ t ++ b ++ a ++ r ++ d ++ 0x4#3 ++ o ++ 0x3#2
  | .fpArith o t b a r d => 0x0#3 ++ o ++ 0x0#1 ++ t ++ b ++ a ++ r ++ d ++ 0x53#7
  | .fsqrt t a r d => 0x16#6 ++ t ++ 0x0#5 ++ a ++ r ++ d ++ 0x53#7
  | .fsgnj t b a f d => 0x8#6 ++ t ++ b ++ a ++ f ++ d ++ 0x53#7
  | .fminFmax t b a f d => 0xA#6 ++ t ++ b ++ a ++ 0x0#2 ++ f ++ d ++ 0x53#7
  | .fcvtSD a r d => 0x20#7 ++ 0x1#5 ++ a ++ r ++ d ++ 0x53#7
  | .fcvtDS a r d => 0x21#7 ++ 0x0#5 ++ a ++ r ++ d ++ 0x53#7
  | .fpCompare t b a f d => 0x28#6 ++ t ++ b ++ a ++ 0x0#1 ++ f ++ d ++ 0x53#7
  | .fcvtToInt t f a r d => 0x30#6 ++ t ++ 0x0#3 ++ f ++ a ++ r ++ d ++ 0x53#7
  | .fcvtFromInt t f a r d => 0x34#6 ++ t ++ 0x0#3 ++ f ++ a ++ r ++ d ++ 0x53#7
  | .fmvX t a d => 0x38#6 ++ t ++ 0x0#5 ++ a ++ 0x0#3 ++ d ++ 0x53#7
  | .fclass t a d => 0x38#6 ++ t ++ 0x0#5 ++ a ++ 0x1#3 ++ d ++ 0x53#7
  | .fmvToF t a d => 0x3C#6 ++ t ++ 0x0#5 ++ a ++ 0x0#3 ++ d ++ 0x53#7
  | .csrrw c a d => c ++ a ++ 0x1#3 ++ d ++ 0x73#7
  | .csrrs c a d => c ++ a ++ 0x2#3 ++ d ++ 0x73#7
  | .csrrc c a d => c ++ a ++ 0x3#3 ++ d ++ 0x73#7
  | .csrrwi c u d => c ++ u ++ 0x5#3 ++ d ++ 0x73#7
  | .csrrsi c u d => c ++ u ++ 0x6#3 ++ d ++ 0x73#7
  | .csrrci c u d => c ++ u ++ 0x7#3 ++ d ++ 0x73#7
  | .sfenceVma b a => 0x9#7 ++ b ++ a ++ 0x0#3 ++ 0x0#5 ++ 0x73#7
  | .mret => 0x18#7 ++ 0x2#5 ++ 0x0#5 ++ 0x0#3 ++ 0x0#5 ++ 0x73#7
  | .sret => 0x8#7 ++ 0x2#5 ++ 0x0#5 ++ 0x0#3 ++ 0x0#5 ++ 0x73#7
  | .wfi => 0x8#7 ++ 0x5#5 ++ 0x0#5 ++ 0x0#3 ++ 0x0#5 ++ 0x73#7
  | .ldAcq z s a d => 0x0#2 ++ z ++ s ++ 0x0#5 ++ a ++ 0x0#3 ++ d ++ 0xB#7
  | .stRel z s b a => 0x1#2 ++ z ++ s ++ b ++ a ++ 0x0#3 ++ 0x0#5 ++ 0xB#7
  | .amoW o q l b a d => o ++ q ++ l ++ b ++ a ++ 0x1#3 ++ d ++ 0xB#7
  | .amoD o q l b a d => o ++ q ++ l ++ b ++ a ++ 0x2#3 ++ d ++ 0xB#7
  | .amoFaddF32 q l b a d => 0x9#5 ++ q ++ l ++ b ++ a ++ 0x1#3 ++ d ++ 0xB#7
  | .amoFaddBf16 q l b a d => 0xA#5 ++ q ++ l ++ b ++ a ++ 0x1#3 ++ d ++ 0xB#7
  | .amoCasW c b a d => c ++ 0x0#2 ++ b ++ a ++ 0x3#3 ++ d ++ 0xB#7
  | .amoCasD c b a d => c ++ 0x1#2 ++ b ++ a ++ 0x3#3 ++ d ++ 0xB#7
  | .lease2 c b a d => c ++ 0x2#2 ++ b ++ a ++ 0x3#3 ++ d ++ 0xB#7
  | .red o t b a => o ++ t ++ 0x0#2 ++ b ++ a ++ 0x4#3 ++ 0x0#5 ++ 0xB#7
  | .fld a d => 0x0#7 ++ 0x0#5 ++ a ++ 0x5#3 ++ d ++ 0xB#7
  | .fldD a d => 0x1#7 ++ 0x0#5 ++ a ++ 0x5#3 ++ d ++ 0xB#7
  | .fst b a => 0x2#7 ++ b ++ a ++ 0x5#3 ++ 0x0#5 ++ 0xB#7
  | .fstD b a => 0x3#7 ++ b ++ a ++ 0x5#3 ++ 0x0#5 ++ 0xB#7
  | .frst a => 0x4#7 ++ 0x0#5 ++ a ++ 0x5#3 ++ 0x0#5 ++ 0xB#7
  | .frstD a => 0x5#7 ++ 0x0#5 ++ a ++ 0x5#3 ++ 0x0#5 ++ 0xB#7
  | .lease b a d => 0x8#7 ++ b ++ a ++ 0x5#3 ++ d ++ 0xB#7
  | .lclose => 0x9#7 ++ 0x0#5 ++ 0x0#5 ++ 0x5#3 ++ 0x0#5 ++ 0xB#7
  | .labort => 0xA#7 ++ 0x0#5 ++ 0x0#5 ++ 0x5#3 ++ 0x0#5 ++ 0xB#7
  | .waitcnt a p => 0x10#7 ++ 0x0#5 ++ a ++ 0x5#3 ++ p ++ 0xB#7
  | .fenceOwn => 0x18#7 ++ 0x0#5 ++ 0x0#5 ++ 0x5#3 ++ 0x0#5 ++ 0xB#7
  | .fenceForce a => 0x19#7 ++ 0x0#5 ++ a ++ 0x5#3 ++ 0x0#5 ++ 0xB#7
  | .bseal b a => 0x20#7 ++ b ++ a ++ 0x5#3 ++ 0x0#5 ++ 0xB#7
  | .bopen a => 0x21#7 ++ 0x0#5 ++ a ++ 0x5#3 ++ 0x0#5 ++ 0xB#7
  | .cwb a => 0x28#7 ++ 0x0#5 ++ a ++ 0x5#3 ++ 0x0#5 ++ 0xB#7
  | .cwbCtx => 0x29#7 ++ 0x0#5 ++ 0x0#5 ++ 0x5#3 ++ 0x0#5 ++ 0xB#7
  | .cinv a => 0x2A#7 ++ 0x0#5 ++ a ++ 0x5#3 ++ 0x0#5 ++ 0xB#7
  | .pfL1 i a k => i ++ a ++ 0x6#3 ++ k ++ 0xB#7
  | .pfL2 i a => i ++ a ++ 0x6#3 ++ 0x1#5 ++ 0xB#7
  | .barInit b a => 0x0#7 ++ b ++ a ++ 0x7#3 ++ 0x0#5 ++ 0xB#7
  | .barArrive a d => 0x1#7 ++ 0x0#5 ++ a ++ 0x7#3 ++ d ++ 0xB#7
  | .barExpect b a => 0x2#7 ++ b ++ a ++ 0x7#3 ++ 0x0#5 ++ 0xB#7
  | .barWait b a => 0x3#7 ++ b ++ a ++ 0x7#3 ++ 0x0#5 ++ 0xB#7
  | .barTry b a d => 0x4#7 ++ b ++ a ++ 0x7#3 ++ d ++ 0xB#7
  | .msend n s b a => 0x0#1 ++ n ++ s ++ b ++ a ++ 0x0#3 ++ 0x0#5 ++ 0x2B#7
  | .hend => 0x0#7 ++ 0x0#5 ++ 0x0#5 ++ 0x1#3 ++ 0x0#5 ++ 0x2B#7
  | .carm b a d => 0x1#7 ++ b ++ a ++ 0x1#3 ++ d ++ 0x2B#7
  | .cdec a => 0x2#7 ++ 0x0#5 ++ a ++ 0x1#3 ++ 0x0#5 ++ 0x2B#7
  | .spawn b a d => 0x3#7 ++ b ++ a ++ 0x1#3 ++ d ++ 0x2B#7
  | .migrateAddr a => 0x4#7 ++ 0x0#5 ++ a ++ 0x1#3 ++ 0x0#5 ++ 0x2B#7
  | .migrateRank a => 0x5#7 ++ 0x0#5 ++ a ++ 0x1#3 ++ 0x0#5 ++ 0x2B#7
  | .uiret => 0x6#7 ++ 0x0#5 ++ 0x0#5 ++ 0x1#3 ++ 0x0#5 ++ 0x2B#7
  | .yield => 0x7#7 ++ 0x0#5 ++ 0x0#5 ++ 0x1#3 ++ 0x0#5 ++ 0x2B#7
  | .qsend n b a => 0x0#4 ++ n ++ b ++ a ++ 0x2#3 ++ 0x0#5 ++ 0x2B#7
  | .qrecv n q d => 0x4#4 ++ n ++ 0x0#5 ++ q ++ 0x2#3 ++ d ++ 0x2B#7
  | .qpoll q d => 0x40#7 ++ 0x0#5 ++ q ++ 0x2#3 ++ d ++ 0x2B#7
  | .msave a n => 0x0#7 ++ 0x0#5 ++ a ++ 0x4#3 ++ n ++ 0x2B#7
  | .mrest a n => 0x1#7 ++ 0x0#5 ++ a ++ 0x4#3 ++ n ++ 0x2B#7
  | .rtabSet b a => 0x2#7 ++ b ++ a ++ 0x4#3 ++ 0x0#5 ++ 0x2B#7
  | .ctxTag a => 0x3#7 ++ 0x0#5 ++ a ++ 0x4#3 ++ 0x0#5 ++ 0x2B#7
  | .islandQuery b a d => 0x4#7 ++ b ++ a ++ 0x4#3 ++ d ++ 0x2B#7
  | .islandSetPoint b a d => 0x4#7 ++ b ++ a ++ 0x4#3 ++ d ++ 0x2B#7
  | .islandGate b a d => 0x4#7 ++ b ++ a ++ 0x4#3 ++ d ++ 0x2B#7
  | .islandUngate b a d => 0x4#7 ++ b ++ a ++ 0x4#3 ++ d ++ 0x2B#7
  | .wavego b a => 0x0#7 ++ b ++ a ++ 0x0#3 ++ 0x0#5 ++ 0x5B#7
  | .wret => 0x1#7 ++ 0x0#5 ++ 0x0#5 ++ 0x0#3 ++ 0x0#5 ++ 0x5B#7
  | .wflush a => 0x2#7 ++ 0x0#5 ++ a ++ 0x0#3 ++ 0x0#5 ++ 0x5B#7
  | .regroup a => 0x3#7 ++ 0x0#5 ++ a ++ 0x0#3 ++ 0x0#5 ++ 0x5B#7
  | .wsync => 0x4#7 ++ 0x0#5 ++ 0x0#5 ++ 0x0#3 ++ 0x0#5 ++ 0x5B#7
  | .voteAny a d => 0x0#7 ++ 0x0#5 ++ a ++ 0x1#3 ++ d ++ 0x5B#7
  | .voteAll a d => 0x1#7 ++ 0x0#5 ++ a ++ 0x1#3 ++ d ++ 0x5B#7
  | .ballot a d => 0x2#7 ++ 0x0#5 ++ a ++ 0x1#3 ++ d ++ 0x5B#7
  | .shfl b a d => 0x3#7 ++ b ++ a ++ 0x1#3 ++ d ++ 0x5B#7
  | .shflXor b a d => 0x4#7 ++ b ++ a ++ 0x1#3 ++ d ++ 0x5B#7
  | .rdlane b a d => 0x5#7 ++ b ++ a ++ 0x1#3 ++ d ++ 0x5B#7
  | .quadSx a d => 0x8#7 ++ 0x0#5 ++ a ++ 0x1#3 ++ d ++ 0x5B#7
  | .quadSy a d => 0x9#7 ++ 0x0#5 ++ a ++ 0x1#3 ++ d ++ 0x5B#7
  | .quadSd a d => 0xA#7 ++ 0x0#5 ++ a ++ 0x1#3 ++ d ++ 0x5B#7
  | .quadBc i a d => 0xB#7 ++ i ++ a ++ 0x1#3 ++ d ++ 0x5B#7
  | .ishelper d => 0xC#7 ++ 0x0#5 ++ 0x0#5 ++ 0x1#3 ++ d ++ 0x5B#7
  | .bxt b a d => 0x0#7 ++ b ++ a ++ 0x2#3 ++ d ++ 0x5B#7
  | .trt b a d => 0x1#7 ++ b ++ a ++ 0x2#3 ++ d ++ 0x5B#7
  | .vlW i a d => i ++ a ++ 0x3#3 ++ d ++ 0x5B#7
  | .vsW i b a j => i ++ b ++ a ++ 0x4#3 ++ j ++ 0x5B#7
  | .vadd t b a d => 0x0#6 ++ t ++ b ++ a ++ 0x5#3 ++ d ++ 0x5B#7
  | .vsub t b a d => 0x2#6 ++ t ++ b ++ a ++ 0x5#3 ++ d ++ 0x5B#7
  | .vmul t b a d => 0x4#6 ++ t ++ b ++ a ++ 0x5#3 ++ d ++ 0x5B#7
  | .vmin t b a d => 0x6#6 ++ t ++ b ++ a ++ 0x5#3 ++ d ++ 0x5B#7
  | .vmax t b a d => 0x8#6 ++ t ++ b ++ a ++ 0x5#3 ++ d ++ 0x5B#7
  | .vbc t a d => 0xA#6 ++ t ++ 0x0#5 ++ a ++ 0x5#3 ++ d ++ 0x5B#7
  | .bsort t a d => 0x10#6 ++ t ++ 0x0#5 ++ a ++ 0x5#3 ++ d ++ 0x5B#7
  | .bmerge t b a d => 0x12#6 ++ t ++ b ++ a ++ 0x5#3 ++ d ++ 0x5B#7
  | .vfma c t b a d => c ++ 0x0#1 ++ t ++ b ++ a ++ 0x6#3 ++ d ++ 0x5B#7
  | .mma b a n => 0x0#7 ++ b ++ a ++ 0x0#3 ++ n ++ 0x7B#7
  | .mzero n => 0x1#7 ++ 0x0#5 ++ 0x0#5 ++ 0x0#3 ++ n ++ 0x7B#7
  | .epi a n => 0x2#7 ++ 0x0#5 ++ a ++ 0x0#3 ++ n ++ 0x7B#7
  | .mlink a n => 0x3#7 ++ 0x0#5 ++ a ++ 0x0#3 ++ n ++ 0x7B#7
  | .pred a => 0x8#7 ++ 0x0#5 ++ a ++ 0x0#3 ++ 0x0#5 ++ 0x7B#7
  | .punion a => 0x9#7 ++ 0x0#5 ++ a ++ 0x0#3 ++ 0x0#5 ++ 0x7B#7
  | .sparge a => 0xA#7 ++ 0x0#5 ++ a ++ 0x0#3 ++ 0x0#5 ++ 0x7B#7
  | .mmaSp c b a n => c ++ 0x0#2 ++ b ++ a ++ 0x1#3 ++ n ++ 0x7B#7
  | .cplaunch _ => 0#32
  | .cpstatSelect _ => 0#32
  | .cpstatCancel _ => 0#32
  | .cpstatRead _ => 0#32
  | .sdwqRead _ => 0#32
  | .sdwnDiscard => 0#32
  | .wendWrite _ _ => 0#32
  | .cqDoorbell _ _ => 0#32
  | .slpinWrite _ _ _ => 0#32
  | .tunctlWrite _ _ => 0#32
  | .registerWrite _ _ => 0#32
  | .pageWalk _ => 0#32
  | .tableLineReply _ => 0#32
  | .tlbShootdown _ _ => 0#32
  | .sliceRead _ => 0#32
  | .sliceWrite _ => 0#32
  | .ownershipRequest _ => 0#32
  | .giveUpOwnership _ => 0#32
  | .recall _ => 0#32
  | .recallReply _ => 0#32
  | .taggedRequest _ => 0#32
  | .bareAcknowledgement _ _ => 0#32
  | .refusedResend _ => 0#32
  | .taggedResendTimeout _ => 0#32
  | .pathDeclaredFailed _ => 0#32
  | .fldResend _ => 0#32
  | .fldCancel _ => 0#32
  | .l1Fill _ => 0#32
  | .writeBackAck _ => 0#32
  | .storeQueueDrain _ => 0#32
  | .bankAccess _ => 0#32
  | .coreSramAccess _ => 0#32
  | .tagFlush _ => 0#32
  | .tagFlushReply _ => 0#32
  | .lazyDrain _ _ => 0#32
  | .leaseArm _ => 0#32
  | .leaseExpiry _ => 0#32
  | .recallDeferralExpiry _ => 0#32
  | .drayTransferStart _ => 0#32
  | .drayTileUnit _ _ => 0#32
  | .drayGatherUnit _ _ => 0#32
  | .drayScatterUnit _ _ => 0#32
  | .drayRowGatherUnit _ _ => 0#32
  | .drayPodExchangeUnit _ _ => 0#32
  | .drayFaultStop _ => 0#32
  | .drayCompletion _ => 0#32
  | .rankLookupReply _ => 0#32
  | .heldMessageReread _ => 0#32
  | .messageAdmission _ => 0#32
  | .arrivalAdmission _ => 0#32
  | .ownerAtomic _ => 0#32
  | .handlerTaskStart _ => 0#32
  | .budgetExpiry _ => 0#32
  | .migrateTransitReply _ => 0#32
  | .channelPushArrival _ => 0#32
  | .tunRequest _ => 0#32
  | .tunBinTimeout _ _ => 0#32
  | .gatheredWavePlace _ => 0#32
  | .regroupMerge _ _ => 0#32
  | .waveRetire _ => 0#32
  | .matrixUnitStart _ _ => 0#32
  | .matrixCompletion _ _ => 0#32
  | .predictorStart _ => 0#32
  | .predictorCompletion _ => 0#32
  | .packetRead _ => 0#32
  | .launchAdmission => 0#32
  | .markerSignal _ => 0#32
  | .unitPlacement _ => 0#32
  | .launchCompletion _ => 0#32
  | .preemptionRequest _ => 0#32
  | .floorShareSlice _ => 0#32
  | .demotionExpiry _ => 0#32
  | .spinWake _ => 0#32
  | .yieldExpiry _ => 0#32
  | .trapEntry _ _ => 0#32
  | .interruptTaken _ _ => 0#32
  | .machineCheck _ => 0#32
  | .preemptionInterrupt _ => 0#32
  | .deferredWrite _ => 0#32
  | .poisonExport _ => 0#32
  | .userInterrupt _ => 0#32
  | .hardwareSave _ => 0#32
  | .contextResume _ _ => 0#32
  | .registerMiss _ _ _ _ => 0#32
  | .backgroundRegisterFetch _ _ _ _ => 0#32
  | .watchdogExpiry _ => 0#32
  | .hostRead _ _ => 0#32
  | .hostWrite _ _ _ => 0#32
  | .hostAtomic _ _ _ _ _ => 0#32
  | .hostSnoop _ _ => 0#32
  | .flitRetry _ => 0#32
  | .laneRepair _ _ => 0#32
  | .spanPortDown _ => 0#32
  | .correctedError _ => 0#32
  | .uncorrectableError _ _ => 0#32
  | .counterSample => 0#32
  | .unitSelfTest _ _ => 0#32
  | .unitDeclaredFailed _ => 0#32
  | .thermalTrip _ _ _ => 0#32
  | .deviceReset _ => 0#32
  | .startUp _ _ _ _ => 0#32
  | .startUpWatchdogExpiry => 0#32
  | .taggedReply _ => 0#32
  | .linkRetrain _ => 0#32
  | .operatingPointChange _ _ => 0#32
  | .islandPowerUp _ _ => 0#32
  | .wfiWakeWithoutCause _ => 0#32

/-- The instruction as its word tells it: the four commands of `island` share one word, and `rs2` tells them apart when
it executes (15 R325). -/
def Instr.written : Instr → Instr
  | .islandSetPoint b a d => .islandQuery b a d
  | .islandGate b a d => .islandQuery b a d
  | .islandUngate b a d => .islandQuery b a d
  | i => i

end Sys2Proof
end

