-- ==== Sys2Proof/Machine/Fp.lean ====
section
/-! DEFINITION. Number formats, exact values, rounding and conversion (08 R145 to R162). Every value is taken exactly as
an integer times a power of two, or as a ratio, and rounded once. -/
namespace Sys2Proof.Machine

/-- A binary floating-point format (08 R145): exponent and mantissa widths. `fin` marks E4M3, whose top exponent holds
finite values; `noNan` marks E2M1, which has no special value. -/
structure Fmt where
  ew : Nat
  mw : Nat
  fin : Bool
  noNan : Bool
  deriving DecidableEq, Repr

def fp64 : Fmt := { ew := 11, mw := 52, fin := false, noNan := false }
def fp32 : Fmt := { ew := 8, mw := 23, fin := false, noNan := false }
def tf32 : Fmt := { ew := 8, mw := 10, fin := false, noNan := false }
def bf16 : Fmt := { ew := 8, mw := 7, fin := false, noNan := false }
def fp16 : Fmt := { ew := 5, mw := 10, fin := false, noNan := false }
def e4m3 : Fmt := { ew := 4, mw := 3, fin := true, noNan := false }
def e5m2 : Fmt := { ew := 5, mw := 2, fin := false, noNan := false }
def e2m1 : Fmt := { ew := 2, mw := 1, fin := true, noNan := true }

def Fmt.bias (f : Fmt) : Nat := 2 ^ (f.ew - 1) - 1
def Fmt.width (f : Fmt) : Nat := 1 + f.ew + f.mw

/-- The largest exponent field of a finite value. -/
def Fmt.topE (f : Fmt) : Nat := if f.fin then 2 ^ f.ew - 1 else 2 ^ f.ew - 2

/-- The magnitude code of the largest finite value. -/
def Fmt.maxCode (f : Fmt) : Nat :=
  if f.fin then (if f.noNan then 2 ^ (f.ew + f.mw) - 1 else 2 ^ (f.ew + f.mw) - 2) else (2 ^ f.ew - 1) * 2 ^ f.mw - 1

/-- The canonical NaN (08 R147); E2M1 has none and takes 0 (R153). -/
def Fmt.nan (f : Fmt) : Nat :=
  if f.noNan then 0 else if f.fin then 2 ^ (f.ew + f.mw) - 1 else (2 ^ f.ew - 1) * 2 ^ f.mw + 2 ^ (f.mw - 1)

/-- An exact value: NaN, an infinity, or ± m × 2^e. A zero keeps its sign. -/
inductive Val where
  | nan (signalling : Bool)
  | inf (neg : Bool)
  | fin (neg : Bool) (m : Nat) (e : Int)
  deriving DecidableEq, Repr

def Val.isNan : Val → Bool
  | .nan _ => true
  | _ => false

def Val.isZero : Val → Bool
  | .fin _ m _ => m == 0
  | _ => false

def Val.neg : Val → Bool
  | .nan _ => false
  | .inf s => s
  | .fin s _ _ => s

def Val.isInf : Val → Bool
  | .inf _ => true
  | _ => false

def Val.negate : Val → Val
  | .nan q => .nan q
  | .inf s => .inf (!s)
  | .fin s m e => .fin (!s) m e

/-- The value that a code of a format stands for (08 R145). -/
def decodeFp (f : Fmt) (c : Nat) : Val :=
  let man := c % 2 ^ f.mw
  let ex := c / 2 ^ f.mw % 2 ^ f.ew
  let sg := c / 2 ^ (f.ew + f.mw) % 2 == 1
  if !f.fin && ex == 2 ^ f.ew - 1 then
    if man == 0 then .inf sg else .nan (man < 2 ^ (f.mw - 1))
  else if f.fin && !f.noNan && ex == 2 ^ f.ew - 1 && man == 2 ^ f.mw - 1 then .nan false
  else if ex == 0 then .fin sg man (1 - (f.bias : Int) - f.mw)
  else .fin sg (man + 2 ^ f.mw) ((ex : Int) - f.bias - f.mw)

/-- The rounding modes: the five of `frm` (08 R160), and stochastic rounding with its 16-bit draw (R155). -/
inductive Rnd where
  | rne
  | rtz
  | rdn
  | rup
  | rmm
  | sr (d : Nat)
  deriving DecidableEq, Repr

/-- The number of bits of `n`; `fuel` bounds the search. -/
def bitLen (n : Nat) : Nat := if n = 0 then 0 else n.log2 + 1

/-- 2^k as a natural, for a non-negative integer k. -/
def pow2 (k : Int) : Nat := 2 ^ k.toNat

/-- Whether the magnitude q + r/d steps up to q + 1, where 0 ≤ r < d. -/
def roundUp (rnd : Rnd) (neg : Bool) (q r d : Nat) : Bool :=
  if r = 0 then false
  else match rnd with
    | .rne => 2 * r > d || (2 * r == d && q % 2 == 1)
    | .rtz => false
    | .rdn => neg
    | .rup => !neg
    | .rmm => 2 * r ≥ d
    | .sr t => t < r * 65536 / d

/-- The magnitude num/den × 2^e rounded to the grid of the format (08 R153 step 2): the code of the grid point, with
unbounded exponent, and whether it was inexact. -/
def roundMag (f : Fmt) (rnd : Rnd) (neg : Bool) (num den : Nat) (e : Int) : Nat × Bool :=
  if num = 0 then (0, false)
  else
    let l : Int := (bitLen num : Int) - bitLen den + e
    let l := if (if l - e ≥ 0 then num < den * pow2 (l - e) else num * pow2 (e - l) < den) then l - 1 else l
    let q : Int := max (l - f.mw) (1 - (f.bias : Int) - f.mw)
    let n := if e ≥ q then num * pow2 (e - q) else num
    let d := if e ≥ q then den else den * pow2 (q - e)
    let t := n / d
    let r := n % d
    let t' := if roundUp rnd neg t r d then t + 1 else t
    let exf : Nat := (q - (1 - (f.bias : Int) - f.mw)).toNat
    (if t' < 2 ^ f.mw then t' else t' + exf * 2 ^ f.mw, r ≠ 0)

def signBit (f : Fmt) (neg : Bool) : Nat := if neg then 2 ^ (f.ew + f.mw) else 0

/-- The result of an overflow of a base F or D operation (08 R160). -/
def overflowCode (f : Fmt) (rnd : Rnd) (neg : Bool) : Nat :=
  let toInf := match rnd with
    | .rne | .rmm | .sr _ => true
    | .rtz => false
    | .rdn => neg
    | .rup => !neg
  signBit f neg + (if toInf then f.maxCode + 1 else f.maxCode)

/-- The accrued exception bits of `fflags`: NX 1, UF 2, OF 4, DZ 8, NV 16. -/
abbrev FFlags := Nat

def flagOr (a b : FFlags) : FFlags := a ||| b

/-- Whether a value is tiny after rounding (08 R160): rounded with unbounded exponent range, it lies below the least
normal magnitude. -/
def tinyAfter (f : Fmt) (rnd : Rnd) (neg : Bool) (num den : Nat) (e : Int) : Bool :=
  let wide : Fmt := { f with ew := f.ew + 8 }
  let c := (roundMag wide rnd neg num den e).1
  c < (wide.bias - f.bias + 1) * 2 ^ f.mw

/-- A non-zero magnitude rounded to a format as an F or D result, with its flags (08 R160). -/
def roundFp (f : Fmt) (rnd : Rnd) (neg : Bool) (num den : Nat) (e : Int) : Nat × FFlags :=
  let (c, inexact) := roundMag f rnd neg num den e
  if c > f.maxCode then (overflowCode f rnd neg, 5)
  else (signBit f neg + c,
    if inexact then (if tinyAfter f rnd neg num den e then 3 else 1) else 0)

/-- An exact finite value as a signed integer over a common exponent. -/
def signed (neg : Bool) (m : Nat) : Int := if neg then -(m : Int) else m

/-- The exact sum of two finite values as an integer times 2^e. -/
def addExact (m1 : Int) (e1 : Int) (m2 : Int) (e2 : Int) : Int × Int :=
  let e := min e1 e2
  (m1 * pow2 (e1 - e) + m2 * pow2 (e2 - e), e)

/-- Round an exact integer times 2^e; an exact zero takes the sign `z`. -/
def roundInt (f : Fmt) (rnd : Rnd) (m : Int) (e : Int) (z : Bool) : Nat × FFlags :=
  if m = 0 then (signBit f z, 0) else roundFp f rnd (m < 0) m.natAbs 1 e

def nvIf (b : Bool) : FFlags := if b then 16 else 0

def Val.snan : Val → Bool
  | .nan s => s
  | _ => false

/-- IEEE 754-2019 addition (08 R157, R160). -/
def addVal (f : Fmt) (rnd : Rnd) (a b : Val) : Nat × FFlags :=
  match a, b with
  | .nan s, b => (f.nan, nvIf (s || b.snan))
  | _, .nan s => (f.nan, nvIf s)
  | .inf s, .inf t => if s = t then (signBit f s + f.maxCode + 1, 0) else (f.nan, 16)
  | .inf s, _ => (signBit f s + f.maxCode + 1, 0)
  | _, .inf t => (signBit f t + f.maxCode + 1, 0)
  | .fin s m e, .fin t n g =>
    let (v, x) := addExact (signed s m) e (signed t n) g
    let z := if s = t then s else rnd = .rdn
    roundInt f rnd v x z

/-- The exact product of two values. -/
def mulExact : Val → Val → Val
  | .nan s, b => .nan (s || b.snan)
  | a, .nan s => .nan (s || a.snan)
  | .inf s, .inf t => .inf (s != t)
  | .inf s, .fin t m _ => if m = 0 then .nan true else .inf (s != t)
  | .fin s m _, .inf t => if m = 0 then .nan true else .inf (s != t)
  | .fin s m e, .fin t n g => .fin (s != t) (m * n) (e + g)

def mulVal (f : Fmt) (rnd : Rnd) (a b : Val) : Nat × FFlags :=
  if a.isNan || b.isNan then (f.nan, nvIf (a.snan || b.snan))
  else match mulExact a b with
    | .nan _ => (f.nan, 16)
    | .inf s => (signBit f s + f.maxCode + 1, 0)
    | .fin s m e => if m = 0 then (signBit f s, 0) else roundFp f rnd s m 1 e

def divVal (f : Fmt) (rnd : Rnd) (a b : Val) : Nat × FFlags :=
  match a, b with
  | .nan s, b => (f.nan, nvIf (s || b.snan))
  | _, .nan s => (f.nan, nvIf s)
  | .inf _, .inf _ => (f.nan, 16)
  | .inf s, .fin t _ _ => (signBit f (s != t) + f.maxCode + 1, 0)
  | .fin s _ _, .inf t => (signBit f (s != t), 0)
  | .fin s m e, .fin t n g =>
    if n = 0 then (if m = 0 then (f.nan, 16) else (signBit f (s != t) + f.maxCode + 1, 8))
    else if m = 0 then (signBit f (s != t), 0)
    else roundFp f rnd (s != t) m n (e - g)

/-- The integer square root, one result bit at a time from bit `k` down. -/
def isqrtFrom : Nat → Nat → Nat → Nat
  | 0, n, r => if (r + 1) * (r + 1) ≤ n then r + 1 else r
  | k + 1, n, r =>
    let t := r + 2 ^ (k + 1)
    isqrtFrom k n (if t * t ≤ n then t else r)

def isqrt (n : Nat) : Nat := isqrtFrom (bitLen n / 2 + 1) n 0

/-- The square root of m × 2^e to `p` result bits and a sticky bit below: (root, exponent). -/
def sqrtExact (p : Nat) (m : Nat) (e : Int) : Nat × Int :=
  let m := if e % 2 = 0 then m else 2 * m
  let e := if e % 2 = 0 then e else e - 1
  let n := m * 4 ^ p
  let r := isqrt n
  (2 * r + (if r * r = n then 0 else 1), e / 2 - p - 1)

def sqrtVal (f : Fmt) (rnd : Rnd) : Val → Nat × FFlags
  | .nan s => (f.nan, nvIf s)
  | .inf s => if s then (f.nan, 16) else (f.maxCode + 1, 0)
  | .fin s m e =>
    if m = 0 then (signBit f s, 0)
    else if s then (f.nan, 16)
    else
      let (r, x) := sqrtExact (f.mw + 4) m e
      roundFp f rnd false r 1 x

/-- a × b + c rounded once (08 R160, 10 R200). The invalid product raises NV even when c is a NaN. -/
def fmaVal (f : Fmt) (rnd : Rnd) (a b c : Val) : Nat × FFlags :=
  let bad := (a.isInf && b.isZero) || (a.isZero && b.isInf)
  if a.isNan || b.isNan || c.isNan then (f.nan, nvIf (a.snan || b.snan || c.snan || bad))
  else if bad then (f.nan, 16)
  else addVal f rnd (mulExact a b) c

/-- Order of two values that are no NaN: -1, 0 or 1; the zeros are equal. -/
def cmpVal (a b : Val) : Int :=
  match a, b with
  | .inf s, .inf t => if s = t then 0 else if s then -1 else 1
  | .inf s, _ => if s then -1 else 1
  | _, .inf t => if t then 1 else -1
  | .fin s m e, .fin t n g =>
    let d := (addExact (signed s m) e (-signed t n) g).1
    if d < 0 then -1 else if d = 0 then 0 else 1
  | _, _ => 0

/-- minimumNumber and maximumNumber with −0 below +0 (08 R160). `x` and `y` are the codes. -/
def minMaxFp (f : Fmt) (isMax : Bool) (x y : Nat) : Nat × FFlags :=
  let a := decodeFp f x
  let b := decodeFp f y
  let nv := nvIf (a.snan || b.snan)
  if a.isNan then (if b.isNan then f.nan else y, nv)
  else if b.isNan then (x, nv)
  else
    let c := cmpVal a b
    let less := c < 0 || (c == 0 && a.neg && !b.neg)
    (if less != isMax then x else y, nv)

/-- Round an exact value to an integer (08 R160); the second part is the inexact mark. -/
def toIntegral (rnd : Rnd) (s : Bool) (m : Nat) (e : Int) : Int × Bool :=
  if e ≥ 0 then (signed s (m * pow2 e), false)
  else
    let d := pow2 (-e)
    let q := m / d
    let r := m % d
    (signed s (if roundUp rnd s q r d then q + 1 else q), r ≠ 0)

/-- Conversion to a `w`-bit integer, signed or not (10 R201). -/
def fpToInt (rnd : Rnd) (sgn : Bool) (w : Nat) (v : Val) : Int × FFlags :=
  let lo : Int := if sgn then -(2 ^ (w - 1) : Int) else 0
  let hi : Int := if sgn then 2 ^ (w - 1) - 1 else 2 ^ w - 1
  match v with
  | .nan _ => (hi, 16)
  | .inf s => (if s then lo else hi, 16)
  | .fin s m e =>
    let (n, inexact) := toIntegral rnd s m e
    if n < lo then (lo, 16) else if n > hi then (hi, 16) else (n, if inexact then 1 else 0)

/-- Conversion of an integer to a format (10 R200). -/
def intToFp (f : Fmt) (rnd : Rnd) (n : Int) : Nat × FFlags := roundInt f rnd n 0 false

/-- Conversion between FP32 and FP64 (10 R200, 08 R160). -/
def fpToFp (f : Fmt) (rnd : Rnd) (v : Val) : Nat × FFlags :=
  match v with
  | .nan s => (f.nan, nvIf s)
  | .inf s => (signBit f s + f.maxCode + 1, 0)
  | .fin s m e => if m = 0 then (signBit f s, 0) else roundFp f rnd s m 1 e

/-- The class mask of `fclass` (10 R200). -/
def classify (f : Fmt) (c : Nat) : Nat :=
  match decodeFp f c with
  | .nan s => if s then 0x100 else 0x200
  | .inf s => if s then 0x001 else 0x080
  | .fin s m _ =>
    if m = 0 then (if s then 0x008 else 0x010)
    else if m < 2 ^ f.mw then (if s then 0x004 else 0x020)
    else (if s then 0x002 else 0x040)

/-- The target of a conversion (08 R151): a floating-point format, or an integer of some width. -/
inductive Target where
  | fp (f : Fmt)
  | int (w : Nat)
  deriving DecidableEq, Repr

/-- The result of an overflow (08 R153 step 3): the largest finite value, the infinity, or the NaN of a format that has no
infinity, whatever the sign. -/
def cvtOver (f : Fmt) (neg keep : Bool) : Nat :=
  if keep || f.noNan then signBit f neg + f.maxCode
  else if f.fin then f.nan
  else signBit f neg + f.maxCode + 1

/-- Cvt(v, fmt, rnd, sat) of 08 R153, as a code. The value is ± num/den × 2^e. -/
def cvtMag (t : Target) (rnd : Rnd) (sat : Bool) (neg : Bool) (num den : Nat) (e : Int) : Nat :=
  match t with
  | .fp f =>
    let c := (roundMag f rnd neg num den e).1
    if c > f.maxCode then cvtOver f neg (rnd = .rtz || sat) else signBit f neg + c
  | .int w =>
    let n := if e ≥ 0 then num * pow2 e else num
    let d := if e ≥ 0 then den else den * pow2 (-e)
    let q := n / d
    let q := if roundUp rnd neg q (n % d) d then q + 1 else q
    let v : Int := max (-(2 ^ (w - 1))) (min (2 ^ (w - 1) - 1) (signed neg q))
    (v % 2 ^ w).toNat

def cvtVal (t : Target) (rnd : Rnd) (sat : Bool) (v : Val) : Nat :=
  match v with
  | .nan _ => match t with
    | .fp f => f.nan
    | .int _ => 0
  | .inf s => match t with
    | .fp f => cvtOver f s sat
    | .int w => if s then 2 ^ (w - 1) else 2 ^ (w - 1) - 1
  | .fin s m e => match t with
    | .fp f => if m = 0 then signBit f s else cvtMag (.fp f) rnd sat s m 1 e
    | .int w => cvtMag (.int w) rnd sat s m 1 e

/-- The draw of stochastic rounding (08 R156). -/
def srDraw (seed : Word) (lane idx : Nat) : Nat :=
  let key : Word := BitVec.ofNat 64 (lane * 2 ^ 32 + idx % 2 ^ 32 + 1)
  let z := seed + 0x9E3779B97F4A7C15#64 * key
  let z := (z ^^^ (z >>> 30)) * 0xBF58476D1CE4E5B9#64
  let z := (z ^^^ (z >>> 27)) * 0x94D049BB133111EB#64
  let z := z ^^^ (z >>> 31)
  (z >>> 48).toNat

/-- Read one FP32 operand of an f register: a value that is not NaN-boxed reads as the canonical NaN (10 R201). -/
def unbox (v : Word) : Nat := if bits 32 32 v = 0xFFFFFFFF#32 then (bits 0 32 v).toNat else fp32.nan

/-- NaN-box an FP32 code (00 R9). -/
def nanBox (c : Nat) : Word := 0xFFFFFFFF#32 ++ BitVec.ofNat 32 c

/-- The f-register value of a code of the format (T = 0 FP32, 1 FP64). -/
def fpBox (d : Bool) (c : Nat) : Word := if d then BitVec.ofNat 64 c else nanBox c

def fpUnbox (d : Bool) (v : Word) : Nat := if d then v.toNat else unbox v

def fpFmt (d : Bool) : Fmt := if d then fp64 else fp32

/-- `amo.fadd` and the contributions on normal pages (08 R162): the exact sum rounded once with RNE; an exact zero sum is
+0 unless both inputs are −0. -/
def homeAdd (f : Fmt) (a b : Nat) : Nat := (addVal f .rne (decodeFp f a) (decodeFp f b)).1

/-- ↑(v): the least FP32 value that is at least the exact integer m × 2^e, +∞ above the largest finite one (14 R304). -/
def ceil32 (m : Int) (e : Int) : Nat :=
  if m = 0 then 0
  else if m < 0 then signBit fp32 true + min (roundMag fp32 .rup true m.natAbs 1 e).1 fp32.maxCode
  else min (roundMag fp32 .rup false m.natAbs 1 e).1 (fp32.maxCode + 1)

end Sys2Proof.Machine
end

