-- ==== Sys2Proof/Config.lean ====
section
/-! DEFINITION. The free values of the model: values that the spec leaves open while the device goes on. Each is an opaque
constant, so no proof can see one; `State.fresh` numbers the draws. -/
namespace Sys2Proof.Config

/-- The pseudo-LRU choice of a victim among the ways of one class (05 R101), by draw number. DESIGN CHOICE (L5). -/
opaque victim : Nat → Nat

/-- The TLB entry that a full TLB replaces (02 R42), by draw number. DESIGN CHOICE (L5). -/
opaque tlbVictim : Nat → Nat

/-- A value that the spec does not state, by draw number: an unstated result. DESIGN CHOICE (L5). -/
opaque freeWord : Nat → Word

/-- Whether the tag array of a unit that fails can be read, and whether its L1 can read a Dirty line back (03 R69), by draw number.
DESIGN CHOICE (L60). -/
opaque failing : Nat → Bool

/-- Whether the supervisor cancels a packet before its admission, by draw number (17 R346): the spec names no operation that does it.
DESIGN CHOICE (L66). -/
opaque cancelled : Nat → Bool

/-- Whether the host caches a line that it reads in CXL mode (19 R393), by draw number: the host's choice. DESIGN CHOICE (L73). -/
opaque hostCaches : Nat → Bool

/-- Whether the host has an MSI-X vector masked when a message for it is due (19 R392), by draw number: the host's choice. DESIGN CHOICE
(L73). -/
opaque vectorMasked : Nat → Bool

/-- Whether a reset has reached its limit of 20 µs before a Dirty line of the host is written back (19 R393), by draw number. DESIGN
CHOICE (L73). -/
opaque pastLimit : Nat → Bool

end Sys2Proof.Config
end

