-- ==== Sys2Proof/Machine/State.lean ====
section
/-! DEFINITION. The state of the device: plain data, every piece that the spec names (INVENTORY.md, State), the reasons a
step can stop, and the state at reset. -/
namespace Sys2Proof.Machine

/-- An x or f register with its poison bit (07 R128); also one double of a channel. -/
structure Reg where
  v : Word
  p : Bool
  deriving DecidableEq, Repr

def Reg.zero : Reg := { v := 0, p := false }

/-- A w register: eight elements of 32 bits, one poison bit each (07 R125, R128). -/
structure WReg where
  v : BitVec 256
  p : BitVec 8
  deriving DecidableEq, Repr

def WReg.zero : WReg := { v := 0, p := 0 }

/-- The privilege modes (15 R312). -/
inductive Mode where
  | u
  | s
  | m
  deriving DecidableEq, Repr

/-- The lane states of 18 R383. -/
inductive LaneSt where
  | runnable
  | idle
  | finished
  | wsync
  | regroup
  | trap
  | uint
  deriving DecidableEq, Repr

/-- One lane. A scalar context is lane 0 alone. `depth` is the trap nesting at which a parked lane waits (15 R316);
`origin` is the thread a gathered lane came from (13 R267); `park` is the source register of the `regroup` at which it
stands (13 R272). -/
structure Lane where
  x : Tbl Reg
  f : Tbl Reg
  fcsr : BitVec 8
  pc : Word
  st : LaneSt
  helper : Bool
  depth : Nat
  origin : Option Nat
  rank : Option (BitVec 32)
  park : BitVec 5
  deriving DecidableEq, Repr

/-- A lane that holds no work: registers 0 with no poison (07 R125). -/
def Lane.idle : Lane :=
  { x := [], f := [], fcsr := 0, pc := 0, st := .idle, helper := false, depth := 0, origin := none, rank := none,
    park := 0 }

/-- The control and status registers of a context (15 R313 to R318; 07 R143; 02 R33; 10 R209). -/
structure Csrs where
  mstatus : Word
  mie : Word
  mip : Word
  medeleg : Word
  mideleg : Word
  mtvec : Word
  stvec : Word
  mscratch : Word
  sscratch : Word
  mepc : Word
  sepc : Word
  mcause : Word
  scause : Word
  mtval : Word
  stval : Word
  mcounteren : Word
  scounteren : Word
  mfmask : Word
  sfmask : Word
  satp : Word
  srseed : Word
  uepc : Word
  ucause : Word
  uxid : Word
  instret : Word
  deriving DecidableEq, Repr

def Csrs.reset : Csrs :=
  { mstatus := 0, mie := 0, mip := 0, medeleg := 0, mideleg := 0, mtvec := 0, stvec := 0, mscratch := 0, sscratch := 0,
    mepc := 0, sepc := 0, mcause := 0, scause := 0, mtval := 0, stval := 0, mcounteren := 0, scounteren := 0, mfmask := 0,
    sfmask := 0, satp := 0, srseed := 0, uepc := 0, ucause := 0, uxid := 0, instret := 0 }

/-- The registers that stay with a place when its context goes: delegation, enables, vectors and scratch registers (DESIGN CHOICE,
L77). -/
def Csrs.trapOf (c : Csrs) : Csrs :=
  { Csrs.reset with mie := c.mie, medeleg := c.medeleg, mideleg := c.mideleg, mtvec := c.mtvec, stvec := c.stvec,
                    mscratch := c.mscratch, sscratch := c.sscratch, mcounteren := c.mcounteren, scounteren := c.scounteren }

/-- The registers of a new context at a place. -/
def Csrs.withTrap (c t : Csrs) : Csrs :=
  { c with mie := t.mie, medeleg := t.medeleg, mideleg := t.mideleg, mtvec := t.mtvec, stvec := t.stvec, mscratch := t.mscratch,
           sscratch := t.sscratch, mcounteren := t.mcounteren, scounteren := t.scounteren }

/-- The wait counters (11 R217). -/
structure Counters where
  ld : Nat
  st : Nat
  ms : Nat
  cp : Nat
  mx : Nat
  deriving DecidableEq, Repr

/-- The parameter copy CSRs (04 R73). -/
structure CopyCsrs where
  src : Word
  dst : Word
  dim : Word
  stride : Word
  box : Word
  mode : Word
  bar : Word
  hdl : Word
  deriving DecidableEq, Repr

def CopyCsrs.reset : CopyCsrs :=
  { src := 0, dst := 0, dim := 0, stride := 0, box := 0, mode := 0, bar := 0, hdl := 0 }

/-- The translation under which a line was stored (05 R101; 02 R46): the virtual line address and the ASID that the line
keeps, the extent of the page as a power of two, and its G bit. `bits` is 0 where no page table was used. -/
structure Under where
  vline : Nat
  asid : Nat
  bits : Nat
  glob : Bool
  deriving DecidableEq, Repr

def Under.none : Under := { vline := 0, asid := 0, bits := 0, glob := false }

/-- One line of a lease with its shadow (06 R114). -/
structure Shadow where
  line : Nat
  under : Under
  data : LineBits
  mask : BitVec 128
  poison : BitVec 128
  deriving DecidableEq, Repr

/-- An armed lease region (06 R112). Loads numbered below `since` were issued before it. -/
structure Region where
  pc : Word
  lines : List Shadow
  ckpt : Tbl Reg
  deadline : Nat
  armedAt : Nat
  since : Nat
  deriving DecidableEq, Repr

/-- The lease state of a thread set (06 R122). While acquiring: the destination register, the budget, the lines. -/
inductive LeaseSt where
  | idle
  | acquiring (rd : Nat) (budget : Nat) (lines : List Shadow)
  | armed (r : Region)
  deriving DecidableEq, Repr

/-- A message on its way to a handler (12 R246). `id` is the identifier that its destination gave it (R247). -/
structure Message where
  launch : Nat
  rank : BitVec 32
  pc : Word
  n : Nat
  scope : Nat
  sender : Word
  payload : List Reg
  ctxid : BitVec 48
  uid : Nat
  id : BitVec 16
  aborts : Nat
  deriving DecidableEq, Repr

/-- The 80-byte context of a light thread (07 R142); `seed` is the `srseed` with which a launch starts it (17 R352), else 0;
`mcPend`, `uPend` and `preempt` are the events and the pre-emption request that wait until it runs at its target (12 R260; 18 R379), and
`area` is the save area that the thread keeps until it retires (18 R382). -/
structure Light where
  a : Tbl Reg
  pc : Word
  rank : BitVec 32
  launchNo : BitVec 14
  launch : Nat
  seed : Word
  mcPend : Option (BitVec 32)
  uPend : List (BitVec 16 × Word)
  preempt : Bool
  area : Option Nat
  deriving DecidableEq, Repr

/-- A codelet in the ready ring (12 R253, R256). -/
structure Codelet where
  loc : Nat
  va : Word
  launch : Nat
  aborts : Nat
  deriving DecidableEq, Repr

/-- Where a channel push goes (07 R133). -/
inductive PushTo where
  | self
  | rank (r : BitVec 32)
  | wave (w : Nat)
  deriving DecidableEq, Repr

/-- A send that a handler holds until `hend` (12 R249); `grp` is its part of the `ms` counter. -/
inductive Held where
  | msg (m : Message) (grp : Nat)
  | push (t : PushTo) (ch : Nat) (ds : List Reg)
  | cdec (loc : Nat) (va : Word) (grp : Nat)
  | arrival (l : Light) (core grp : Nat)
  | launch (x : Nat)
  deriving DecidableEq, Repr

/-- The task that a handler set runs (12 R247, R248). -/
inductive Work where
  | message (m : Message)
  | codelet (c : Codelet)
  deriving DecidableEq, Repr

/-- `deadline` is known from the task's first instruction on (12 R248). -/
structure Task where
  work : Work
  deadline : Option Nat
  held : List Held
  claimed : List (BitVec 32)
  deriving DecidableEq, Repr

/-- The aborted task that `shabort` describes (18 R370). -/
structure Aborted where
  work : Work
  aborts : Nat
  drop : Bool
  deriving DecidableEq, Repr

/-- A deferred fault record (18 R373). -/
structure FaultRec where
  ctxid : BitVec 48
  who : BitVec 8
  wave : Bool
  kind : BitVec 2
  pc : Word
  va : Word
  mask : BitVec 128
  deriving DecidableEq, Repr

/-- The result of a rank lookup that reached the network interface (12 R240). -/
inductive LookRes where
  | absent
  | entry (e : Word)
  | fault (cause : Nat) (va : Word)
  deriving DecidableEq, Repr

/-- A fault that a walk found for a requester (02 R45): 0 a page fault, else an access fault, of a page and a kind of access. -/
structure WalkFault where
  kind : Nat
  page : Nat
  acc : Nat
  deriving DecidableEq, Repr

/-- The L1D line states of 05 R102; an Invalid line is not listed. -/
inductive LineSt where
  | valid
  | dirty
  | owned
  deriving DecidableEq, Repr

/-- A line of an L1D (05 R101, R102, R105). `tag` is its entry of the tag table. -/
structure L1Line where
  line : Nat
  st : LineSt
  data : LineBits
  mask : BitVec 128
  fill : Bool
  poison : BitVec 128
  tag : Nat
  under : Under
  marked : Bool
  deriving DecidableEq, Repr

/-- The spin detector of a thread set (17 R357), with the registers as the last issue left them: `lines` are those of the loads of the pass under way,
`held` the recorded ones with the unit's copies of them, and `chans` the packets that the set had at its demotion. -/
structure Spin where
  pc : Word
  takes : Nat
  lines : List (List Nat)
  held : List (Nat × Option L1Line)
  chans : Tbl (List (List Reg))
  quiet : Bool
  x : Tbl Reg
  f : Tbl Reg
  deriving DecidableEq, Repr

def Spin.none : Spin := { pc := 0, takes := 0, lines := [], held := [], chans := [], quiet := false, x := [], f := [] }

/-- An entry of a translation map (07 R138). -/
structure MapEnt where
  sreg : Nat
  lreg : Nat
  inn : Bool
  out : Bool
  deriving DecidableEq, Repr

/-- Whether a thread set or wave slot holds a context. `ending` is a wave that issues nothing more (17 R353). -/
inductive CtxSt where
  | vacant
  | resident
  | ending
  deriving DecidableEq, Repr

/-- A request whose path has been declared failed (03 R58): its lane and address, and the outstanding load and the counted operation that
stay unfinished until an instruction waits for them. -/
structure Remote where
  lane : Nat
  va : Word
  pend : Option Nat
  grp : Nat
  deriving DecidableEq, Repr

/-- One context: a thread set, a handler set or a wave. `uid` names the context wherever it stands; `block` is the group of accesses it
waits for, `phase` the progress of an instruction made in several steps; `parks` counts the issues whose lanes stand at a `regroup`, and
`grouped` marks a wave whose merge there is decided (13 R272); before clk `lookAt` its rank lookups are not sent again (12 R260); `ready` and
`since` tell how long it has waited for its turn (17 R356, R359). -/
structure Ctx where
  status : CtxSt
  uid : Nat
  lanes : Tbl Lane
  w : Tbl WReg
  mode : Mode
  csr : Csrs
  cnt : Counters
  copy : CopyCsrs
  cpSel : BitVec 17
  nextXid : BitVec 16
  recent : List Nat
  chans : Tbl (List (List Reg))
  lease : LeaseSt
  lrc : Nat
  seq : BitVec 16
  unanswered : List (BitVec 16)
  tagAt : Nat
  ctxid : BitVec 48
  launch : Option Nat
  launchNo : BitVec 14
  rank : Option (BitVec 32)
  light : Bool
  crew : Option Nat
  waveIdx : Nat
  waves : Nat
  prio : Nat
  ganged : Bool
  half : Bool
  gath : Bool
  allocBase : Nat
  allocSize : Nat
  task : Option Task
  aborted : Option Aborted
  inUser : Bool
  uPend : List (BitVec 16 × Word)
  faultQ : List FaultRec
  faultNext : Nat
  faultLost : BitVec 32
  pendDw : Bool
  pendPx : Bool
  spin : Spin
  demoted : Option Nat
  yieldTil : Option Nat
  dog : Option Nat
  preempt : Bool
  preTaken : Bool
  wfi : Bool
  mcPend : Option (BitVec 32)
  mcBusy : Option Nat
  mcTwice : Bool
  absent : Tbl Bool
  area : Option Nat
  tagUnit : Nat
  tagEnt : Nat
  flushWait : Bool
  crossed : Bool
  grouped : Bool
  block : Option Nat
  phase : Nat
  depth : Nat
  forced : List Nat
  look : List (BitVec 64 × LookRes)
  walkFault : List WalkFault
  lookAt : Nat
  remote : List Remote
  startAcq : Option Nat
  ents : List MapEnt
  ready : Bool
  since : Nat
  parks : Nat
  deriving DecidableEq, Repr

/-- A set or slot that holds no context. -/
def Ctx.vacant : Ctx :=
  { status := .vacant, uid := 0, lanes := [], w := [], mode := .u, csr := Csrs.reset,
    cnt := { ld := 0, st := 0, ms := 0, cp := 0, mx := 0 }, copy := CopyCsrs.reset, cpSel := 0, nextXid := 0, recent := [],
    chans := [], lease := .idle, lrc := 0, seq := 0, unanswered := [], tagAt := 0, ctxid := 0, launch := none, launchNo := 0,
    rank := none, light := false, crew := none, waveIdx := 0, waves := 0, prio := 0, ganged := false, half := false,
    gath := false, allocBase := 0, allocSize := 0, task := none, aborted := none, inUser := false, uPend := [],
    faultQ := [], faultNext := 0, faultLost := 0, pendDw := false, pendPx := false, spin := Spin.none, demoted := none,
    yieldTil := none, dog := none, preempt := false, preTaken := false, wfi := false, mcPend := none, mcBusy := none, mcTwice := false,
    absent := [], area := none, tagUnit := 0, tagEnt := 0, flushWait := false, crossed := false, grouped := false,
    block := none, phase := 0, depth := 0, forced := [], look := [], walkFault := [], lookAt := 0, remote := [], startAcq := none, ents := [],
    ready := false, since := 0, parks := 0 }

/-- A tag table entry that is not Free (05 R105, R106). -/
structure TagEnt where
  idx : Nat
  ctxid : BitVec 48
  uid : Nat
  live : Bool
  area : Option Nat
  deriving DecidableEq, Repr

/-- How an access treats a location (03 R52; 05 R96, R99; 19 R389). HBM4, the pod window and the host memory window differ
by their physical addresses. -/
inductive Home where
  | cached
  | uncached
  | future
  | reduction
  | core
  | window
  | device
  deriving DecidableEq, Repr

/-- A store in a store queue (11 R221): its bytes and place, whether releases wait for it, whether it is an `st.rel` that
writes through (R219). The entries of one instruction share `ins`. -/
structure SqEnt where
  ins : Nat
  uid : Nat
  loc : Nat
  n : Nat
  data : BitVec 64
  poison : BitVec 8
  home : Home
  rel : Bool
  thru : Bool
  under : Under
  grp : Option Nat
  deriving DecidableEq, Repr

/-- A TLB entry (02 R42): pages of 2^`bits` bytes; the leaf's permission bits as the entry holds them. -/
structure TlbEnt where
  asid : Nat
  glob : Bool
  vpn : Nat
  bits : Nat
  ppn : Nat
  perm : BitVec 9
  home : BitVec 2
  kind : BitVec 2
  pin : BitVec 6
  deriving DecidableEq, Repr

/-- The agent for which a translation is made: a context, a copy transfer, or hardware that reads a launch's tables. -/
inductive Asker where
  | ctx (uid : Nat)
  | xfer (x : Nat)
  | launch (l : Nat)
  deriving DecidableEq, Repr

/-- A requester that waits for a walk: `acc` is 0 for a load, 1 for an access that can modify memory, 2 for a fetch; `tlb` is
its own TLB, where it has one. -/
structure Waiter where
  who : Asker
  acc : Nat
  unit : Nat
  tlb : Option Nat
  mode : Mode
  sum : Bool
  mxr : Bool
  deriving DecidableEq, Repr

/-- A translation walk (02 R43, R44): a request in a cluster's FIFO, or the work of a walker of a die. The waiter that asked
first stands at the head. -/
structure Walk where
  id : Nat
  clu : Nat
  walker : Nat
  va : Nat
  asid : Nat
  root : Nat
  level : Nat
  table : Nat
  waiters : List Waiter
  dead : Bool
  deriving DecidableEq, Repr

/-- Where a load's bytes go when they have all arrived. -/
inductive Dst where
  | x (r n : Nat) (signed : Bool)
  | f (r n : Nat)
  | w (r : Nat)
  | box (fd : Nat) (ray : List Reg)
  | tri (fd : Nat) (ray : List Reg)
  | none
  deriving DecidableEq, Repr

/-- A load, atomic or future load whose bytes have not all arrived: `left` marks the missing bytes, and `waits` lists the
pieces (offset, location, size, request) that wait for the line fill that answers a request of `unit`. -/
structure Pend where
  uid : Nat
  lane : Nat
  dst : Dst
  n : Nat
  data : BitVec 288
  poison : BitVec 36
  left : BitVec 36
  unit : Nat
  waits : List (Nat × Nat × Nat × Nat)
  grp : Nat
  deriving DecidableEq, Repr

/-- The paths of 11 R217. -/
inductive Path where
  | ld
  | st
  | ms
  | cp
  | mx
  deriving DecidableEq, Repr

/-- The parts of one instruction that a wait counter counts; `acq` is the scope of the acquire that ends it. -/
structure Group where
  uid : Nat
  path : Path
  parts : Nat
  acq : Option Nat
  deriving DecidableEq, Repr

/-- The operations that a home slice, or an owning core, performs once (03 R56; 12 R241, R254, R255). -/
inductive TagOp where
  | amo (op : Nat)
  | fadd (bf : Bool)
  | cas
  | red (op type : Nat)
  | fld
  | fst
  | frst
  | carm
  | cdec
  | msg
  | arrival
  deriving DecidableEq, Repr

/-- What a tagged request to a core carries beside its operands (12 R242): a message, or a light context, which moves or is
new. -/
inductive Cargo where
  | none
  | message (m : Message)
  | light (l : Light) (moving : Bool)
  deriving DecidableEq, Repr

/-- A tagged request: the tag is the context's place and SEQ (03 R56); `sent` is the clk in which the requester sent it last
(03 R58). -/
structure TagReq where
  place : Nat
  uid : Nat
  seq : BitVec 16
  ack : BitVec 16
  op : TagOp
  loc : Nat
  n : Nat
  v : Reg
  c : Reg
  va : Word
  lane : Nat
  pend : Option Nat
  grp : Nat
  home : Home
  age : Nat
  launch : Nat
  sent : Nat
  cargo : Cargo
  deriving DecidableEq, Repr

/-- The tag of a request that is performed and answered at its home in one step (03 R56): the place and the context that make it, its SEQ
and ACKSEQ. -/
structure Tag where
  place : Nat
  uid : Nat
  seq : BitVec 16
  ack : BitVec 16
  deriving DecidableEq, Repr

/-- A hardware change of a rank entry (12 R241): vacant, in transit, or a new value. -/
inductive EntryOp where
  | vacate
  | transit
  | put (v : Nat)
  deriving DecidableEq, Repr

/-- A part of a read that a request makes: the bytes of an outstanding load from `off`, at a location. -/
structure ReadPart where
  pend : Nat
  off : Nat
  loc : Nat
  n : Nat
  deriving DecidableEq, Repr

/-- How the dirty bytes of a line leave an L1: a write-back, with the ownership, or as the answer to a recall (03 R54, R55). -/
inductive Leaving where
  | write
  | giveUp
  | recall
  deriving DecidableEq, Repr

/-- An agent that acts at a home without a message of its own: a context, a copy transfer, a translation walk, the agent that a message
serves, the distributor for a queue, or the host (03 R54). -/
inductive Agent where
  | ctx (uid : Nat)
  | xfer (x : Nat)
  | walk (id : Nat)
  | msg (id : Nat)
  | queue (q : Nat)
  | host
  deriving DecidableEq, Repr

/-- A message between units. `ask` is the request of an agent for a line; `marked` holds the bytes of a marked line that wait for their page (02 R46). `loc` orders messages of one source to one line (03 R53). -/
inductive Body where
  | ask (by_ : Agent) (line : Nat) (forRead : Bool)
  | lineRead (unit line : Nat)
  | prefetch (unit line : Nat)
  | lineFill (unit line : Nat) (data : LineBits) (poison : BitVec 128) (own : Option Nat)
  | read (parts : List ReadPart) (home : Home)
  | write (uid unit line : Nat) (data : LineBits) (mask poison : BitVec 128) (home : Home) (rel : Bool)
      (grp : Option Nat)
  | writeAck (uid unit line : Nat) (rel : Bool) (grp : Option Nat)
  | own (unit line tag : Nat)
  | giveUp (uid unit line : Nat) (data : LineBits) (mask poison : BitVec 128) (grp : Option Nat)
  | marked (uid unit : Nat) (l : L1Line) (pc : Word) (grp : Option Nat) (as_ : Leaving)
  | recall (unit line : Nat) (forRead : Bool)
  | recallRep (unit line : Nat) (data : LineBits) (mask poison : BitVec 128)
  | tagged (r : TagReq)
  | taggedRep (r : TagReq) (v : Reg) (status : Nat)
  | bankWrite (uid unit line : Nat) (data : LineBits) (mask poison : BitVec 128) (thru : Bool) (grp : Option Nat)
  | bankAtomic (r : TagReq)
  | coreWrite (uid unit line : Nat) (data : LineBits) (mask poison : BitVec 128) (thru : Bool) (grp : Option Nat)
  | tagFlush (unit entry : Nat) (ctxid : BitVec 48) (uid waiter : Nat)
  | tagFlushRep (uid : Nat)
  | cancel (uid : Nat)
  | lookup (uid launch : Nat) (rank : BitVec 64)
  | heldMsg (r : TagReq)
  | entry (tag : Tag) (unit l rank ctxid : Nat) (op : EntryOp)
  | transit (uid : Nat) (l : Light) (core : Nat)
  | push (uid : Nat) (target ch : Nat) (ds : List Reg)
  | tun (uid cl : Nat) (pc map : Word) (word : BitVec 32)
  | shoot (by_ : Nat) (va : Option Nat) (asid : Option Nat) (tlbs : List Nat) (upTo : Nat)
  | island (uid isl op : Nat) (lane : List Nat) (rd : Nat) (point : BitVec 4) (waitWb : Bool)
  deriving DecidableEq, Repr

/-- A message in flight, in the order of sending; `refused` counts its refusals, `due` the clk before which it may not be
sent again, `lane` the source and direction whose messages to one line keep their order, `stale` a line reply that an
acquire has overtaken (03 R53, R58; 05 R103; 12 R243). -/
structure NetMsg where
  id : Nat
  lane : Nat
  loc : Nat
  refused : Nat
  due : Nat
  lost : Bool
  stale : Bool
  body : Body
  deriving DecidableEq, Repr

/-- An owned-line directory entry (03 R54): K when `recalled`; the requests queued behind the recall. Where `held`, the line is owned by
nobody: it is the turn of an agent that acts at the home, until a clk (R53; DESIGN CHOICE, L88). -/
structure DirEnt where
  line : Nat
  owner : Nat
  recalled : Bool
  granted : Nat
  queue : List NetMsg
  held : Option (Agent × Nat) := none
  deriving DecidableEq, Repr

/-- A de-duplication entry (03 R57; 12 R242); `uid` tells apart the contexts that have stood at a place. -/
structure Dedup where
  place : Nat
  uid : Nat
  seq : BitVec 16
  done : Bool
  v : Reg
  status : Nat
  deriving DecidableEq, Repr

/-- An L2 slice (03 R49 to R51, R54, R57, R66). `stalled` holds the ownership requests that found their set full, each with
the victim whose recall it waits for, and the later requests to their lines; `deferred` the waiting future loads, oldest
first. -/
structure Slice where
  slpin : Tbl Word
  cnt : Tbl Nat
  dir : List DirEnt
  stalled : List (Nat × NetMsg)
  dedup : List Dedup
  deferred : List TagReq
  deriving DecidableEq, Repr

def Slice.reset : Slice := { slpin := [], cnt := [], dir := [], stalled := [], dedup := [], deferred := [] }

/-- A lost or poisoned line (03 R69). -/
inductive Mark where
  | clean
  | lost
  | poisoned
  deriving DecidableEq, Repr

/-- The notice of a block of a pod exchange that has been written: its unit, its address, whether the block went through the pod
window, and whether the request has been sent (04 R84). -/
structure Notice where
  unit : Nat
  va : Word
  pod : Bool
  sent : Bool
  deriving DecidableEq, Repr

/-- A copy transfer (04 R75 to R93). `units` lists the performed units; `left` the bytes it still keeps pending. -/
structure Xfer where
  uid : Nat
  id : BitVec 16
  dray : Nat
  par : CopyCsrs
  state : Nat
  code : Nat
  cause : Nat
  clips : Nat
  capped : Bool
  clq : Bool
  wside : Bool
  done : Nat
  units : List Nat
  issued : List Nat
  faultUnit : Option Nat
  faultAddr : Word
  count : Option Nat
  left : Nat
  barLoc : Nat
  held : Bool
  cancelled : Bool
  podWrite : Bool
  notice : Option Notice
  seals : List Nat
  satp : Word
  mode : Mode
  sum : Bool
  mxr : Bool
  launch : Option Nat
  allocBase : Nat
  allocSize : Nat
  cluster : Nat
  walkFault : List WalkFault
  deriving DecidableEq, Repr

structure Dray where
  queue : List Nat
  running : Option Nat
  deriving DecidableEq, Repr

def Dray.reset : Dray := { queue := [], running := none }

/-- A cluster SRAM allocation (05 R95; 17 R350, R351): a crew's, or a launch's thread allocation (`crew = none`). -/
structure Alloc where
  base : Nat
  size : Nat
  launch : Nat
  crew : Option Nat
  deriving DecidableEq, Repr

/-- A seal table entry (05 R97). `base` is a window offset. -/
structure Seal where
  base : Nat
  size : Nat
  count : Nat
  alloc : Nat
  deriving DecidableEq, Repr

/-- One crossing request (13 R266). -/
structure TunReq where
  uid : Nat
  x : Tbl Reg
  f : Tbl Reg
  fcsr : BitVec 8
  rank : Option (BitVec 32)
  seed : Word
  at_ : Nat
  deriving DecidableEq, Repr

/-- A Tun bin (17 R360): its key, its copy of the map, its requests in order of entry. -/
structure Bin where
  pc : Word
  map : Word
  launch : Option Nat
  launchNo : BitVec 14
  satp : Word
  mode : Mode
  ents : List MapEnt
  reqs : List TunReq
  frozen : Bool
  deriving DecidableEq, Repr

/-- An instruction in the predictor's queue (14 R288, R302): kind 0 `pred`, 1 `punion`, 2 `sparge`; its descriptor words,
the `pred` fields and the list counts as read at issue, the base of its allocation, and its pages in memory with the
locations that they translated to. -/
structure PredOp where
  uid : Nat
  kind : Nat
  desc : List Word
  pdesc : List Word
  counts : List (Nat × Bool)
  status : Nat
  started : Bool
  winBase : Nat
  pages : List (Nat × Nat)
  deriving DecidableEq, Repr

/-- A cluster's own state. -/
structure Cluster where
  allocs : List Alloc
  seals : List Seal
  tunctl : Word
  arbctl : Word
  clsres : Word
  bins : Tbl (Option Bin)
  gathQ : List Bin
  rankCache : List (Nat × BitVec 64 × Word)
  preds : List PredOp
  deriving DecidableEq, Repr

/-- A cluster at reset: THR 64 and TMO 2,048, WG 1 and WC 1, RES 0 (17 R355). -/
def Cluster.reset : Cluster :=
  { allocs := [], seals := [], tunctl := BitVec.ofNat 64 (64 + 2048 * 256), arbctl := 0x11#64, clsres := 0, bins := [],
    gathQ := [], rankCache := [], preds := [] }

/-- A scalar core's shared state (05 R100; 12 R242, R243, R247, R254, R256; 06 R119; 15 R314). The queue, the spill ring with its
arrivals and the ready ring are the contents of the system region of R100, which no access reaches: their bytes are not kept apart
(DEDUCED, L68). `busy` is the clk from which the issue slot is free of the last owner atomic (12 R257), and `since` tells how long the oldest waits for its turn
(17 R356). -/
structure Core where
  inq : List Message
  arrivals : List Light
  ring : List Codelet
  armed : Nat
  msgId : BitVec 16
  alt : Bool
  shbud : BitVec 32
  owners : List TagReq
  busy : Nat
  since : Nat
  dedup : List Dedup
  recalls : List (Nat × Bool)
  deriving DecidableEq, Repr

def Core.reset : Core :=
  { inq := [], arrivals := [], ring := [], armed := 0, msgId := 0, alt := false, shbud := 0, owners := [], busy := 0, since := 0, dedup := [],
    recalls := [] }

/-- The tag of an accumulator slot (14 R285). -/
inductive SlotTag where
  | none
  | fp32
  | int32
  | pair
  deriving DecidableEq, Repr

/-- An accumulator slot: element (i, j) at 128 i + j, with its poison bit (07 R127, R128); `linked` from a hand-over by `mlink`
until the holder's next instruction on the slot, which acquires (14 R299). -/
structure Slot where
  holder : Option Nat
  tag : SlotTag
  linked : Bool
  elems : Tbl (BitVec 32 × Bool)
  deriving DecidableEq, Repr

def Slot.free : Slot := { holder := none, tag := .none, linked := false, elems := [] }

/-- What an instruction in a matrix unit's queue does (14 R288 to R291): the operands, and the vectors, as read at
issue. -/
inductive MxWork where
  | mma (sp : Bool) (a b : List Word) (idx : Option (List Int)) (lab : Option (List Int)) (meta_ : List Nat)
  | mzero
  | epi (d : List Word) (seed satp : Word) (mode : Mode) (sum : Bool)
  | mlink (target : Nat)
  | msave (va : Word) (pages : List (Nat × Nat))
  | mrest (va : Word) (pages : List (Nat × Nat))
  deriving DecidableEq, Repr

/-- An instruction in a matrix unit's queue: its slot (the even one of a pair), the tag that the slot has for it, and how
far it is (14 R289, R290): started on its path, its writes made. -/
structure MxOp where
  uid : Nat
  slot : Nat
  tag : SlotTag
  work : MxWork
  started : Bool
  written : Bool
  winBase : Nat
  deriving DecidableEq, Repr

/-- A SIMT engine's shared state: its matrix unit and its arbiter (14 R285, R288; 17 R359). -/
structure Engine where
  slots : Tbl Slot
  queue : List MxOp
  passG : Nat
  passC : Nat
  deriving DecidableEq, Repr

def Engine.reset : Engine := { slots := [], queue := [], passG := 0, passC := 0 }

/-- A command queue (17 R343). -/
structure CmdQueue where
  base : Word
  ctl : Word
  head : BitVec 32
  tail : BitVec 32
  deriving DecidableEq, Repr

def CmdQueue.reset : CmdQueue := { base := 0, ctl := 0, head := 0, tail := 0 }

/-- A packet that the distributor holds at the head of its queue, or an admitted launch (17 R345 to R350). `vacated` counts the ranks that
its completion has made vacant; `cancelled` is the supervisor's cancel of a packet (R346). -/
structure Launch where
  queue : Nat
  index : BitVec 32
  words : List Word
  admitted : Bool
  marker : Bool
  number : BitVec 14
  rtBase : Word
  rtCount : Nat
  crewsPlaced : Nat
  lastClu : Nat
  threadsPlaced : Nat
  order : Nat
  saved : Bool
  savedAt : Nat
  floorEnd : Option Nat
  vacated : Nat
  cancelled : Bool
  deriving DecidableEq, Repr

/-- An island (15 R325; 20 R404): its operating point, whether it is gated, and its own clock, `base` at package clk `start`. -/
structure Island where
  point : BitVec 4
  gated : Bool
  base : Nat
  start : Nat
  deriving DecidableEq, Repr

def Island.reset : Island := { point := 15, gated := false, base := 0, start := 0 }

/-- A die's reduction window (03 R59). -/
structure DieRegs where
  rwbase : Word
  rwsize : Word
  deriving DecidableEq, Repr

def DieRegs.reset : DieRegs := { rwbase := 0, rwsize := 0 }

/-- The package's management state (20 R398 to R405; 19 R392 to R396). `mcWait` holds the machine-check
records that wait for their line, `hostFails` says that the host port answers the next signal with an error (17 R347). `moving` holds
the units that are being retired, and whether a spare takes their work; `tested` and `usedAt` the clk of a unit's last self-test and of
its last use (20 R402), `allTested` that of the last start's test of every built unit (20 R401); `bootAt` the clk at which the start that goes on began (20 R405). -/
structure Mgmt where
  bootst : Word
  mcbase : Word
  mcctl : Word
  mchead : Word
  mctail : Word
  spbase : Word
  spsize : Word
  podcfg : Word
  mcSeq : BitVec 32
  mcWait : List Nat
  badBytes : List (Nat × Nat)
  msixMask : List Nat
  msixSent : List Nat
  portsDown : List Nat
  linkState : Tbl Nat
  errors : Tbl Nat
  samples : Tbl Nat
  sampleAt : Nat
  testDue : List Nat
  retired : List Nat
  moving : Tbl Bool
  tested : Tbl Nat
  usedAt : Tbl Nat
  allTested : Nat
  bootAt : Option Nat
  spares : Tbl Nat
  failedHomes : List Nat
  cxl : Bool
  hostFails : Bool
  deriving DecidableEq, Repr

def Mgmt.reset : Mgmt :=
  { bootst := 0, mcbase := 0, mcctl := 0, mchead := 0, mctail := 0, spbase := 0, spsize := 0, podcfg := 0, mcSeq := 0, mcWait := [],
    badBytes := [], msixMask := [], msixSent := [], portsDown := [], linkState := [], errors := [], samples := [],
    sampleAt := 0, testDue := [], retired := [], moving := [], tested := [], usedAt := [], allTested := 0, bootAt := some 0, spares := [], failedHomes := [], cxl := false,
    hostFails := false }

/-- A turn of the agenda: a context issues, a unit issues the context that it chooses, an event of the device happens, or time
passes (L3). -/
inductive Turn where
  | run (p : Place)
  | unit (u : Nat)
  | event (i : Instr)
  | wait (n : Nat)
  deriving DecidableEq, Repr

/-- What the host asks of its port: a read, a posted write, or an AtomicOp by number (0 FetchAdd, 1 Swap, 2 CAS; 19 R387). -/
inductive HostOp where
  | read
  | write (v : HostData)
  | atomic (op : Nat) (v c : Word)
  deriving DecidableEq, Repr

structure HostReq where
  addr : Nat
  size : Nat
  op : HostOp
  deriving DecidableEq, Repr

/-- What the port sends to the host: the bytes of a read or the old value of an AtomicOp, each with CXL poison or not; an unsupported
request; the answer to a snoop of a line, poisoned where its modified bytes are lost (19 R388, R393). -/
inductive HostAns where
  | data (bs : List (Nat × Bool))
  | unsupported
  | snooped (line : Nat) (poison : Bool)
  deriving DecidableEq, Repr

/-- The host port (19 R387 to R393): requests that are not yet performed, oldest first; what it has sent to the host; and the lines of the
host memory window whose modified bytes an L1 that failed has lost without a write-back. -/
structure HostPort where
  queue : List HostReq
  sent : List HostAns
  lost : List Nat
  deriving DecidableEq, Repr

def HostPort.reset : HostPort := { queue := [], sent := [], lost := [] }

/-- The whole package. `trapCsrs` holds, by place, the trap registers that firmware and the supervisor have left there for the next context
(15 R313 to R318; 25 R430; 26 R438); `areaWait` what has been delivered to saved contexts and waits for the lines of their areas
(18 R374; 03 R54). -/
structure State where
  cur : Place
  agenda : List Turn
  clk : Nat
  fresh : Nat
  nextId : Nat
  dies : Nat
  idCount : BitVec 46
  launchNo : BitVec 14
  mem : List Host.Cell
  memPoison : Tbl Bool
  fullBits : Tbl Bool
  marks : Tbl Mark
  ctxs : Tbl Ctx
  saved : Tbl Ctx
  trapCsrs : Tbl Csrs
  areaWait : List (Nat × Option (Nat × Reg))
  l1d : Tbl (List L1Line)
  l1i : Tbl (Tbl LineBits)
  tags : Tbl (List TagEnt)
  storeQ : Tbl (List SqEnt)
  tlbs : Tbl (List TlbEnt)
  walkCache : Tbl (List (Nat × Nat))
  walkQ : Tbl (List Walk)
  walkRr : Tbl Nat
  walks : List Walk
  walkFaults : List (Nat × WalkFault)
  pends : Tbl (Option Pend)
  groups : Tbl (Option Group)
  net : List NetMsg
  slices : Tbl Slice
  dieRegs : Tbl DieRegs
  clusters : Tbl Cluster
  cores : Tbl Core
  engines : Tbl Engine
  drays : Tbl Dray
  xfers : Tbl (Option Xfer)
  queues : Tbl CmdQueue
  launches : Tbl (Option Launch)
  queueRr : Nat
  islands : Tbl Island
  port : HostPort
  mgmt : Mgmt
  deriving DecidableEq, Repr

/-- The package right after reset: no context is resident, every cache, queue and table is empty, and every register
holds the value of INVENTORY.md. -/
def State.reset : State :=
  { cur := { die := 0, clu := 0, unit := 0, slot := 0 }, agenda := [], clk := 0, fresh := 0, nextId := 1, dies := 4,
    idCount := 1, launchNo := 0, mem := [], memPoison := [], fullBits := [], marks := [], ctxs := [], saved := [], trapCsrs := [], areaWait := [],
    l1d := [], l1i := [], tags := [], storeQ := [], tlbs := [], walkCache := [], walkQ := [], walkRr := [], walks := [],
    walkFaults := [], pends := [], groups := [], net := [], slices := [], dieRegs := [], clusters := [], cores := [], engines := [],
    drays := [], xfers := [], queues := [], launches := [], queueRr := 0, islands := [], port := HostPort.reset,
    mgmt := Mgmt.reset }

/-- The reasons a step stops with a fault. -/
inductive Fault where
  /-- Raised by `step` when the place it must run holds no context: nothing issues there (17 R352). Safe: nothing is
  claimed of a machine with no work. -/
  | noContext
  deriving DecidableEq, Repr

/-- The reasons a step has no meaning in the model. -/
inductive Refusal where
  /-- Raised by `exec` for an instruction that is not modelled yet. Safe: nothing is claimed of it. -/
  | notModelled (mnemonic : String)
  deriving DecidableEq, Repr

end Sys2Proof.Machine
end

