-- ==== Sys2Proof/Machine/Operands.lean ====
section
/-! DEFINITION. Operand forms: the register files of a lane, the immediates of the formats, and the integer operations of
10 R195 to R199. -/
namespace Sys2Proof.Machine

/-- An x register of a lane; x0 reads 0 and is never poisoned (07 R125, R128). -/
def Lane.rx (l : Lane) (r : Nat) : Reg := if r = 0 then Reg.zero else Tbl.get Reg.zero l.x r

/-- Write an x register; a write to x0 is discarded (00 R9). -/
def Lane.wx (l : Lane) (r : Nat) (v : Reg) : Lane := if r = 0 then l else { l with x := Tbl.set Reg.zero l.x r v }

def Lane.rf (l : Lane) (r : Nat) : Reg := Tbl.get Reg.zero l.f r

def Lane.wf (l : Lane) (r : Nat) (v : Reg) : Lane := { l with f := Tbl.set Reg.zero l.f r v }

/-- A result computed from sources: poisoned when any source is (07 R129). -/
def Reg.of (v : Word) (p : Bool) : Reg := { v := v, p := p }

def sext {n : Nat} (v : BitVec n) : Word := v.signExtend 64
def zext {n : Nat} (v : BitVec n) : Word := v.setWidth 64

/-- A "W" result: the low 32 bits, sign-extended (10 R194). -/
def wResult (v : Word) : Word := sext (bits 0 32 v)

/-- The offset of a B-type word, from its fields [31:25] and [11:7]. -/
def branchOff (j : BitVec 7) (k : BitVec 5) : Word :=
  sext (bits 6 1 j ++ bits 0 1 k ++ bits 0 6 j ++ bits 1 4 k ++ 0#1)

/-- The offset of a J-type word, from its field [31:12]. -/
def jumpOff (i : BitVec 20) : Word := sext (bits 19 1 i ++ bits 0 8 i ++ bits 8 1 i ++ bits 9 10 i ++ 0#1)

/-- The offset of an S-type word, from its fields [31:25] and [11:7]. -/
def storeOff (j : BitVec 7) (k : BitVec 5) : Word := sext (j ++ k)

/-- The value of a U-type immediate. -/
def upperImm (i : BitVec 20) : Word := sext (i ++ 0#12)

def boolWord (b : Bool) : Word := if b then 1 else 0

/-- The integer operations of OP and OP-IMM by funct3 (10 R195). -/
def aluOp (f : BitVec 3) (a b : Word) : Word :=
  match f.toNat with
  | 0 => a + b
  | 1 => a <<< (b.toNat % 64)
  | 2 => boolWord (a.slt b)
  | 3 => boolWord (a.ult b)
  | 4 => a ^^^ b
  | 5 => a >>> (b.toNat % 64)
  | 6 => a ||| b
  | _ => a &&& b

def sraOp (a b : Word) : Word := a.sshiftRight (b.toNat % 64)

def lo32 (v : Word) : BitVec 32 := bits 0 32 v

def sllwOp (a b : Word) : Word := sext (lo32 a <<< (b.toNat % 32))
def srlwOp (a b : Word) : Word := sext (lo32 a >>> (b.toNat % 32))
def srawOp (a b : Word) : Word := sext ((lo32 a).sshiftRight (b.toNat % 32))

/-- The operations of OP-32 with funct7 0 (10 R195). -/
def aluOpW (f : BitVec 3) (a b : Word) : Word :=
  match f.toNat with
  | 0 => wResult (a + b)
  | 1 => sllwOp a b
  | _ => srlwOp a b

/-- The branch conditions by funct3 (10 R195). -/
def branchTaken (f : BitVec 3) (a b : Word) : Bool :=
  match f.toNat with
  | 0 => a == b
  | 1 => a != b
  | 4 => a.slt b
  | 5 => !a.slt b
  | 6 => a.ult b
  | _ => !a.ult b

/-- The high or low half of a 128-bit product (10 R197). -/
def mulOp (f : BitVec 2) (a b : Word) : Word :=
  match f.toNat with
  | 0 => a * b
  | 1 => BitVec.ofInt 64 (a.toInt * b.toInt / 2 ^ 64)
  | 2 => BitVec.ofInt 64 (a.toInt * (b.toNat : Int) / 2 ^ 64)
  | _ => BitVec.ofNat 64 (a.toNat * b.toNat / 2 ^ 64)

/-- Division with the results of 10 R198, over `n`-bit operands: 0 signed quotient, 1 unsigned quotient, 2 signed
remainder, 3 unsigned remainder. -/
def divOp {n : Nat} (f : BitVec 2) (a b : BitVec n) : BitVec n :=
  match f.toNat with
  | 0 => if b.toNat = 0 then BitVec.allOnes n else BitVec.ofInt n (a.toInt.tdiv b.toInt)
  | 1 => if b.toNat = 0 then BitVec.allOnes n else BitVec.ofNat n (a.toNat / b.toNat)
  | 2 => if b.toNat = 0 then a else BitVec.ofInt n (a.toInt.tmod b.toInt)
  | _ => if b.toNat = 0 then a else BitVec.ofNat n (a.toNat % b.toNat)

def minMaxOp (f : BitVec 2) (a b : Word) : Word :=
  match f.toNat with
  | 0 => if a.slt b then a else b
  | 1 => if a.ult b then a else b
  | 2 => if a.slt b then b else a
  | _ => if a.ult b then b else a

def logicNotOp (f : BitVec 3) (a b : Word) : Word :=
  match f.toNat with
  | 7 => a &&& ~~~b
  | 6 => a ||| ~~~b
  | _ => ~~~(a ^^^ b)

def rotOp {n : Nat} (right : Bool) (a : BitVec n) (k : Nat) : BitVec n :=
  if right then a.rotateRight k else a.rotateLeft k

/-- The number of leading zeros of an `n`-bit value. -/
def leadingZeros {n : Nat} (v : BitVec n) : Nat := n - bitLen v.toNat

def trailingFrom {n : Nat} (v : BitVec n) : Nat → Nat → Nat
  | 0, i => i
  | fuel + 1, i => if v.getLsbD i then i else trailingFrom v fuel (i + 1)

/-- The number of trailing zeros; the width where no bit is set. -/
def trailingZeros {n : Nat} (v : BitVec n) : Nat := trailingFrom v n 0

def popCount {n : Nat} (v : BitVec n) : Nat := (List.range n).foldl (fun c i => if v.getLsbD i then c + 1 else c) 0

/-- clz, ctz, cpop, sext.b and sext.h by their selector (10 R199). -/
def countOp (f : BitVec 3) (a : Word) : Word :=
  match f.toNat with
  | 0 => BitVec.ofNat 64 (leadingZeros a)
  | 1 => BitVec.ofNat 64 (trailingZeros a)
  | 2 => BitVec.ofNat 64 (popCount a)
  | 4 => sext (bits 0 8 a)
  | _ => sext (bits 0 16 a)

def countOpW (f : BitVec 3) (a : Word) : Word :=
  match f.toNat with
  | 0 => BitVec.ofNat 64 (leadingZeros (lo32 a))
  | 1 => BitVec.ofNat 64 (trailingZeros (lo32 a))
  | _ => BitVec.ofNat 64 (popCount (lo32 a))

/-- The bytes of a value, lowest first. -/
def bytesOf (n : Nat) (v : Nat) : List Nat := (List.range n).map fun i => v / 256 ^ i % 256

/-- The value of bytes, lowest first (00 R5). -/
def ofBytes (bs : List Nat) : Nat := bs.foldr (fun b acc => b + 256 * acc) 0

def orcB (a : Word) : Word := BitVec.ofNat 64 (ofBytes ((bytesOf 8 a.toNat).map fun b => if b = 0 then 0 else 255))
def rev8 (a : Word) : Word := BitVec.ofNat 64 (ofBytes (bytesOf 8 a.toNat).reverse)

/-- The value of a load of `n` bytes in an x register. -/
def extendLoad (signed : Bool) (n : Nat) (v : Nat) : Word :=
  if signed then
    match n with
    | 1 => sext (BitVec.ofNat 8 v)
    | 2 => sext (BitVec.ofNat 16 v)
    | 4 => sext (BitVec.ofNat 32 v)
    | _ => BitVec.ofNat 64 v
  else BitVec.ofNat 64 (v % 256 ^ n)

/-- The size and sign of a base load by funct3 (10 R195). -/
def loadSize (f : BitVec 3) : Nat × Bool := (2 ^ (f.toNat % 4), f.toNat < 4)

/-- The modification of an integer atomic (11 R224): on `n`-bit values. -/
def amoOp {n : Nat} (o : Nat) (old v : BitVec n) : BitVec n :=
  match o with
  | 0 => old + v
  | 1 => old &&& v
  | 2 => old ||| v
  | 3 => old ^^^ v
  | 4 => if old.slt v then old else v
  | 5 => if old.slt v then v else old
  | 6 => if old.ult v then old else v
  | 7 => if old.ult v then v else old
  | _ => v

end Sys2Proof.Machine
end

