-- ==== Sys2Proof/Machine/Geometry.lean ====
section
/-! DEFINITION. The ray tests of 13 R277 to R279, over exact values. -/
namespace Sys2Proof.Machine

/-- The order of FP32 codes that are not NaN, with −0 below +0. -/
def fpKey (c : Nat) : Int := if c ≥ 2 ^ 31 then -((c - 2 ^ 31 : Nat) : Int) - 1 else c

def fpInf : Nat := 0x7F800000
def fpNegInf : Nat := 0xFF800000

def isNan32 (c : Nat) : Bool := (decodeFp fp32 c).isNan
def isInf32 (c : Nat) : Bool := (decodeFp fp32 c).isInf
def isZero32 (c : Nat) : Bool := c % 2 ^ 31 = 0

def fpMin (a b : Nat) : Nat := if fpKey b < fpKey a then b else a
def fpMax (a b : Nat) : Nat := if fpKey a < fpKey b then b else a

/-- RNE((b − o) / d, FP32) of exact values, where o and d are finite and d ≠ 0; an exact zero gives +0. -/
def slab (b o d : Nat) : Nat :=
  match decodeFp fp32 b, decodeFp fp32 o, decodeFp fp32 d with
  | .inf s, _, .fin sd _ _ => if s != sd then fpNegInf else fpInf
  | .fin sb mb eb, .fin so mo eo, .fin sd md ed =>
    let (m, e) := addExact (signed sb mb) eb (signed (!so) mo) eo
    if m = 0 then 0 else (roundFp fp32 .rne ((m < 0) != sd) m.natAbs md (e - ed)).1
  | _, _, _ => fp32.nan

/-- The near and far distances of one axis; an axis with lo > hi lets nothing hit, as the text of R278 says beside its pseudocode (DEDUCED,
L62). -/
def boxAxis (o d lo hi : Nat) : Nat × Nat :=
  let miss := (fpInf, fpNegInf)
  if fpKey hi < fpKey lo then miss
  else if isZero32 d then
    if fpKey lo ≤ fpKey o && fpKey o ≤ fpKey hi then (fpNegInf, fpInf) else miss
  else
    let u := slab lo o d
    let v := slab hi o d
    (fpMin u v, fpMax u v)

/-- The entry distance of `bxt` as an FP32 code (13 R278): `r` holds the seven ray values, `b` the six box values. -/
def boxTest (r b : List Nat) : Nat :=
  let g := fun (l : List Nat) i => l.getD i 0
  if r.any isNan32 || b.any isNan32 || (r.take 6).any isInf32 then fpInf
  else
    let x := boxAxis (g r 0) (g r 3) (g b 0) (g b 3)
    let y := boxAxis (g r 1) (g r 4) (g b 1) (g b 4)
    let z := boxAxis (g r 2) (g r 5) (g b 2) (g b 5)
    let tn := fpMax (fpMax (fpMax x.1 y.1) z.1) 0
    let tf := fpMin (fpMin (fpMin x.2 y.2) z.2) (g r 6)
    if fpKey tn ≤ fpKey tf then tn else fpInf

/-- A finite FP32 code as an integer multiple of 2^-149. -/
def fpInt (c : Nat) : Int :=
  match decodeFp fp32 c with
  | .fin s m e => signed s (m * pow2 (e + 149))
  | _ => 0

structure V3 where
  x : Int
  y : Int
  z : Int
  deriving DecidableEq, Repr

def V3.sub (a b : V3) : V3 := { x := a.x - b.x, y := a.y - b.y, z := a.z - b.z }
def V3.dot (a b : V3) : Int := a.x * b.x + a.y * b.y + a.z * b.z
def V3.cross (a b : V3) : V3 :=
  { x := a.y * b.z - a.z * b.y, y := a.z * b.x - a.x * b.z, z := a.x * b.y - a.y * b.x }

def vec (l : List Nat) (i : Nat) : V3 :=
  { x := fpInt (l.getD i 0), y := fpInt (l.getD (i + 1) 0), z := fpInt (l.getD (i + 2) 0) }

/-- RNE(p / q, FP32) of integers with q > 0; an exact zero gives +0. -/
def ratio32 (p q : Int) : Nat := if p = 0 then 0 else (roundFp fp32 .rne (p < 0) p.natAbs q.natAbs 0).1

/-- The three results of `trt` as FP32 codes (13 R279): `r` holds the seven ray values, `v` the nine vertex values. -/
def triTest (r v : List Nat) : Nat × Nat × Nat :=
  let miss := (fpInf, 0, 0)
  let tm := r.getD 6 0
  if r.any isNan32 || v.any isNan32 || (r.take 6).any isInf32 || v.any isInf32 then miss
  else
    let d := vec r 3
    let e1 := (vec v 3).sub (vec v 0)
    let e2 := (vec v 6).sub (vec v 0)
    let s := (vec r 0).sub (vec v 0)
    let n := e1.cross e2
    let den := d.dot n
    if den = 0 then miss
    else
      let sg : Int := if den < 0 then -1 else 1
      let q := sg * den
      let t := -(sg * s.dot n)
      let b1 := -(sg * s.dot (d.cross e2))
      let b2 := sg * s.dot (d.cross e1)
      let inRange :=
        match decodeFp fp32 tm with
        | .inf sgn => !sgn
        | .fin sgn m e => !sgn && t * 2 ^ 149 ≤ (m * pow2 (e + 149) : Nat) * q
        | .nan _ => false
      if 0 ≤ b1 && 0 ≤ b2 && b1 + b2 ≤ q && 0 ≤ t && inRange then (ratio32 t q, ratio32 b1 q, ratio32 b2 q) else miss

/-- The FP32 words of loaded bytes. -/
def wordsOf (n v : Nat) : List Nat := (List.range n).map fun i => v / 2 ^ (32 * i) % 2 ^ 32

/-- The result registers of `bxt`; a poisoned ray register or primitive byte poisons them all (13 R277). -/
def boxResult (ray : List Reg) (v : Nat) (p : Bool) : List Reg :=
  let bad := p || ray.any (·.p)
  [{ v := nanBox (boxTest (ray.map fun r => unbox r.v) (wordsOf 6 v)), p := bad }]

def triResult (ray : List Reg) (v : Nat) (p : Bool) : List Reg :=
  let bad := p || ray.any (·.p)
  let t := triTest (ray.map fun r => unbox r.v) (wordsOf 9 v)
  [{ v := nanBox t.1, p := bad }, { v := nanBox t.2.1, p := bad }, { v := nanBox t.2.2, p := bad }]

end Sys2Proof.Machine
end

