-- ==== Sys2Proof/Machine/Flags.lean ====
section
/-! DEFINITION. Floating-point status: `fcsr` and its parts, the rounding mode of an instruction, the accrued flags
(07 R125; 08 R160). -/
namespace Sys2Proof.Machine

/-- `frm` is `fcsr`[7:5], `fflags` is `fcsr`[4:0] (the standard layout). -/
def Lane.frm (l : Lane) : Nat := (bits 5 3 l.fcsr).toNat

def Lane.fflags (l : Lane) : Nat := (bits 0 5 l.fcsr).toNat

/-- Accrue flags. A helper lane's instruction has no effect on `fflags` (07 R126), and one with a poisoned source
leaves them unchanged (R129). -/
def Lane.accrue (l : Lane) (poisoned : Bool) (fl : FFlags) : Lane :=
  if l.helper || poisoned then l else { l with fcsr := l.fcsr ||| BitVec.ofNat 8 (fl % 32) }

/-- The rounding mode of a code 0 to 4. -/
def rndOf (r : Nat) : Rnd :=
  match r with
  | 0 => .rne
  | 1 => .rtz
  | 2 => .rdn
  | 3 => .rup
  | _ => .rmm

/-- The mode that an rm field names in a lane: 7 takes `frm` (08 R160). -/
def Lane.rmCode (l : Lane) (r : BitVec 3) : Nat := if r = 7#3 then l.frm else r.toNat

/-- The rm field is legal in a lane (08 R160). -/
def Lane.rmOk (l : Lane) (r : BitVec 3) : Bool := l.rmCode r ≤ 4

def Lane.rnd (l : Lane) (r : BitVec 3) : Rnd := rndOf (l.rmCode r)

end Sys2Proof.Machine
end

