-- ==== Sys2Proof/Machine/Ctx.lean ====
section
/-! DEFINITION. Contexts and their lanes: access by place, the lanes of an issue (17 R358), numbering of messages and
loads, the wait counters (11 R217), memory bytes, and machine-check records (20 R399). -/
namespace Sys2Proof.Machine

/-- `n` numbers from `lo` up. -/
def span (lo n : Nat) : List Nat := (List.range n).map (lo + ·)

/-- The context at a place. -/
def State.ctx (s : State) (k : Nat) : Ctx := Tbl.get Ctx.vacant s.ctxs k

def State.setCtx (s : State) (k : Nat) (c : Ctx) : State := { s with ctxs := Tbl.set Ctx.vacant s.ctxs k c }

def State.modCtx (s : State) (k : Nat) (f : Ctx → Ctx) : State := s.setCtx k (f (s.ctx k))

def Ctx.lane (c : Ctx) (l : Nat) : Lane := Tbl.get Lane.idle c.lanes l

def Ctx.setLane (c : Ctx) (l : Nat) (v : Lane) : Ctx := { c with lanes := Tbl.set Lane.idle c.lanes l v }

def Ctx.modLane (c : Ctx) (l : Nat) (f : Lane → Lane) : Ctx := c.setLane l (f (c.lane l))

/-- Apply a function to each of some lanes. -/
def Ctx.modLanes (c : Ctx) (ls : List Nat) (f : Nat → Lane → Lane) : Ctx := ls.foldl (fun c l => c.modLane l (f l)) c

/-- Apply a function to every lane. -/
def Ctx.mapLanes (c : Ctx) (f : Nat → Lane → Lane) : Ctx := { c with lanes := List.map (fun e => (e.1, f e.1 e.2)) c.lanes }

/-- A place key names a wave slot. -/
def isWave (k : Nat) : Bool := 64 ≤ k / 32 % 128

/-- The unit of a place key, and its die, cluster and engine. -/
def unitOf (k : Nat) : Nat := k / 32
def dieOf (k : Nat) : Nat := k / 65536
def clusterOf (k : Nat) : Nat := k / 4096
def dieOfUnit (u : Nat) : Nat := u / 2048
def clusterOfUnit (u : Nat) : Nat := u / 128
def isHandler (k : Nat) : Bool := !isWave k && k % 32 == 4

/-- The places of a unit. -/
def unitPlaces (u : Nat) : List Nat := (List.range 16).map (u * 32 + ·)

/-- The lanes that are runnable (17 R358). -/
def Ctx.runnable (c : Ctx) : List Nat := ((c.lanes.filter fun e => e.2.st == .runnable).map (·.1)).dedup

/-- The runnable lanes of the half that issues: a ganged pair issues one half at a time, in turn (17 R363). -/
def Ctx.candidates (c : Ctx) : List Nat :=
  let r := c.runnable
  if c.ganged then
    let lo := r.filter (· < 32)
    let hi := r.filter (32 ≤ ·)
    if lo.isEmpty then hi else if hi.isEmpty then lo else if c.half then hi else lo
  else r

/-- The smallest PC among some lanes. -/
def Ctx.minPc (c : Ctx) : List Nat → Nat
  | [] => 0
  | [l] => (c.lane l).pc.toNat
  | l :: ls => min (c.lane l).pc.toNat (c.minPc ls)

/-- The executing lanes of the next issue: those at the smallest PC (17 R358). -/
def Ctx.executing (c : Ctx) : List Nat :=
  let r := c.candidates
  let p := c.minPc r
  r.filter fun l => (c.lane l).pc.toNat == p

/-- The PC of the next issue. -/
def Ctx.nextPc (c : Ctx) : Word := BitVec.ofNat 64 (c.minPc c.candidates)

/-- The executing lanes that are not helpers. -/
def Ctx.workers (c : Ctx) (ls : List Nat) : List Nat := ls.filter fun l => !(c.lane l).helper

/-- The lowest-numbered executing lane that is not a helper lane (11 R449). -/
def Ctx.lead (c : Ctx) (ls : List Nat) : Option Nat := (c.workers ls).head?

/-- A value read by the lead lane. -/
def Ctx.leadX (c : Ctx) (ls : List Nat) (r : Nat) : Reg :=
  match c.lead ls with
  | some l => (c.lane l).rx r
  | none => Reg.zero

/-- Write one value to a register of each of some lanes. -/
def Ctx.writeAll (c : Ctx) (ls : List Nat) (r : Nat) (v : Reg) : Ctx := c.modLanes ls fun _ ln => ln.wx r v

/-- The fault mask of some lanes; a scalar context records 0 (15 R314). -/
def laneMask (k : Nat) (ls : List Nat) : Word :=
  if isWave k then ls.foldl (fun m l => m ||| (1#64 <<< l)) 0 else 0

/-- The instruction retires: the executing lanes go to PC + 4, and `instret` rises (10 R209). -/
def Ctx.retire (c : Ctx) (ls : List Nat) : Ctx :=
  let c := c.modLanes ls fun _ ln => { ln with pc := ln.pc + 4 }
  { c with phase := 0, walkFault := [], look := [], csr := { c.csr with instret := c.csr.instret + 1 } }

/-- The instruction retires with the lanes' PCs already set. -/
def Ctx.retireAt (c : Ctx) : Ctx := { c with phase := 0, walkFault := [], look := [], csr := { c.csr with instret := c.csr.instret + 1 } }

/-- An instruction has gone forward: its context has retired it, trapped, or come to its next phase. One that stalls has not issued, and
its set is not ready (17 R356). -/
def Ctx.moved (c d : Ctx) : Bool :=
  d.status != c.status || d.uid != c.uid || d.csr.instret != c.csr.instret || d.depth != c.depth || d.phase != c.phase
    || d.inUser != c.inUser || d.nextPc != c.nextPc

def State.retire (s : State) (k : Nat) (ls : List Nat) : State := s.modCtx k fun c => c.retire ls

/-- A new number for a message, load, context or transfer. -/
def State.newId (s : State) : State × Nat := ({ s with nextId := s.nextId + 1 }, s.nextId)

/-- A number that the spec leaves open, and the state after the draw. -/
def State.draw (s : State) : State × Nat := ({ s with fresh := s.fresh + 1 }, s.fresh)

/-- Send a message; `lane` names its source and direction. -/
def State.send (s : State) (lane loc : Nat) (b : Body) : State :=
  let m : NetMsg := { id := s.nextId, lane := lane, loc := loc, refused := 0, due := 0, lost := false,
                      stale := false, body := b }
  { s with nextId := s.nextId + 1, net := s.net ++ [m] }

def State.msg (s : State) (id : Nat) : Option NetMsg := s.net.find? fun m => m.id == id

def State.dropMsg (s : State) (id : Nat) : State := { s with net := s.net.filter fun m => m.id != id }

def State.setMsg (s : State) (m : NetMsg) : State := { s with net := s.net.map fun n => if n.id == m.id then m else n }

/-- The direction lanes of a unit: to its homes, and from them. -/
def laneOut (u : Nat) : Nat := 2 * u
def laneIn (u : Nat) : Nat := 2 * u + 1

/-- The host as an owner of lines, beside the units (19 R393). -/
def hostUnit : Nat := 2 ^ 15

/-- Messages that come before a given one. -/
def netBefore (id : Nat) : List NetMsg → List NetMsg
  | [] => []
  | m :: ms => if m.id == id then [] else m :: netBefore id ms

/-- The bank of a byte of a cluster's SRAM (05 R94). -/
def bankOf (o : Nat) : Nat := (o / 2 ^ 7 % 32) ^^^ (o / 2 ^ 12 % 16)

/-- What the messages of one source keep their order to: a bank of a cluster SRAM (05 R94), or a line (03 R53). -/
def orderKey (loc : Nat) : Nat :=
  if 2 ^ 52 ≤ loc && loc < 2 ^ 53 then 2 ^ 60 + (loc - 2 ^ 52) / 2 ^ 23 * 32 + bankOf ((loc - 2 ^ 52) % 2 ^ 23) else loc / 128

/-- The context, resident or saved, that carries a number. -/
def State.keyOf (s : State) (uid : Nat) : Option Nat :=
  (s.ctxs.find? fun e => e.2.uid == uid && e.2.status != .vacant).map (·.1)

def State.areaOf (s : State) (uid : Nat) : Option Nat :=
  (s.saved.find? fun e => e.2.uid == uid && e.2.status != .vacant).map (·.1)

def State.setSaved (s : State) (a : Nat) (c : Ctx) : State := { s with saved := Tbl.set Ctx.vacant s.saved a c }

/-- A machine check is pending for a context: a second one that comes before it is taken is noted (18 R377). -/
def Ctx.raiseCheck (c : Ctx) (seq : BitVec 32) : Ctx :=
  if c.mcPend.isSome then { c with mcTwice := true } else { c with mcPend := some seq }

/-- Change the context that carries a number, wherever it stands. -/
def State.modUid (s : State) (uid : Nat) (f : Ctx → Ctx) : State :=
  match s.keyOf uid with
  | some k => s.modCtx k f
  | none =>
    match s.areaOf uid with
    | some a => s.setSaved a (f (Tbl.get Ctx.vacant s.saved a))
    | none => s

def State.byUid (s : State) (uid : Nat) : Option Ctx :=
  match s.keyOf uid with
  | some k => some (s.ctx k)
  | none => (s.areaOf uid).map fun a => Tbl.get Ctx.vacant s.saved a

def Counters.get (c : Counters) : Path → Nat
  | .ld => c.ld
  | .st => c.st
  | .ms => c.ms
  | .cp => c.cp
  | .mx => c.mx

def Counters.put (c : Counters) (p : Path) (n : Nat) : Counters :=
  match p with
  | .ld => { c with ld := n }
  | .st => { c with st := n }
  | .ms => { c with ms := n }
  | .cp => { c with cp := n }
  | .mx => { c with mx := n }

/-- Add to a wait counter. -/
def Ctx.count (c : Ctx) (p : Path) : Ctx := { c with cnt := c.cnt.put p (c.cnt.get p + 1) }

def Ctx.uncount (c : Ctx) (p : Path) : Ctx := { c with cnt := c.cnt.put p (c.cnt.get p - 1) }

/-- An issue that would take the counter past 255 stalls (11 R217). -/
def Ctx.counterFull (c : Ctx) (p : Path) : Bool := 255 ≤ c.cnt.get p

def State.group (s : State) (g : Nat) : Option Group := Tbl.get none s.groups g

def State.setGroup (s : State) (g : Nat) (v : Option Group) : State := { s with groups := Tbl.set none s.groups g v }

/-- Start a counted operation of a context: its counter rises by 1 for the instruction (11 R217). -/
def State.newGroup (s : State) (k : Nat) (p : Path) (parts : Nat) (acq : Option Nat) : State × Nat :=
  let g := s.nextId
  let s := { s with nextId := g + 1 }
  let s := s.setGroup g (some { uid := (s.ctx k).uid, path := p, parts := parts, acq := acq })
  (s.modCtx k fun c => c.count p, g)

def State.addPart (s : State) (g : Nat) : State :=
  match s.group g with
  | some v => s.setGroup g (some { v with parts := v.parts + 1 })
  | none => s

/-- The PC of a code that is 0 to 3. -/
def w32 (v : Nat) : BitVec 32 := BitVec.ofNat 32 v

/-! ## Memory bytes -/

/-- What a byte of memory reads as: 0 where nothing has been written (DESIGN CHOICE, L1). -/
def Memory.read (m : List Host.Cell) (a : Nat) : Byte := Tbl.get 0 m a

def Memory.write (m : List Host.Cell) (a : Nat) (v : Byte) : List Host.Cell := Tbl.set 0 m a v

/-- The canonical form of memory: addresses strictly rise, and no entry holds 0. -/
def Memory.wf (m : List Host.Cell) : Bool := Tbl.wf (0 : Byte) m

/-- One byte of storage. -/
def State.byte (s : State) (a : Nat) : Byte := Memory.read s.mem a

def State.bytePoison (s : State) (a : Nat) : Bool := Tbl.get false s.memPoison a

/-- Write one byte of storage with its poison. -/
def State.putByte (s : State) (a : Nat) (v : Byte) (p : Bool) : State :=
  { s with mem := Memory.write s.mem a v, memPoison := Tbl.set false s.memPoison a p }

/-- The little-endian value of `n` bytes of storage (00 R5). -/
def State.value (s : State) (a : Nat) : Nat → Nat
  | 0 => 0
  | n + 1 => (s.byte a).toNat + 256 * s.value (a + 1) n

/-- Any of `n` bytes is poisoned. -/
def State.anyPoison (s : State) (a n : Nat) : Bool := (List.range n).any fun i => s.bytePoison (a + i)

/-- Write `n` bytes of a value, with one poison bit for them all. -/
def State.putValue (s : State) (a : Nat) : Nat → Nat → Bool → State
  | 0, _, _ => s
  | n + 1, v, p => (s.putByte a (BitVec.ofNat 8 v) p).putValue (a + 1) n (v / 256) p

/-- Clear `n` bytes, `step` bytes at a time. -/
def State.clearBytes (s : State) (a n : Nat) : State :=
  { s with mem := s.mem.filter fun e => e.1 < a || a + n ≤ e.1,
           memPoison := s.memPoison.filter fun e => e.1 < a || a + n ≤ e.1 }

/-! ## Places of storage -/

/-- The physical address ranges of 02 R27 and R29. -/
def isHbm (dies : Nat) (pa : Nat) : Bool := pa < (if dies = 1 then 2 ^ 38 else 2 ^ 40)
def isCoreSram (dies : Nat) (pa : Nat) : Bool :=
  0x8000000000000 ≤ pa && pa < 0x8000000000000 + (if dies = 1 then 0x4000000 else 0x10000000)
def isDevice (pa : Nat) : Bool := 0x9000000000000 ≤ pa && pa < 0xA000000000000
def isHost (pa : Nat) : Bool := 0xA000000000000 ≤ pa && pa < 0xC000000000000
def isPod (pa : Nat) : Bool := 0xC000000000000 ≤ pa && pa < 0xCC00000000000
def isWindowLoc (loc : Nat) : Bool := 2 ^ 52 ≤ loc

/-- The package number of a pod-window address. -/
def podPkg (pa : Nat) : Nat := pa / 2 ^ 40 % 256

def State.ownPkg (s : State) : Nat := (bits 0 8 s.mgmt.podcfg).toNat

/-- The storage behind an address: the pod window of the own package is the own HBM4 (02 R29). -/
def State.canon (s : State) (a : Nat) : Nat := if isPod a && podPkg a == s.ownPkg then a % 2 ^ 40 else a

/-- The home slice of a die offset (03 R48). -/
def homeSlice (pa : Nat) : Nat :=
  let f := pa % 2 ^ 38 / 65536
  (f % 64) ^^^ (f / 64 % 64) ^^^ (f / 4096 % 64) ^^^ (f / 2 ^ 18 % 16)

/-- The HBM4 target of an address within its die, 4 stacks of 32 channels in granules of 256 bytes, and the parts of its number
(02 R30). -/
def hbmTarget (pa : Nat) : Nat :=
  (pa / 2 ^ 8 % 128) ^^^ (pa / 2 ^ 15 % 128) ^^^ (pa / 2 ^ 22 % 128) ^^^ (pa / 2 ^ 29 % 128)

def hbmStack (pa : Nat) : Nat := hbmTarget pa / 32
def hbmChannel (pa : Nat) : Nat := hbmTarget pa % 32

/-- The pseudo-channel: the line within the granule. -/
def hbmPseudo (pa : Nat) : Nat := pa / 128 % 2

/-- The home die of an HBM4 address. -/
def homeDie (pa : Nat) : Nat := pa / 2 ^ 38 % 4

/-! ## Links -/

/-- The die link of two dies: 0 to 5, by pairs (19 R394). Link 6 + p is Span port p. -/
def dieLink (a b : Nat) : Nat :=
  let lo := min a b
  let hi := max a b
  if lo = 0 then hi - 1 else if lo = 1 then hi + 1 else 5

/-- The Span port by which requests for a line of a package leave: the first port that is up, from (p XOR a[10:7]) mod 16 upwards
(19 R396). -/
def Mgmt.portOf (g : Mgmt) (a : Nat) : Option Nat :=
  let first := (podPkg a ^^^ (a / 128 % 16)) % 16
  ((List.range 16).map fun i => (first + i) % 16).find? fun p => !g.portsDown.contains p

/-- What `linkState` holds of a link: 0 where it is whole, 1 where it is bypassed, and 2 + n while traffic that was sent before message n
drains, so that the bypass may begin (19 R394). -/
def State.linkIs (s : State) (link : Nat) : Nat := Tbl.get 0 s.mgmt.linkState link

/-- The links that traffic of two dies crosses: their own, or those of the lowest-numbered third die whose links are whole; which third die
it is the spec leaves open (19 R394; DESIGN CHOICE, L74). -/
def State.diePath (s : State) (a b : Nat) : List Nat :=
  if a = b then []
  else if s.linkIs (dieLink a b) ≠ 1 then [dieLink a b]
  else match [0, 1, 2, 3].find? fun c =>
      c != a && c != b && s.linkIs (dieLink a c) != 1 && s.linkIs (dieLink c b) != 1 with
    | some c => [dieLink a c, dieLink c b]
    | none => []

/-- The core of a core user SRAM address, as a unit number (02 R28). -/
def coreOf (pa : Nat) : Nat := (pa / 2 ^ 26 % 4 * 16 + pa / 2 ^ 22 % 16) * 128 + pa / 2 ^ 16 % 64

/-- A message or an arrival, which only its own rule of order holds back (12 R244). -/
def TagReq.carries (r : TagReq) : Bool := r.op == .msg || r.op == .arrival

/-- The core that a tagged request goes to: the owner of its location; `n` names that of a message or an arrival. -/
def TagReq.core (r : TagReq) : Nat := if r.carries then r.n else coreOf r.loc

/-- The dies between which a tagged request and its reply run. -/
def TagReq.dies (r : TagReq) : Nat × Nat :=
  (dieOf r.place, if r.home = .core then dieOfUnit r.core else homeDie r.loc)

/-- The links that a tagged request and its reply cross. -/
def State.linksOf (s : State) (r : TagReq) : List Nat :=
  if r.home ≠ .core && isPod r.loc && podPkg r.loc != s.ownPkg then ((s.mgmt.portOf r.loc).map (6 + ·)).toList
  else s.diePath r.dies.1 r.dies.2

/-- The die to which requests for a location go: the home's, that of the host port, or that of the Span port by which they leave, four
ports to a die (R2; 19 R396; DESIGN CHOICE, L74). -/
def State.dieTo (s : State) (loc : Nat) : Option Nat :=
  if isHbm s.dies loc then some (homeDie loc)
  else if isCoreSram s.dies loc then some (loc / 2 ^ 26 % 4)
  else if isHost loc then some 0
  else if isPod loc then
    if podPkg loc = s.ownPkg then some (homeDie loc) else (s.mgmt.portOf loc).map (· / 4)
  else none

/-- The dies between which a message runs. -/
def State.msgDies (s : State) (m : NetMsg) : Option (Nat × Nat) :=
  let u := m.lane / 2
  match m.body with
  | .tagged r => if r.home = .core then some r.dies else (s.dieTo r.loc).map fun d => (dieOf r.place, d)
  | .taggedRep r _ _ => if r.home = .core then some r.dies else (s.dieTo r.loc).map fun d => (dieOf r.place, d)
  | .bankAtomic r => (s.dieTo r.loc).map fun d => (dieOf r.place, d)
  | .push uid k _ _ => (s.keyOf uid).map fun j => (dieOf j, dieOf k)
  | .tagFlush v _ _ _ uid => (s.keyOf uid).map fun j => (dieOf j, dieOfUnit v)
  | .transit uid _ core => (s.keyOf uid).map fun j => (dieOf j, dieOfUnit core)
  | _ => if hostUnit < u then none else (s.dieTo m.loc).map fun d => (if u = hostUnit then 0 else dieOfUnit u, d)

/-- The path of a message crosses a link. -/
def State.onLink (s : State) (link : Nat) (m : NetMsg) : Bool :=
  match s.msgDies m with
  | some (a, b) => (s.diePath a b).contains link
  | none => false

/-- What a home sends to a unit: it ends traffic that is on its way. -/
def Body.answers : Body → Bool
  | .lineFill _ _ _ _ _ | .writeAck _ _ _ _ _ | .taggedRep _ _ _ | .recall _ _ _ => true
  | _ => false

/-- A message waits for the old path of its link to drain: one that was sent after the drain began, and answers nothing that is on its way
(19 R394). -/
def State.drainHolds (s : State) (m : NetMsg) : Bool :=
  !m.body.answers && s.mgmt.linkState.any fun e => 2 ≤ e.2 && e.2 ≤ m.id + 2 && s.onLink e.1 m

/-- Two messages of one source to one line or bank, which keep their order (03 R53; 05 R94). -/
def NetMsg.follows (m n : NetMsg) : Bool := n.lane == m.lane && orderKey n.loc == orderKey m.loc

/-- A message is on its way over a link: what a home has refused is back at its source, and what stands behind a held message waits there
too. -/
def State.onWire (s : State) (link : Nat) (m : NetMsg) : Bool :=
  s.onLink link m && m.refused == 0 && !m.lost && !s.drainHolds m
    && (netBefore m.id s.net).all fun n => !m.follows n || !s.drainHolds n

/-- A link's bypass begins once nothing is on its way over the link (19 R394). -/
def State.endDrains (s : State) : State :=
  let done := s.mgmt.linkState.filter fun e => 2 ≤ e.2 && !s.net.any (s.onWire e.1)
  { s with mgmt := { s.mgmt with linkState := done.foldl (fun t e => Tbl.set 0 t e.1 1) s.mgmt.linkState } }

/-- A message may be delivered: it is not lost, no delay holds it (`due` is 0), no link drains before it, and no earlier message of its
source to its line or bank waits before it (03 R53; 05 R94; 19 R394). -/
def State.deliverable (s : State) (m : NetMsg) : Bool :=
  !m.lost && m.due == 0 && !s.drainHolds m && (netBefore m.id s.net).all fun n => !m.follows n

/-- The number of the slice that serves a logical slice: in minimal mode s mod 4 (20 R406). -/
def State.serving (s : State) (die sl : Nat) : Nat :=
  die * 64 + (if s.mgmt.bootst.getLsbD 5 then sl % 4 else sl)

/-- The slice that performs the requests to an address, over the package; a slice of another package follows. -/
def State.homeOf (s : State) (a : Nat) : Nat :=
  let a := s.canon a
  if isPod a then 256 * (podPkg a + 1) + homeDie a * 64 + homeSlice a else s.serving (homeDie a) (homeSlice a)

def State.slice (s : State) (h : Nat) : Slice := Tbl.get Slice.reset s.slices h
def State.setSlice (s : State) (h : Nat) (v : Slice) : State := { s with slices := Tbl.set Slice.reset s.slices h v }

/-- The `slcnt` counters by offset: 0 rdrop, 1 rerr, 2 frefuse, 3 ddhit, 4 lost; they saturate (03 R51). -/
def State.bump (s : State) (h i : Nat) : State :=
  let v := s.slice h
  s.setSlice h { v with cnt := Tbl.set 0 v.cnt i (min (Tbl.get 0 v.cnt i + 1) 0xFFFFFFFF) }

def State.cluster (s : State) (c : Nat) : Cluster := Tbl.get Cluster.reset s.clusters c
def State.setCluster (s : State) (c : Nat) (v : Cluster) : State :=
  { s with clusters := Tbl.set Cluster.reset s.clusters c v }
def State.core (s : State) (u : Nat) : Core := Tbl.get Core.reset s.cores u
def State.setCore (s : State) (u : Nat) (v : Core) : State := { s with cores := Tbl.set Core.reset s.cores u v }
def State.engine (s : State) (u : Nat) : Engine := Tbl.get Engine.reset s.engines u
def State.setEngine (s : State) (u : Nat) (v : Engine) : State :=
  { s with engines := Tbl.set Engine.reset s.engines u v }
def State.xfer (s : State) (x : Nat) : Option Xfer := Tbl.get none s.xfers x
def State.setXfer (s : State) (x : Nat) (v : Option Xfer) : State := { s with xfers := Tbl.set none s.xfers x v }
def State.launch (s : State) (l : Nat) : Option Launch := Tbl.get none s.launches l
def State.setLaunch (s : State) (l : Nat) (v : Option Launch) : State :=
  { s with launches := Tbl.set none s.launches l v }
def State.pend (s : State) (p : Nat) : Option Pend := Tbl.get none s.pends p
def State.setPend (s : State) (p : Nat) (v : Option Pend) : State := { s with pends := Tbl.set none s.pends p v }

/-- A cluster stands: its die is there, and it has neither been retired nor left out by minimal mode (01 R14; 20 R402, R406). -/
def State.clusterStands (s : State) (c : Nat) : Bool :=
  c / 16 < s.dies && !s.mgmt.retired.contains (2 ^ 21 + c) && !(s.mgmt.bootst.getLsbD 5 && c % 16 ≠ 0)

/-- Ask for the save of a context (18 R379). -/
def Ctx.ask (c : Ctx) : Ctx := if c.preempt then c else { c with preempt := true, preTaken := false }

/-! ## Clocks -/

def State.island (s : State) (i : Nat) : Island := Tbl.get Island.reset s.islands i

/-- The island of a unit (15 R325). -/
def unitIsland (u : Nat) : Nat :=
  let cl := clusterOfUnit u
  dieOfUnit u * 64 + cl % 16 * 3 + (if u % 128 < 64 then 0 else if u % 128 < 66 then 1 else 2)

/-- The clocks of an island at a package clk: it runs at (POINT + 1) / 16 of 1.9 GHz (20 R404). -/
def Island.clk (v : Island) (clk : Nat) : Nat := v.base + (clk - v.start) * (v.point.toNat + 1) / 16

/-- The island goes on at another point. -/
def Island.setPoint (v : Island) (clk : Nat) (p : BitVec 4) : Island := { v with point := p, base := v.clk clk, start := clk }

/-- The clock of a unit, in which its budgets and timeouts count; that of a place, and of a cluster, whose shared units the model puts on
the island of its scalar cores (20 R404; DESIGN CHOICE, L76). -/
def State.unitClk (s : State) (u : Nat) : Nat := (s.island (unitIsland u)).clk s.clk
def State.now (s : State) (k : Nat) : Nat := s.unitClk (unitOf k)
def State.clusterClk (s : State) (cl : Nat) : Nat := s.unitClk (cl * 128)

/-- A unit's clock has ticked in this clk. -/
def State.ticks (s : State) (u : Nat) : Bool := (s.island (unitIsland u)).clk (s.clk - 1) != s.unitClk u

/-- The unit in whose clock the delays of a message count, and that clock; another agent counts package clk (DESIGN CHOICE, L76). -/
def NetMsg.unit (m : NetMsg) : Nat :=
  match m.body with
  | .heldMsg r => unitOf r.place
  | .tagged r => unitOf r.place
  | _ => m.lane / 2
def State.msgClk (s : State) (m : NetMsg) : Nat := if m.unit < 2 ^ 13 then s.unitClk m.unit else s.clk

/-- A unit or its cluster is being retired; its work waits for a spare (20 R402). -/
def State.unitMoving (s : State) (u : Nat) : Bool :=
  s.mgmt.moving.any fun e => e.1 == u || e.1 == 2 ^ 21 + clusterOfUnit u
def State.unitHeld (s : State) (u : Nat) : Bool :=
  s.mgmt.moving.any fun e => e.2 && (e.1 == u || e.1 == 2 ^ 21 + clusterOfUnit u)

/-- A core or an engine stands: its cluster does, and it has not been retired itself (01 R14; 20 R402). -/
def State.standing (s : State) (u : Nat) : Bool := s.clusterStands (clusterOfUnit u) && !s.mgmt.retired.contains u

/-- The mark of a line (03 R69). -/
def State.mark (s : State) (line : Nat) : Mark := Tbl.get .clean s.marks line
def State.setMark (s : State) (line : Nat) (m : Mark) : State := { s with marks := Tbl.set .clean s.marks line m }

/-- The tag's unit number of 20 R399 D2. -/
def unitCode (u : Nat) : Nat := dieOfUnit u + (clusterOfUnit u % 16) * 4 + (u % 128) * 64

/-! ## The owned-line directory (03 R54) -/

def State.dirFind (s : State) (line : Nat) : Option DirEnt :=
  let a := s.canon (line * 128)
  (s.slice (s.homeOf a)).dir.find? fun e => e.line == a / 128

/-- An owned-line entry is the owner's: nobody's where it is held for an agent. -/
def DirEnt.owned (e : DirEnt) : Bool := e.held.isNone

/-- The owned lines of a line's directory set, of 16 ways (03 R54; DESIGN CHOICE, L50: the set is the line number modulo 512). -/
def State.dirSetOf (s : State) (line : Nat) : List DirEnt :=
  let a := s.canon (line * 128)
  (s.slice (s.homeOf a)).dir.filter fun e => e.owned && e.line % 512 == a / 128 % 512

def State.dirSet (s : State) (line : Nat) (v : Option DirEnt) : State :=
  let a := s.canon (line * 128)
  let h := s.homeOf a
  let sl := s.slice h
  let rest := sl.dir.filter fun e => e.line != a / 128
  s.setSlice h { sl with dir := match v with
                                | some e => rest ++ [e]
                                | none => rest }

/-- Send a recall of an owned line to its owner (03 R54). -/
def State.sendRecall (s : State) (e : DirEnt) (forRead : Bool) : State :=
  if e.recalled then s
  else (s.dirSet e.line (some { e with recalled := true })).send (laneIn e.owner) (e.line * 128)
    (.recall e.owner e.line forRead)

/-! ## Machine-check records -/

/-- The place of the next record: BASE × 4096 + (TAIL mod 2^LOG2N) × 64 (20 R399). -/
def Mgmt.recordAt (g : Mgmt) : Nat :=
  (bits 12 40 g.mcbase).toNat * 4096 + (bits 0 32 g.mctail).toNat % 2 ^ (bits 0 5 g.mcctl).toNat * 64

/-- The oldest record that waits is written, and TAIL advances, once its line is at its home; an L1 that owns the line gives it back first
(20 R399; 03 R54). -/
def State.putRecord (s : State) : State :=
  match s.mgmt.mcWait with
  | [] => s
  | v :: vs =>
    match s.dirFind (s.mgmt.recordAt / 128) with
    | some e => s.sendRecall e false
    | none =>
      let g := s.mgmt
      let tail := (bits 0 32 g.mctail).toNat + 1
      { s.putValue g.recordAt 64 v false with
        mgmt := { g with mcWait := vs, mctail := BitVec.ofNat 64 (tail % 2 ^ 32 + (bits 32 32 g.mctail).toNat * 2 ^ 32) } }

/-- Write the records that wait, in order, while their lines are at their homes. -/
def State.putRecords (s : State) : State := s.mgmt.mcWait.foldl (fun s _ => s.putRecord) s

/-- Write a machine-check record (20 R399): its sequence number rises whether it is written or dropped. -/
def State.mcRecord (s : State) (src sev pa unit ctxid : Nat) : State :=
  let g := s.mgmt
  let log := (bits 0 5 g.mcctl).toNat
  let tail := (bits 0 32 g.mctail).toNat
  let held := (tail + g.mcWait.length + 2 ^ 32 - (bits 0 32 g.mchead).toNat) % 2 ^ 32
  let g1 := { g with mcSeq := g.mcSeq + 1 }
  if log = 0 || 2 ^ log ≤ held then
    let drop := min ((bits 32 32 g.mctail).toNat + 1) 0xFFFFFFFF
    { s with mgmt := { g1 with mctail := BitVec.ofNat 64 (tail + drop * 2 ^ 32) } }
  else
    let v := g.mcSeq.toNat + src * 2 ^ 32 + sev * 2 ^ 40 + pa * 2 ^ 64 + unit * 2 ^ 128 + ctxid * 2 ^ 192
    { s with mgmt := { g1 with mcWait := g1.mcWait ++ [v] } }.putRecords

end Sys2Proof.Machine
end

