-- ==== Sys2Proof/Machine/Area.lean ====
section
/-! DEFINITION. Save areas: the layouts of 18 R382 and R383, what a save writes there, and what a resume reads. The control
state of a saved context, whose layout firmware owns, is the context that `State.saved` lists. -/
namespace Sys2Proof.Machine

/-- The place in a save area of a register of a lane, and of its poison bits: x as 0 to 31, f as 32 to 63, w as 64 to 95
(18 R382, R383). -/
def areaSlot (wave : Bool) (area lane r : Nat) : Nat :=
  if wave then area + 512 * lane + 8 * r
  else if r < 64 then area + 8 * r else area + 0x200 + 32 * (r - 64)

def areaPoison (wave : Bool) (area lane r : Nat) : Nat × Nat :=
  let b := if wave then 64 * lane + r else if r < 64 then r else 64 + 8 * (r - 64)
  ((if wave then area + 0x8000 else area + 0x600) + b / 8, b % 8)

/-- A double of a fault record (18 R373). -/
def FaultRec.double (r : FaultRec) (i : Nat) : Word :=
  match i with
  | 0 => BitVec.ofNat 64 (r.ctxid.toNat + r.who.toNat * 2 ^ 48 + (if r.wave then 2 ^ 56 else 0) + r.kind.toNat * 2 ^ 57)
  | 1 => r.pc
  | 2 => r.va &&& ~~~127#64
  | 3 => bits 0 64 r.mask
  | 4 => bits 64 64 r.mask
  | _ => 0

/-- Write a register to a save area (18 R382, R383). -/
def State.areaReg (s : State) (wave : Bool) (area lane r : Nat) (v : Reg) : State :=
  let (pa, pb) := areaPoison wave area lane r
  let b := (s.byte pa).toNat
  let b := b - b / 2 ^ pb % 2 * 2 ^ pb + if v.p then 2 ^ pb else 0
  (s.putValue (areaSlot wave area lane r) 8 v.v.toNat false).putByte pa (BitVec.ofNat 8 b) false

def State.areaW (s : State) (area r : Nat) (v : WReg) : State :=
  (s.putValue (areaSlot false area 0 (64 + r)) 32 v.v.toNat false).putByte (areaPoison false area 0 (64 + r)).1
    (BitVec.ofNat 8 v.p.toNat) false

/-- The state byte of a lane (18 R383). -/
def LaneSt.code : LaneSt → Nat
  | .runnable => 0
  | .idle => 1
  | .finished => 2
  | .wsync => 3
  | .regroup => 4
  | .trap => 5
  | .uint => 6

def LaneSt.ofCode (n : Nat) : LaneSt :=
  match n with
  | 0 => .runnable
  | 2 => .finished
  | 3 => .wsync
  | 4 => .regroup
  | 5 => .trap
  | 6 => .uint
  | _ => .idle

/-- The block of channels, and the fault queue, of an area. -/
def chanBlock (wave : Bool) (area : Nat) : Nat := if wave then area + 0x8800 else area + 0x800
def faultBlock (wave : Bool) (area : Nat) : Nat := if wave then area + 0x9900 else area + 0x1900

/-- One channel: its doubles from place 0, their poison, the head and the count. -/
def State.areaChan (s : State) (a : Nat) (ds : List Reg) : State :=
  let s := s.clearBytes a 272
  let s := ds.zipIdx.foldl (fun s e => s.putValue (a + 8 * e.2) 8 e.1.v.toNat false) s
  let s := s.putValue (a + 256) 8 (ds.zipIdx.foldl (fun n e => n + if e.1.p then 2 ^ e.2 else 0) 0) false
  s.putValue (a + 264) 8 (ds.length * 256) false

/-- The channels and the fault queue of a context. -/
def State.areaBlocks (s : State) (wave : Bool) (area : Nat) (c : Ctx) : State :=
  let s := (List.range 16).foldl (fun s q => s.areaChan (chanBlock wave area + 272 * q) (Tbl.get [] c.chans q).flatten) s
  let s := s.clearBytes (faultBlock wave area) 1792
  c.faultQ.zipIdx.foldl (fun s e =>
    (List.range 8).foldl (fun s i => s.putValue (faultBlock wave area + 64 * e.2 + 8 * i) 8 (e.1.double i).toNat false) s) s

/-- The PCs of a context; of a wave also `fcsr` and the state of each lane. -/
def State.areaPcs (s : State) (wave : Bool) (area : Nat) (c : Ctx) : State :=
  if wave then
    (List.range 64).foldl (fun s l =>
      let v := c.lane l
      let s := s.putValue (area + 0x8200 + 8 * l) 8 v.pc.toNat false
      let s := s.putByte (area + 0x8400 + l) v.fcsr false
      s.putByte (area + 0x8440 + l) (BitVec.ofNat 8 (v.st.code + if v.helper then 8 else 0)) false) s
  else (s.putValue (area + 0x640) 8 (c.lane 0).pc.toNat false).clearBytes (area + 0x628) 24

/-- A hardware save writes the registers that are present, and every block with a layout (18 R381 step 3). -/
def State.areaSave (s : State) (wave : Bool) (area : Nat) (c : Ctx) : State :=
  let here := fun (l r : Nat) => !Tbl.get false c.absent (l * 128 + r)
  let s := (List.range (if wave then 64 else 1)).foldl (fun s l =>
    (List.range 64).foldl (fun s r =>
      if here l r then s.areaReg wave area l r (if r < 32 then (c.lane l).rx r else (c.lane l).rf (r - 32)) else s) s) s
  let s := if wave then s else (List.range 32).foldl (fun s r =>
    if here 0 (64 + r) then s.areaW area r (Tbl.get WReg.zero c.w r) else s) s
  (s.areaPcs wave area c).areaBlocks wave area c

/-- The lines of a save area: 0x2000 bytes for a thread set, 0xA000 for a wave (18 R382, R383). -/
def areaLines (wave : Bool) (area : Nat) : List Nat := span (area / 128) (if wave then 320 else 64)

/-- A saved context belongs to an engine. -/
def Ctx.savedWave (c : Ctx) : Bool := 64 ≤ c.tagUnit % 128

/-- Write to a saved context's area what has been delivered to the context: a register, or its blocks (13 R269; 18 R374). -/
def State.areaPut (s : State) (a : Nat) (r : Option (Nat × Reg)) : State :=
  let c := Tbl.get Ctx.vacant s.saved a
  match r with
  | some (r, v) => s.areaReg c.savedWave a 0 r v
  | none => (s.areaPcs c.savedWave a c).areaBlocks c.savedWave a c

/-- The lines of an area that an L1 owns. -/
def State.areaOwned (s : State) (a : Nat) : List DirEnt :=
  (areaLines (Tbl.get Ctx.vacant s.saved a).savedWave a).filterMap s.dirFind

/-- What has been delivered to a saved context reaches its area once no L1 owns a line of it; each owner is recalled first (03 R54;
06 R124). -/
def State.areaStep (s : State) (e : Nat × Option (Nat × Reg)) : State :=
  match s.areaOf e.1 with
  | none => s
  | some a =>
    match s.areaOwned a with
    | [] => s.areaPut a e.2
    | ds => ds.foldl (fun s d => s.sendRecall d false) { s with areaWait := s.areaWait ++ [e] }

/-- Write what waits for the lines of an area, in order. -/
def State.syncAll (s : State) : State := s.areaWait.foldl (fun s e => s.areaStep e) { s with areaWait := [] }

/-- Something waits to be written to the area of a saved context. -/
def State.unsynced (s : State) (uid : Nat) : Bool := s.areaWait.any fun e => e.1 == uid

def State.deliverSaved (s : State) (e : Nat × Option (Nat × Reg)) : State :=
  if (s.keyOf e.1).isSome then s else { s with areaWait := s.areaWait ++ [e] }.syncAll

/-- The blocks of a saved context follow what has been delivered to it (13 R269; 18 R374). -/
def State.syncArea (s : State) (uid : Nat) : State := s.deliverSaved (uid, none)

/-- Deliver a register to a saved context (13 R269). -/
def State.syncReg (s : State) (uid r : Nat) (v : Reg) : State := s.deliverSaved (uid, some (r, v))

/-- The packets of a channel as an area holds their doubles. -/
def State.readChan (s : State) (a : Nat) : List (List Reg) → Nat → List (List Reg)
  | [], _ => []
  | p :: ps, i =>
    ((List.range p.length).map fun j =>
      let k := (i + j) % 32
      ({ v := BitVec.ofNat 64 (s.value (a + 8 * k) 8), p := (s.value (a + 256) 8).testBit k } : Reg))
      :: s.readChan a ps (i + p.length)

/-- A fault record as an area holds it (18 R373). -/
def State.readRec (s : State) (a : Nat) : FaultRec :=
  let d := fun i => s.value (a + 8 * i) 8
  { ctxid := BitVec.ofNat 48 (d 0), who := BitVec.ofNat 8 (d 0 / 2 ^ 48), wave := (d 0).testBit 56,
    kind := BitVec.ofNat 2 (d 0 / 2 ^ 57), pc := BitVec.ofNat 64 (d 1), va := BitVec.ofNat 64 (d 2),
    mask := BitVec.ofNat 128 (d 3 + 2 ^ 64 * d 4) }

/-- A resume loads the PCs, the lane states, the channels and the fault queue, and marks every register absent
(18 R385). -/
def State.areaLoad (s : State) (wave : Bool) (area : Nat) (c : Ctx) : Ctx :=
  let c := if wave then
      (List.range 64).foldl (fun (c : Ctx) l =>
        let b := (s.byte (area + 0x8440 + l)).toNat
        c.modLane l fun v => { v with pc := BitVec.ofNat 64 (s.value (area + 0x8200 + 8 * l) 8),
                                      fcsr := s.byte (area + 0x8400 + l), st := LaneSt.ofCode (b % 8), helper := b.testBit 3 }) c
    else c.modLane 0 fun v => { v with pc := BitVec.ofNat 64 (s.value (area + 0x640) 8) }
  let regs := if wave then (List.range 64).flatMap fun l => (List.range 63).map fun r => (l * 128 + r + 1, true)
              else (List.range 95).map fun r => (r + 1, true)
  { c with
    absent := regs, chans := List.map (fun (e : Nat × List (List Reg)) =>
      (e.1, s.readChan (chanBlock wave area + 272 * e.1) e.2 (s.value (chanBlock wave area + 272 * e.1 + 264) 8 % 32))) c.chans,
    faultQ := (List.range c.faultQ.length).map fun i => s.readRec (faultBlock wave area + 64 * i) }

end Sys2Proof.Machine
end

