-- ==== Sys2Proof/Machine/Reduce.lean ====
section
/-! DEFINITION. Exact reductions: the accumulators of reduction pages (03 R59 to R64), and the arithmetic of a
contribution to a normal page (11 R227). -/
namespace Sys2Proof.Machine

/-- An accumulator of 03 R61, unpacked. -/
structure Acc where
  value : Int
  cls : Nat
  op : Nat
  nan : Bool
  pinf : Bool
  ninf : Bool
  err : Bool
  deriving DecidableEq, Repr

/-- The signed value of the low `w` bits. -/
def toSigned (w v : Nat) : Int := if v % 2 ^ w < 2 ^ (w - 1) then (v % 2 ^ w : Nat) else (v % 2 ^ w : Nat) - (2 ^ w : Nat)

/-- The low `w` bits of an integer. -/
def ofSigned (w : Nat) (v : Int) : Nat := (v % (2 ^ w : Nat)).toNat

def Acc.ofNat (v : Nat) : Acc :=
  { value := toSigned 312 v, cls := v / 2 ^ 312 % 4, op := v / 2 ^ 314 % 4, nan := v.testBit 316, pinf := v.testBit 317,
    ninf := v.testBit 318, err := v.testBit 319 }

def bitAt (b : Bool) (i : Nat) : Nat := if b then 2 ^ i else 0

def Acc.toNat (a : Acc) : Nat :=
  ofSigned 312 a.value + a.cls * 2 ^ 312 + a.op * 2 ^ 314 + bitAt a.nan 316 + bitAt a.pinf 317 + bitAt a.ninf 318
    + bitAt a.err 319

/-- The class of a contribution by its TYPE: 0 .w, 1 .d, 2 .f32, 3 .bf16, 4 .f16 (03 R62). -/
def redClass (ty : Nat) : Nat := if ty = 0 then 2 else if ty = 1 then 3 else 1

/-- The format of a floating-point contribution. -/
def redFmt (ty : Nat) : Fmt := if ty = 2 then fp32 else if ty = 3 then bf16 else fp16

/-- Apply an integer, already scaled, to an element whose class and operation match. -/
def Acc.apply (a : Acc) (v : Int) : Acc :=
  if a.op = 1 then { a with value := min a.value v }
  else if a.op = 2 then { a with value := max a.value v }
  else
    let t := a.value + v
    { a with value := toSigned 312 (ofSigned 312 t), err := a.err || t < -(2 ^ 311 : Nat) || (2 ^ 311 : Nat) ≤ t }

/-- An exact multiple of 2^-149 as an integer. -/
def scale149 (s : Bool) (m : Nat) (e : Int) : Int := signed s (m * pow2 (e + 149))

/-- Apply a contribution of a type and operation (03 R62). -/
def Acc.contribute (a : Acc) (op ty v : Nat) : Acc :=
  let c := redClass ty
  let a := if a.cls = 0 then
      { a with cls := c, op := op,
               value := if op = 1 then (2 ^ 311 - 1 : Nat) else if op = 2 then -(2 ^ 311 : Nat) else a.value }
    else a
  if a.cls ≠ c || a.op ≠ op then { a with err := true }
  else if c = 2 then a.apply (toSigned 32 v)
  else if c = 3 then a.apply (toSigned 64 v)
  else match decodeFp (redFmt ty) v with
    | .nan _ => { a with nan := true }
    | .inf s => if s then { a with ninf := true } else { a with pinf := true }
    | .fin s m e => a.apply (scale149 s m e)

/-- Saturate to a signed width. -/
def satTo (w : Nat) (v : Int) : Nat := ofSigned w (max (-(2 ^ (w - 1) : Nat)) (min ((2 ^ (w - 1) : Nat) - 1) v))

/-- VALUE × 2^-149 as FP32. -/
def Acc.fpValue (a : Acc) : Nat := (roundInt fp32 .rne a.value (-149) false).1

/-- The result of a load of an element of class 0, F or I32, or of an I64 pair (64 bits), and whether it is poisoned
(03 R63). -/
def Acc.result (a : Acc) : Nat × Bool :=
  if a.cls = 0 then (0, a.err)
  else if a.err then (0, true)
  else if a.cls = 2 then (satTo 32 a.value, false)
  else if a.cls = 3 then (satTo 64 a.value, false)
  else if a.op = 1 then
    (if a.ninf then 0xFF800000 else if a.value ≠ (2 ^ 311 - 1 : Nat) then a.fpValue
     else if a.pinf then 0x7F800000 else 0x7FC00000, false)
  else if a.op = 2 then
    (if a.pinf then 0x7F800000 else if a.value ≠ -(2 ^ 311 : Nat) then a.fpValue
     else if a.ninf then 0xFF800000 else 0x7FC00000, false)
  else
    (if a.nan || (a.pinf && a.ninf) then 0x7FC00000 else if a.pinf then 0x7F800000
     else if a.ninf then 0xFF800000 else a.fpValue, false)

def State.dieRegsOf (s : State) (d : Nat) : DieRegs := Tbl.get DieRegs.reset s.dieRegs d

/-- The base and size of a die's reduction window, and whether it is enabled (03 R59). -/
def State.redBase (s : State) (d : Nat) : Nat := (bits 16 22 (s.dieRegsOf d).rwbase).toNat * 65536
def State.redSize (s : State) (d : Nat) : Nat := (bits 16 22 (s.dieRegsOf d).rwsize).toNat * 65536
def State.redEn (s : State) (d : Nat) : Bool := (s.dieRegsOf d).rwbase.getLsbD 0

/-- An HBM4 address lies in its die's enabled reduction window. -/
def State.inRedWindow (s : State) (pa : Nat) : Bool :=
  let d := homeDie pa
  let o := pa % 2 ^ 38
  s.redEn d && s.redBase d ≤ o && o < s.redBase d + s.redSize d

/-- The place of the accumulator of the element at an address (03 R59). -/
def State.accAddr (s : State) (pa : Nat) : Nat :=
  let d := homeDie pa
  let o := pa % 2 ^ 38 / 4 * 4
  pa / 2 ^ 38 * 2 ^ 38 + s.redBase d + s.redSize d + (o - s.redBase d) * 10

def State.acc (s : State) (pa : Nat) : Acc := Acc.ofNat (s.value (s.accAddr pa) 40)

def State.setAcc (s : State) (pa : Nat) (a : Acc) : State := s.putValue (s.accAddr pa) 40 a.toNat false

/-- Store an accumulator, counting an element that enters the ERR state (03 R51, R62). -/
def State.putAcc (s : State) (h pa : Nat) (old new : Acc) : State :=
  let s := s.setAcc pa new
  if new.err && !old.err then s.bump h 1 else s

/-- The lines of the accumulator store that hold the accumulators of a reduction line (03 R60). -/
def State.accLines (s : State) (line : Nat) : List Nat := (List.range 10).map (s.accAddr (line * 128) / 128 + ·)

/-- The line of a reduction page, or a line of its accumulators, is marked lost or poisoned (03 R70). -/
def State.accMarked (s : State) (pa : Nat) : Bool :=
  s.mark (pa / 128) != .clean || s.mark (s.accAddr pa / 128) != .clean || s.mark ((s.accAddr pa + 39) / 128) != .clean

/-- Perform a contribution on a reduction page at its home slice (03 R62, R70); a `.d` contribution needs both its elements. -/
def State.contribute (s : State) (h pa op ty : Nat) (v : Reg) : State :=
  if v.p || s.accMarked pa || (ty = 1 && s.accMarked (pa + 4)) then s.bump h 0
  else
    let a := s.acc pa
    let s := s.putAcc h pa a (a.contribute op ty v.v.toNat)
    if ty = 1 then
      let u := s.acc (pa + 4)
      let u' := if u.cls = 0 then { u with cls := 3, op := 3 }
                else if u.cls = 3 && u.op = 3 then u else { u with err := true }
      s.putAcc h (pa + 4) u u'
    else s

/-- The 32-bit result of a load of the element at an address, and whether it is poisoned (03 R63). The upper element of an
I64 pair has CLASS 3 and OP 3. -/
def State.accWord (s : State) (pa : Nat) : Nat × Bool :=
  let pa := pa / 4 * 4
  let a := s.acc pa
  if a.cls = 3 && a.op = 3 && pa % 8 = 4 then
    let l := s.acc (pa - 4)
    let r := l.result
    if a.err || r.2 || l.err then (0, true) else (r.1 / 2 ^ 32 % 2 ^ 32, false)
  else if a.cls = 3 then
    let u := s.acc (pa + 4)
    let r := a.result
    if u.err || r.2 then (0, true) else (r.1 % 2 ^ 32, false)
  else a.result

/-- The other element of an I64 pair, whose accumulator a word load of the pair needs too (03 R62, R63). -/
def State.accPartner (s : State) (pa : Nat) : Option Nat :=
  let pa := pa / 4 * 4
  if (s.acc pa).cls ≠ 3 then none
  else if pa % 8 = 0 then some (pa + 4)
  else if (s.acc pa).op = 3 then some (pa - 4) else none

/-- The result of a load of the element at an address comes from a marked line: its own, or the other of its pair (03 R70). -/
def State.accLost (s : State) (pa : Nat) : Bool := s.accMarked pa || (s.accPartner pa).any s.accMarked

/-- The bytes of a load of `n` bytes inside a reduction page, with a poison bit for each. -/
def State.accBytes (s : State) (pa n : Nat) : List (Nat × Bool) :=
  (List.range n).map fun i =>
    let r := s.accWord (pa + i)
    (r.1 / 256 ^ ((pa + i) % 4) % 256, r.2 || s.accLost (pa + i))

/-- The bytes of a double load: at the lower element of an I64 pair, the pair's result (03 R63). -/
def State.accDouble (s : State) (pa : Nat) : List (Nat × Bool) :=
  let a := s.acc pa
  if pa % 8 = 0 && a.cls = 3 && a.op ≠ 3 then
    let r := a.result
    let bad := r.2 || (s.acc (pa + 4)).err
    (List.range 8).map fun i =>
      (if bad then 0 else r.1 / 256 ^ i % 256, bad || s.accMarked pa || s.accMarked (pa + 4))
  else s.accBytes pa 8

/-- A store resets every accumulator that it touches (03 R64). -/
def State.resetAccs (s : State) (pa n : Nat) : State :=
  (List.range n).foldl (fun s i => if i = 0 || (pa + i) % 4 = 0 then s.clearBytes (s.accAddr (pa + i)) 40 else s) s

/-- The new value of a normal-page location under a contribution (11 R227), of the type's width. -/
def redNormal (op ty old v : Nat) : Nat :=
  if ty = 0 || ty = 1 then
    let w := if ty = 0 then 32 else 64
    let a := toSigned w old
    let b := toSigned w v
    ofSigned w (if op = 0 then a + b else if op = 1 then min a b else max a b)
  else
    let f := redFmt ty
    if op = 0 then homeAdd f old v else (minMaxFp f (op = 2) old v).1

/-- The width in bytes of a contribution's location. -/
def redBytes (ty : Nat) : Nat := if ty = 1 then 8 else if ty = 3 || ty = 4 then 2 else 4

end Sys2Proof.Machine
end

