-- ==== Sys2Proof/Machine/Coherence.lean ====
section
/-! DEFINITION. The L1 lines (05 R101 to R108), the home slices and their directory (03 R52 to R58), and what a release and
an acquire do to an L1 (05 R102, R103). -/
namespace Sys2Proof.Machine

/-! ## Lines -/

def lineByte (d : LineBits) (i : Nat) : Nat := d.toNat / 256 ^ i % 256

def setLineByte (d : LineBits) (i v : Nat) : LineBits :=
  (d &&& ~~~((0xFF#1024) <<< (8 * i))) ||| (BitVec.ofNat 1024 (v % 256) <<< (8 * i))

def setBit {w : Nat} (m : BitVec w) (i : Nat) (b : Bool) : BitVec w :=
  if b then m ||| (1#w <<< i) else m &&& ~~~(1#w <<< i)

def allBytes : BitVec 128 := BitVec.allOnes 128

def State.l1 (s : State) (u : Nat) : List L1Line := Tbl.get [] s.l1d u
def State.setL1 (s : State) (u : Nat) (ls : List L1Line) : State := { s with l1d := Tbl.set [] s.l1d u ls }
def State.l1iLines (s : State) (u : Nat) : Tbl LineBits := Tbl.get [] s.l1i u
def State.l1Line (s : State) (u line : Nat) : Option L1Line := (s.l1 u).find? fun l => l.line == line

/-- Replace a line of an L1D, or add it. -/
def State.putLine (s : State) (u : Nat) (l : L1Line) : State :=
  if (s.l1Line u l.line).isSome then s.setL1 u ((s.l1 u).map fun m => if m.line == l.line then l else m)
  else s.setL1 u (s.l1 u ++ [l])

def State.delLine (s : State) (u line : Nat) : State := s.setL1 u ((s.l1 u).filter fun l => l.line != line)

/-- A line that holds every byte of `m` readable. -/
def L1Line.readable (l : L1Line) (i : Nat) : Bool := l.st != .dirty || l.fill || l.mask.getLsbD i

/-! ## Tags -/

def State.tagEnts (s : State) (u : Nat) : List TagEnt := Tbl.get [] s.tags u
def State.setTags (s : State) (u : Nat) (t : List TagEnt) : State := { s with tags := Tbl.set [] s.tags u t }
def State.tagEnt (s : State) (u idx : Nat) : Option TagEnt := (s.tagEnts u).find? fun t => t.idx == idx

/-- The context number and identifier under which the lines of a tag entry are held. -/
def State.tagUid (s : State) (u idx : Nat) : Nat := ((s.tagEnt u idx).map (·.uid)).getD 0
def State.tagCtxid (s : State) (u idx : Nat) : Nat := ((s.tagEnt u idx).map (·.ctxid.toNat)).getD 0

/-- A Dirty or Owned line that a tag entry names. -/
def L1Line.taggedBy (l : L1Line) (idx : Nat) : Bool := l.st != .valid && l.tag == idx

/-! ## Leased lines -/

def Region.holds (r : Region) (line : Nat) : Bool := r.lines.any fun w => w.line == line

def Ctx.region (c : Ctx) : Option Region :=
  match c.lease with
  | .armed r => some r
  | _ => none

/-- The thread set of a core whose armed region holds a line. -/
def State.leasedBy (s : State) (u line : Nat) : Option Nat :=
  ([0, 1, 2, 3].map (u * 32 + ·)).find? fun k =>
    match (s.ctx k).region with
    | some r => r.holds line
    | none => false

/-- A thread set of a core is acquiring a line that the L1D has gained, and awaits one at a higher address; the recall
of the line may then be deferred (06 R111). -/
def State.mayDefer (s : State) (u line : Nat) : Bool :=
  ([0, 1, 2, 3].map (u * 32 + ·)).any fun k =>
    match (s.ctx k).lease with
    | .acquiring _ _ ls =>
      ls.any (fun w => w.line == line) && ls.any fun w => line < w.line &&
        (match s.l1Line u w.line with
         | some l => l.st != .owned
         | none => true)
    | _ => false

/-! ## Scopes -/

/-- The lines that a scope covers for a unit of a die (05 R103): 0 `.unit` to 5 `.sys`. -/
def State.covers (s : State) (die scope loc : Nat) : Bool :=
  if isWindowLoc loc then 1 ≤ scope
  else if isHbm s.dies loc then (if scope = 1 || scope = 2 then homeDie loc == die else 3 ≤ scope)
  else if isCoreSram s.dies loc then
    (if scope = 1 || scope = 2 then loc / 2 ^ 26 % 4 == die else 3 ≤ scope)
  else if isPod loc then 4 ≤ scope
  else 5 ≤ scope

/-! ## Fault records -/

/-- The virtual line address of a line: its own address where no page table translated the store (18 R373). -/
def L1Line.vline (l : L1Line) : Nat := if l.under.bits = 0 then l.line else l.under.vline

/-- Post a deferred fault record to the context that a tag entry names, or a machine-check record where the entry holds
no identifier (05 R108; 18 R373, R374). -/
def State.postFault (s : State) (u idx : Nat) (kind : Nat) (pc : Word) (va : Nat) (mask : BitVec 128) : State :=
  let uid := s.tagUid u idx
  let cid := s.tagCtxid u idx
  let slot := match s.keyOf uid with
    | some k => k % 32
    | none => 0
  let r : FaultRec := { ctxid := BitVec.ofNat 48 cid, who := BitVec.ofNat 8 slot, wave := 64 ≤ u % 128,
                        kind := BitVec.ofNat 2 kind, pc := pc, va := BitVec.ofNat 64 va, mask := mask }
  if cid = 0 || (s.byUid uid).isNone then s.mcRecord 8 5 0 (unitCode u) cid
  else (s.modUid uid fun c =>
    let c := if kind = 0 then { c with pendDw := true } else { c with pendPx := true }
    if 4 ≤ c.faultQ.length then
      { c with faultLost := if c.faultLost = BitVec.allOnes 32 then c.faultLost else c.faultLost + 1 }
    else { c with faultQ := c.faultQ ++ [r] }).syncArea uid

/-! ## Storage of a line -/

/-- The bytes of a line at its home, with their poison; a lost or poisoned line is poisoned whole (03 R70). -/
def State.readLine (s : State) (line : Nat) : LineBits × BitVec 128 :=
  let a := s.canon (line * 128)
  (BitVec.ofNat 1024 (s.value a 128),
   if s.mark (a / 128) != .clean then allBytes
   else (List.range 128).foldl (fun m i => if s.bytePoison (a + i) then setBit m i true else m) 0)

/-- Bytes of a line with another line's bytes where a mask is set. -/
def overlay (d top : LineBits) (m : BitVec 128) : LineBits :=
  (List.range 128).foldl (fun d i => if m.getLsbD i then setLineByte d i (lineByte top i) else d) d

def overlayBits (d top m : BitVec 128) : BitVec 128 := (d &&& ~~~m) ||| (top &&& m)

/-- An L1's copy of a line once its dirty bytes have gone; those of a marked line may have gone elsewhere, and the copy holds
the home's bytes again. -/
def State.cleaned (s : State) (l : L1Line) : L1Line :=
  let (d, p) := s.readLine l.line
  { l with data := if l.marked then overlay l.data d l.mask else l.data,
           poison := if l.marked then overlayBits l.poison p l.mask else l.poison, mask := 0, marked := false }

/-- The full/empty bits of a range of words. -/
def State.setFull (s : State) (a n : Nat) (b : Bool) : State :=
  { s with fullBits := (List.range n).foldl (fun t i => Tbl.set false t (a / 4 + i) b) s.fullBits }

def State.wordsFull (s : State) (a n : Nat) : Bool := (List.range n).all fun i => Tbl.get false s.fullBits (a / 4 + i)

/-- Merge bytes into a line at its home (03 R54, R64, R70, R71). -/
def State.mergeLine (s : State) (line : Nat) (data : LineBits) (mask poison : BitVec 128) (home : Home) : State :=
  let a := s.canon (line * 128)
  let marked := if home = .reduction then (s.accLines (a / 128)).any fun l => s.mark l != .clean else false
  let s := if mask = allBytes && s.mark (a / 128) != .clean then (s.setMark (a / 128) .clean).setFull a 32 false else s
  let s := if mask = allBytes && marked then (s.accLines (a / 128)).foldl (fun s l => s.setMark l .clean) s else s
  (List.range 128).foldl (fun s i =>
    if mask.getLsbD i then
      (if home = .reduction then s.resetAccs (a + i) 1
       else s.putByte (a + i) (BitVec.ofNat 8 (lineByte data i)) (poison.getLsbD i))
    else s) s

/-! ## Completion of loads and of counted operations -/

/-- The covered acquire of a unit's L1D (05 R102, R103): covered Valid lines go, covered Dirty lines keep only their own
bytes, and a line reply already on its way serves no later load. -/
def State.acquire (s : State) (u scope : Nat) : State :=
  let die := dieOfUnit u
  let cov := fun (line : Nat) => s.covers die scope (line * 128)
  let ls := (s.l1 u).filter fun l => !(l.st == .valid && cov l.line)
  let ls := ls.map fun l => if l.st == .dirty && cov l.line then { l with fill := false } else l
  let net := s.net.map fun m =>
    match m.body with
    | .lineFill v line _ _ own => if v == u && own.isNone && cov line then { m with stale := true } else m
    | _ => m
  { s.setL1 u ls with net := net }

/-- One part of a counted operation is done; when the last is, the counter falls, and the acquire that ends the
operation is performed (11 R216, R217). -/
def State.partDone (s : State) (g : Nat) : State :=
  match s.group g with
  | none => s
  | some v =>
    if 1 < v.parts then s.setGroup g (some { v with parts := v.parts - 1 })
    else
      let s := (s.setGroup g none).modUid v.uid fun c =>
        { (c.uncount v.path) with block := if c.block = some g then none else c.block }
      match v.acq, s.keyOf v.uid with
      | some sc, some k => s.acquire (unitOf k) sc
      | _, _ => s

def State.partDone? (s : State) (g : Option Nat) : State :=
  match g with
  | some g => s.partDone g
  | none => s

/-- The value of a finished load as its destination takes it. -/
def loadX (n : Nat) (sg : Bool) (v : Nat) (p : Bool) : Reg := { v := extendLoad sg n v, p := p }

/-- The f register of a finished load of 2, 4 or 8 bytes (10 R200; 11 R224). -/
def loadF (n : Nat) (v : Nat) (p : Bool) : Reg :=
  { v := if n = 8 then BitVec.ofNat 64 v else if n = 4 then nanBox (v % 2 ^ 32)
         else BitVec.ofNat 64 (0xFFFFFFFFFFFF0000 + v % 65536), p := p }

/-- The element poison of a w register from byte poison. -/
def elemPoison (p : Nat) (i : Nat) : Bool := p / 2 ^ (4 * i) % 16 != 0

def loadW (v p : Nat) : WReg :=
  { v := BitVec.ofNat 256 v, p := (List.range 8).foldl (fun m i => if elemPoison p i then setBit m i true else m) 0 }

/-- Write the registers of a list from `r` up. -/
def Lane.wfGroup (l : Lane) (r : Nat) : List Reg → Lane
  | [] => l
  | v :: vs => (l.wf r v).wfGroup (r + 1) vs

/-- The result of a load whose bytes have all arrived, in its destination (07 R129; 10 R200; 13 R277, R281). -/
def Ctx.load (c : Ctx) (lane : Nat) (d : Dst) (v p : Nat) : Ctx :=
  match d with
  | .x r n sg => c.modLane lane fun l => l.wx r (loadX n sg v (p != 0))
  | .f r n => c.modLane lane fun l => l.wf r (loadF n v (p != 0))
  | .w r => { c with w := Tbl.set WReg.zero c.w r (loadW v p) }
  | .box fd ray => c.modLane lane fun l => l.wfGroup fd (boxResult ray v (p != 0))
  | .tri fd ray => c.modLane lane fun l => l.wfGroup fd (triResult ray v (p != 0))
  | .none => c

/-- A load that was issued before an armed region writes the region's checkpoint too (06 R118). -/
def Ctx.loadCkpt (c : Ctx) (pid : Nat) (d : Dst) (v p : Nat) : Ctx :=
  match c.lease, d with
  | .armed r, .x q n sg =>
    if pid < r.since && q != 0 then { c with lease := .armed { r with ckpt := Tbl.set Reg.zero r.ckpt q (loadX n sg v (p != 0)) } }
    else c
  | _, _ => c

/-- Bytes of an outstanding load arrive: those still missing are taken, and a load that misses none writes its
destination and is done. -/
def State.pendBytes (s : State) (pid off : Nat) (bs : List (Nat × Bool)) : State :=
  match s.pend pid with
  | none => s
  | some p =>
    let p := (bs.zipIdx.foldl (fun (q : Pend) e =>
      let i := off + e.2
      if q.left.getLsbD i then
        { q with data := q.data ||| (BitVec.ofNat 288 e.1.1 <<< (8 * i)), poison := setBit q.poison i e.1.2,
                 left := setBit q.left i false }
      else q) p)
    if p.left = 0 then
      ((s.setPend pid none).modUid p.uid fun c =>
        (c.load p.lane p.dst p.data.toNat p.poison.toNat).loadCkpt pid p.dst p.data.toNat p.poison.toNat).partDone p.grp
    else s.setPend pid (some p)

/-! ## Sending to homes -/

/-- A request of a unit for a copy of a line, or its reply, serves no later load. -/
def NetMsg.overtaken (m : NetMsg) (u line : Nat) : NetMsg :=
  match m.body with
  | .lineFill v l _ _ own => if v == u && l == line && own.isNone then { m with stale := true } else m
  | .lineRead v l => if v == u && l == line then { m with stale := true } else m
  | .prefetch v l => if v == u && l == line then { m with stale := true } else m
  | _ => m

/-- Line requests and prefetches of a unit that were sent before its copy changed, on their way or behind a recall, serve no later
load. -/
def State.staleReqs (s : State) (u line : Nat) : State :=
  { s with net := s.net.map fun m => m.overtaken u line,
           slices := s.slices.map fun (e : Nat × Slice) =>
             (e.1, { e.2 with dir := e.2.dir.map fun d => { d with queue := d.queue.map fun m => m.overtaken u line },
                              stalled := e.2.stalled.map fun x => (x.1, x.2.overtaken u line) }) }

/-- Send a write of line bytes to their home. -/
def State.sendWrite (s : State) (uid u line : Nat) (data : LineBits) (mask poison : BitVec 128) (home : Home) (rel : Bool)
    (grp : Option Nat) : State :=
  (s.staleReqs u line).send (laneOut u) (line * 128) (.write uid u line data mask poison home rel grp)

/-- The bytes of a line that leave the L1 for its own home. `pc` is what a fault record carries (05 R108): the PC of the release
that started the write-back, 0 for an eviction, a store by another context, a drain, a flush or a recall; for `cwb`, `cwb.ctx`,
`cinv`, `ld.acq` and an atomic, of which R108 does not speak, the PC of that instruction (DESIGN CHOICE, L49). `dest` is the line and the treatment that the page's translation
gives, made again where an `sfence.vma` has marked the line (02 R46 step 5): bytes whose page is no longer writable are
discarded with a fault record (05 R108), and bytes whose page has moved go to the new place. Bytes for the host memory window
leave their poisoned ones behind (18 R375). -/
def State.leaving (s : State) (u : Nat) (l : L1Line) (dest : Option (Nat × Home)) (pc : Word) (grp : Option Nat) :
    State × BitVec 128 :=
  if l.mask = 0 then (s, 0)
  else match dest with
    | none => (s.postFault u l.tag 0 pc (l.vline * 128) l.mask, 0)
    | some (d, h) =>
      let dirty := l.mask &&& l.poison
      let (s, m) := if isHost (d * 128) && dirty != 0 then
          (s.postFault u l.tag 1 pc (l.vline * 128) dirty, l.mask &&& ~~~l.poison)
        else (s, l.mask)
      if d = l.line || m = 0 then (s, m)
      else
        let s := match grp with
          | some g => s.addPart g
          | none => s
        (s.sendWrite (s.tagUid u l.tag) u d l.data m l.poison h true grp, 0)

/-- Write back the bytes in M of a Dirty line, or of an Owned line that stays Owned; the caller sets the line's next
state. -/
def State.writeBack (s : State) (u : Nat) (l : L1Line) (dest : Option (Nat × Home)) (pc : Word) (grp : Option Nat) :
    State :=
  let (s, m) := s.leaving u l dest pc grp
  if m = 0 then s
  else
    let s := match grp with
      | some g => s.addPart g
      | none => s
    s.sendWrite (s.tagUid u l.tag) u l.line l.data m l.poison .cached true grp

/-- Give up an Owned line with the bytes in M (03 R54). -/
def State.giveUp (s : State) (u : Nat) (l : L1Line) (dest : Option (Nat × Home)) (pc : Word) (grp : Option Nat) :
    State :=
  let (s, m) := s.leaving u l dest pc grp
  let s := match grp with
    | some g => s.addPart g
    | none => s
  ((s.delLine u l.line).staleReqs u l.line).send (laneOut u) (l.line * 128)
    (.giveUp (s.tagUid u l.tag) u l.line l.data m l.poison grp)

/-- The state of a Dirty line after its bytes have been written back: Valid if F = 1, else Invalid (05 R102). A line that an
`sfence.vma` has marked is dropped: its bytes may have gone elsewhere. -/
def State.afterWriteBack (s : State) (u : Nat) (l : L1Line) : State :=
  if l.fill && !l.marked then s.putLine u { l with st := .valid, mask := 0, marked := false } else s.delLine u l.line

/-! ## Requests behind recalls -/

/-- The requests that a slice holds behind recalls. -/
def Slice.waiting (v : Slice) : List NetMsg := v.dir.foldr (fun d l => d.queue ++ l) (v.stalled.map (·.2))

/-- Their number (03 R55: at most 128). -/
def Slice.queued (v : Slice) : Nat := v.waiting.length

/-- The victim of a full set of 16 ways: the least recently granted entry whose owner holds no lease on it; where every
owner does, the least recently granted (03 R54). An entry that is being recalled already is no victim while another is left
(DESIGN CHOICE, L50). -/
def State.dirVictim (s : State) (es : List DirEnt) : Option DirEnt :=
  let oldest := fun (l : List DirEnt) => l.foldl (fun (b : Option DirEnt) e =>
    match b with
    | none => some e
    | some x => if e.granted < x.granted then some e else b) none
  let fresh := es.filter fun e => !e.recalled
  let es := if fresh.isEmpty then es else fresh
  match oldest (es.filter fun e => (s.leasedBy e.owner e.line).isNone) with
  | some e => some e
  | none => oldest es

/-- The tagged request that a message makes. -/
def NetMsg.tag? (m : NetMsg) : Option TagReq :=
  match m.body with
  | .tagged r => some r
  | _ => none

/-- A message of a source to a line that comes after another: one that was sent later, and of two tagged requests of one context the one
with the later SEQ, whichever was resent (03 R53, R58). -/
def NetMsg.later (m n : NetMsg) : Bool :=
  n.lane == m.lane && orderKey n.loc == orderKey m.loc &&
    match m.tag?, n.tag? with
    | some r, some q => if r.uid = q.uid && r.seq ≠ q.seq then decide ((q.seq - r.seq).toNat < 32768) else decide (m.id < n.id)
    | _, _ => decide (m.id < n.id)

/-- Put a message in its place among those that are on their way. -/
def State.insertMsg (s : State) (m : NetMsg) : State :=
  { s with net := s.net.takeWhile (fun n => !m.later n) ++ m :: s.net.dropWhile fun n => !m.later n }

/-- Refuse a message: it is sent again after a delay (03 R55, R67; 12 R243), before the later ones of its source to its line
(R53). -/
def State.refuse (s : State) (m : NetMsg) (delay : Nat) : State :=
  let m' := { m with refused := m.refused + 1, due := s.msgClk m + delay }
  if (s.msg m.id).isSome then s.setMsg m' else s.insertMsg m'

/-! ## Performing requests at the home slice -/

/-- The access to a home whose effect is performed once: the new value of the location. -/
def newValue (op : TagOp) (n old : Nat) (v c : Reg) : Option Nat :=
  match op with
  | .amo o =>
    if n = 8 then some (amoOp o (BitVec.ofNat 64 old) v.v).toNat
    else some (amoOp o (BitVec.ofNat 32 old) (lo32 v.v)).toNat
  | .fadd bf => some (homeAdd (if bf then bf16 else fp32) old (v.v.toNat % 256 ^ n))
  | .cas => if old = c.v.toNat % 256 ^ n then some (v.v.toNat % 256 ^ n) else none
  | .red o t => some (redNormal o t old (v.v.toNat % 256 ^ n))
  | _ => some (v.v.toNat % 256 ^ n)

/-- Perform an atomic of the kinds of `newValue` on storage: the old value, and the state after (11 R224 to R227; 07 R129;
03 R70). -/
def State.atomicAt (s : State) (op : TagOp) (a n : Nat) (v c : Reg) : State × Reg :=
  if s.mark (a / 128) != .clean && !isWindowLoc a then (s, { v := 0, p := true })
  else
    let old := s.value a n
    let po := s.anyPoison a n
    let pw := v.p || (op == .cas && c.p) || (po && op != .amo 8)
    let s := match newValue op n old v c with
      | some x => s.putValue a n x pw
      | none => s
    (s, { v := BitVec.ofNat 64 old, p := po })

/-- Send the reply to a tagged request. -/
def State.reply (s : State) (r : TagReq) (v : Reg) (status : Nat) : State :=
  s.send (laneIn (unitOf r.place)) r.loc (.taggedRep r v status)

/-- An entry holds a request's tag. -/
def Dedup.holds (e : Dedup) (r : TagReq) : Bool := e.place == r.place && e.uid == r.uid && e.seq == r.seq

/-- The context at a place has confirmed an entry: its SEQ lies below ACKSEQ (03 R57). R57 names a context by its place alone; the entries
of the contexts that stand at a place one after another are told apart by the model's own context number, and a performed entry of an
earlier one goes once that context has its reply (DESIGN CHOICE, L94). -/
def State.confirmed (s : State) (place uid : Nat) (ack : BitVec 16) (e : Dedup) : Bool :=
  e.place == place &&
    (if e.uid == uid then 1 ≤ (ack - e.seq).toNat && (ack - e.seq).toNat ≤ 32768
     else e.done && !((s.byUid e.uid).map fun c => c.unanswered.contains e.seq).getD false)

/-- A context keeps fewer than 32,768 tagged requests unanswered: an instruction that makes `n` more waits (03 R57). -/
def Ctx.tagsFull (c : Ctx) (n : Nat) : Bool := 32768 ≤ c.unanswered.length + n

/-- The next tag of a context at a place. -/
def Ctx.tag (c : Ctx) (k : Nat) : Tag := { place := k, uid := c.uid, seq := c.seq, ack := c.unanswered.headD c.seq }

/-- The entries of a home's de-duplication table once a requester confirms what it has been answered (03 R57). -/
def State.keptTags (s : State) (h : Nat) (t : Tag) : List Dedup :=
  (s.slice h).dedup.filter fun e => !s.confirmed t.place t.uid t.ack e

/-- The de-duplication table of a location's home has room for `n` more requests of a requester (03 R57). -/
def State.tagRoom (s : State) (loc n : Nat) (t : Tag) : Bool := (s.keptTags (s.homeOf loc) t).length + n ≤ 1024

/-- A request that its home performs and answers in the step that makes it takes its entry there (03 R57). -/
def State.recordTag (s : State) (loc : Nat) (t : Tag) : State :=
  let h := s.homeOf loc
  let e : Dedup := { place := t.place, uid := t.uid, seq := t.seq, done := true, v := Reg.zero, status := 0 }
  s.setSlice h { s.slice h with dedup := s.keptTags h t ++ [e] }

/-- The same for the context at a place, whose SEQ rises; older line requests of its unit serve no later load. -/
def State.homeTag (s : State) (k loc : Nat) (c : Ctx) : State :=
  ((s.recordTag loc (c.tag k)).staleReqs (unitOf k) (loc / 128)).modUid c.uid fun c => { c with seq := c.seq + 1, tagAt := s.now k }

/-- Record the reply of a performed request in the de-duplication table and send it (03 R57). -/
def State.answer (s : State) (h : Nat) (r : TagReq) (v : Reg) (status : Nat) : State :=
  let sl := s.slice h
  let dd := sl.dedup.map fun e =>
    if e.holds r then { e with done := true, v := v, status := status } else e
  (s.setSlice h { sl with dedup := dd }).reply r v status

/-- A future load is satisfied when its word or words are full, or its line is lost or poisoned (03 R65, R70). -/
def State.fldReady (s : State) (r : TagReq) : Bool :=
  let a := s.canon r.loc
  s.wordsFull a (r.n / 4) || s.mark (a / 128) != .clean

def State.fldValue (s : State) (r : TagReq) : Reg :=
  let a := s.canon r.loc
  { v := BitVec.ofNat 64 (s.value a r.n), p := s.anyPoison a r.n || s.mark (a / 128) != .clean }

/-- Answer the deferred loads of a slice that are satisfied, in the order in which they were deferred (03 R66). -/
def State.wakeFld (s : State) (h : Nat) : State :=
  let ready := (s.slice h).deferred.filter fun r => s.fldReady r
  let s := s.setSlice h { s.slice h with deferred := (s.slice h).deferred.filter fun r => !s.fldReady r }
  ready.foldl (fun s r => s.answer h r (s.fldValue r) 0) s

/-- The entries of the deferral buffer: one for each context and line (03 R66). -/
def Slice.deferEntries (v : Slice) : List (Nat × Nat) :=
  (v.deferred.map fun r => (r.place, r.loc / 128)).eraseDups

/-- Remove the table entry of a request that was refused with nothing performed. -/
def State.undedup (s : State) (h : Nat) (r : TagReq) : State :=
  let sl := s.slice h
  s.setSlice h { sl with dedup := sl.dedup.filter fun e => !e.holds r }

/-- Perform a new tagged request at its home slice. A future load that joins its context's entry for the line needs no free entry (03 R67;
DESIGN CHOICE, L80). -/
def State.performTag (s : State) (h : Nat) (m : NetMsg) (r : TagReq) : State :=
  let a := s.canon r.loc
  match r.op with
  | .fld =>
    if s.fldReady r then s.answer h r (s.fldValue r) 0
    else
      let sl := s.slice h
      let joins := sl.deferEntries.any fun e => e == (r.place, r.loc / 128)
      if joins || 15 - min r.age 15 < 256 - sl.deferEntries.length then
        s.setSlice h { sl with deferred := sl.deferred ++ [r] }
      else
        let s := (s.undedup h r).bump h 2
        s.refuse { m with body := .tagged { r with age := min (r.age + 1) 15 } } 512
  | .fst =>
    let s := (s.putValue a r.n (r.v.v.toNat % 256 ^ r.n) r.v.p).setFull a (r.n / 4) true
    let s := s.answer h r Reg.zero 0
    s.wakeFld h
  | .frst => (s.setFull a (r.n / 4) false).answer h r Reg.zero 0
  | .red o t =>
    if r.home = .reduction then (s.contribute h a o t r.v).answer h r Reg.zero 0
    else if s.mark (a / 128) != .clean then (s.bump h 0).answer h r Reg.zero 0
    else (s.atomicAt r.op a r.n r.v r.c).1.answer h r Reg.zero 0
  | _ =>
    let (s, v) := s.atomicAt r.op a r.n r.v r.c
    s.answer h r v 0

/-- A tagged request at its home slice (03 R57): entries that the requester has confirmed are freed; a duplicate gets the
stored reply; a new request takes an entry and is performed. -/
def State.tagArrive (s : State) (m : NetMsg) (r : TagReq) : State :=
  let h := s.homeOf r.loc
  let sl := s.slice h
  let dd := sl.dedup.filter fun e => !s.confirmed r.place r.uid r.ack e
  let s := s.setSlice h { sl with dedup := dd }
  match dd.find? fun e => e.holds r with
  | some e => if e.done then (s.bump h 3).reply r e.v e.status else s
  | none =>
    if 1024 ≤ dd.length then s.refuse m 64
    else
      let e : Dedup := { place := r.place, uid := r.uid, seq := r.seq, done := false, v := Reg.zero, status := 0 }
      (s.setSlice h { s.slice h with dedup := dd ++ [e] }).performTag h m r

/-- The bytes of a read performed at a place, with a poison bit for each (03 R63, R65, R70). -/
def State.readAt (s : State) (loc n : Nat) (home : Home) : List (Nat × Bool) :=
  let a := s.canon loc
  if home = .reduction then
    s.accBytes a n
  else (List.range n).map fun i =>
    ((s.byte (a + i)).toNat, s.bytePoison (a + i) || (!isWindowLoc a && s.mark ((a + i) / 128) != .clean))

/-- The bytes of a part of a read: a load of a double reads an element pair of a reduction page as one (03 R63). -/
def State.readPart (s : State) (q : ReadPart) (home : Home) : List (Nat × Bool) :=
  if home = .reduction && q.n = 8 && ((s.pend q.pend).map (·.n)) == some 8 then s.accDouble (s.canon q.loc)
  else s.readAt q.loc q.n home

/-- The parts of a read are performed at one instant (10 R211). -/
def State.readParts (s : State) (qs : List ReadPart) (home : Home) : State :=
  qs.foldl (fun s q => s.pendBytes q.pend q.off (s.readPart q home)) s

/-- A prefetch is not worth a recall (11 R233). -/
def isPrefetch : Body → Bool
  | .prefetch _ _ => true
  | _ => false

/-- A unit, not the owner, makes a request for an owned line: the home recalls it and queues the request (03 R54, R55); a
prefetch that needs a recall is dropped (11 R233). -/
def State.recallFor (s : State) (e : DirEnt) (m : NetMsg) (forRead : Bool) : State :=
  let h := s.homeOf (e.line * 128)
  if isPrefetch m.body then s
  else if 128 ≤ (s.slice h).queued then s.refuse m 64
  else
    let e := { e with queue := e.queue ++ [m] }
    (s.dirSet e.line (some e)).sendRecall e forRead

/-- An ownership request waits for the recall of a victim of its set; the slice queues it with those behind recalls (03 R54,
R55). -/
def State.stallOn (s : State) (m : NetMsg) (victim : Nat) : State :=
  let h := s.homeOf m.loc
  if 128 ≤ (s.slice h).queued then s.refuse m 64
  else s.setSlice h { s.slice h with stalled := (s.slice h).stalled ++ [(victim, m)] }

/-- Grant ownership of a line: a directory entry, and the line's 128 bytes (03 R54). A request that finds its set full waits for the
recall of the set's victim. -/
def State.grant (s : State) (m : NetMsg) (u line tag : Nat) : State :=
  let a := s.canon (line * 128) / 128
  let inSet := s.dirSetOf line
  match (if 16 ≤ inSet.length then s.dirVictim inSet else none) with
  | some v => (s.stallOn m v.line).sendRecall v false
  | none =>
    let (d, p) := s.readLine line
    let s := s.dirSet line (some { line := a, owner := u, recalled := false, granted := s.nextId, queue := [] })
    { s with nextId := s.nextId + 1,
             net := s.net ++ [{ m with lane := laneIn u, due := 0, stale := false,
                                       body := .lineFill u line d p (some tag) }] }

/-- No unit: what a line's entry names as its owner while the line is held for an agent. -/
def nobody : Nat := hostUnit + 1

/-- The turn of an agent that acts at the home: the requests behind it wait until it has acted, or for 64 clk (03 R53; DESIGN CHOICE,
L88). -/
def State.holdFor (s : State) (who : Agent) (line : Nat) : State :=
  s.dirSet line (some { line := s.canon (line * 128) / 128, owner := nobody, recalled := true, granted := 0, queue := [],
                        held := some (who, s.clk + 64) })

/-- Perform a request at its home, for a line that nobody else owns (03 R53, R54). -/
def State.perform (s : State) (m : NetMsg) : State :=
  match m.body with
  | .lineRead u line =>
    let (d, p) := s.readLine line
    { s with net := s.net ++ [{ m with lane := laneIn u, due := 0, body := .lineFill u line d p none }] }
  | .prefetch u line =>
    let (d, p) := s.readLine line
    { s with net := s.net ++ [{ m with lane := laneIn u, due := 0, body := .lineFill u line d p none }] }
  | .read qs home => s.readParts qs home
  | .write uid u line data mask poison home rel grp =>
    (s.mergeLine line data mask poison home).send (laneIn u) (line * 128) (.writeAck uid u line rel grp)
  | .giveUp uid u line data mask poison grp =>
    (s.mergeLine line data mask poison .cached).send (laneIn u) (line * 128) (.writeAck uid u line true grp)
  | .own u line tag => s.grant m u line tag
  | .tagged r => s.tagArrive m r
  | .ask who line _ => s.holdFor who line
  | _ => s

/-- A write-back or a giving-up comes from the L1 that holds the line, and is merged at once (03 R54). -/
def fromOwner (e : DirEnt) : Body → Bool
  | .write _ u _ _ _ _ _ _ _ => u == e.owner
  | .giveUp _ u _ _ _ _ _ => u == e.owner
  | _ => false

def isRead : Body → Bool
  | .lineRead _ _ => true
  | .read _ _ => true
  | .ask _ _ rd => rd
  | _ => false

/-- The ownership request that waits for a directory entry for a line, or a request that came after it (03 R53). -/
def State.stalledFor (s : State) (loc : Nat) : Option (Nat × NetMsg) :=
  (s.slice (s.homeOf loc)).stalled.find? fun e => s.canon e.2.loc / 128 == s.canon loc / 128

/-- A request reaches its home slice. One whose line waits for a directory entry queues behind the ownership request that came
before it (03 R53). -/
def State.arrive (s : State) (m : NetMsg) : State :=
  match s.dirFind (m.loc / 128), s.stalledFor m.loc with
  | none, none => s.perform m
  | none, some e => if isPrefetch m.body then s else s.stallOn m e.1
  | some e, _ => if fromOwner e m.body then s.perform m else s.recallFor e m (isRead m.body)

/-- The line is no longer owned: serve its queue in order, then the requests that waited for its directory entry (03 R54), then the
records and the deliveries to saved contexts that wait for a line. -/
def State.serveDir (s : State) (line : Nat) : State :=
  match s.dirFind line with
  | none => s
  | some e =>
    let h := s.homeOf (line * 128)
    let s := e.queue.foldl (fun s m => s.arrive m) (s.dirSet line none)
    let mine := (s.slice h).stalled.filter fun x => x.1 == e.line
    let s := s.setSlice h { s.slice h with stalled := (s.slice h).stalled.filter fun x => x.1 != e.line }
    (mine.foldl (fun s x => s.arrive x.2) s).putRecords.syncAll

/-! ## Agents that act at a home -/

/-- The messages in flight: those on their way, and those that a recall queue holds. -/
def State.inFlight (s : State) : List NetMsg :=
  s.net ++ s.slices.foldr (fun e l => e.2.waiting ++ l) []

/-- The number of the HBM4 target that holds an address, among the units of the management controller. -/
def targetUnit (pa : Nat) : Nat := 2 ^ 22 + homeDie pa * 128 + hbmTarget pa

/-- The home's slice is being retired, so that it takes no request, or the data of the HBM4 behind it is being copied, so that accesses wait
at the home (20 R402). -/
def State.sliceMoving (s : State) (loc : Nat) : Bool := s.mgmt.moving.any fun e => e.1 == 2 ^ 20 + s.homeOf loc
def State.rowsMoving (s : State) (loc : Nat) : Bool := s.mgmt.moving.any fun e => e.1 == targetUnit (s.canon loc)
def State.homeMoving (s : State) (loc : Nat) : Bool := isHbm s.dies (s.canon loc) && (s.sliceMoving loc || s.rowsMoving loc)

/-- No L1 owns the line of an address, and nothing waits for it: its home serves an agent at once (03 R54). -/
def State.atHome (s : State) (loc : Nat) : Bool :=
  (s.dirFind (s.canon loc / 128)).isNone && (s.stalledFor loc).isNone && !s.homeMoving loc

/-- The line is held for an agent. -/
def State.heldFor (s : State) (who : Agent) (loc : Nat) : Bool :=
  !s.homeMoving loc && match s.dirFind (s.canon loc / 128) with
    | some e => e.held.any fun h => h.1 == who
    | none => false

/-- An agent may act at the home of an address. -/
def State.mayAct (s : State) (who : Agent) (loc : Nat) : Bool := s.atHome loc || s.heldFor who loc

/-- The request of an agent for a line is on its way or waits. -/
def State.asked (s : State) (who : Agent) (line : Nat) : Bool := s.inFlight.any fun m =>
  match m.body with
  | .ask w l _ => w == who && l == line
  | _ => false

/-- An agent that acts at the home (a page walk, a Dray, the host, a network interface) meets a line that it may not act on: its request
takes a place behind those that came before, the owner is recalled, and the agent waits for its turn (03 R53, R54, R55). A home that is being
retired refuses it (20 R402). -/
def State.askLine (s : State) (who : Agent) (loc : Nat) (forRead : Bool) : State :=
  let line := s.canon loc / 128
  if s.mayAct who loc || s.asked who line || s.homeMoving loc then s
  else { s with nextId := s.nextId + 1 }.arrive
    { id := s.nextId, lane := 2 ^ 50 + s.nextId, loc := line * 128, refused := 0, due := 0, lost := false, stale := false,
      body := .ask who line forRead }

/-- The agent has acted: the requests behind it are served. -/
def State.pass (s : State) (who : Agent) (loc : Nat) : State :=
  if s.heldFor who loc then s.serveDir (s.canon loc / 128) else s

/-- The same for several lines. -/
def State.allAtHome (s : State) (lines : List Nat) : Bool := lines.all fun l => s.atHome (l * 128)
def State.mayActAll (s : State) (who : Agent) (lines : List Nat) : Bool := lines.all fun l => s.mayAct who (l * 128)
def State.askLines (s : State) (who : Agent) (lines : List Nat) (forRead : Bool) : State :=
  lines.foldl (fun s l => s.askLine who (l * 128) forRead) s

/-- The lines that are held for an agent, and their passing on. -/
def State.heldLines (s : State) (who : Agent) : List Nat := s.slices.flatMap fun e =>
  (e.2.dir.filter fun d => d.held.any fun h => h.1 == who).map (·.line)
def State.passAll (s : State) (who : Agent) : State := (s.heldLines who).foldl (fun s l => s.serveDir l) s

/-- An agent acts on a line at its home, at once or in its turn; else it asks, and waits. -/
def State.inTurn {α : Type} (s : State) (who : Agent) (loc : Nat) (forRead : Bool) (wait : α) (go : State × α) : State × α :=
  if s.atHome loc then go
  else if s.heldFor who loc then (go.1.pass who loc, go.2)
  else (s.askLine who loc forRead, wait)

/-- The same on several lines. -/
def State.inTurns {α : Type} (s : State) (who : Agent) (lines : List Nat) (forRead : Bool) (wait : α) (go : State × α) : State × α :=
  if s.allAtHome lines then go
  else if s.mayActAll who lines then (go.1.passAll who, go.2)
  else (s.askLines who lines forRead, wait)

/-- The same for an action without a result. -/
def State.atTurn (s : State) (who : Agent) (loc : Nat) (forRead : Bool) (go : State) : State :=
  (s.inTurn who loc forRead () (go, ())).1
def State.atTurns (s : State) (who : Agent) (lines : List Nat) (forRead : Bool) (go : State) : State :=
  (s.inTurns who lines forRead () (go, ())).1

/-- The lines whose turn has passed: their agents did not act in time. -/
def State.lateHolds (s : State) : List Nat := s.slices.flatMap fun e =>
  (e.2.dir.filter fun d => d.held.any fun h => h.2 ≤ s.clk).map (·.line)

def State.endHolds (s : State) : State := s.lateHolds.foldl (fun s l => s.serveDir l) s

/-! ## Releases -/

/-- A message is a write of a context that a release at a scope waits for (16 R331, R332): one that the scope covers, and the
write of an `st.rel` or `fst` wherever it goes. A `.write` to a page that never allocates, marked `rel`, is an `st.rel`. -/
def State.relMsg (s : State) (uid die scope : Nat) (m : NetMsg) : Bool :=
  match m.body with
  | .write w _ line _ _ _ home rel _ => w == uid && rel && (home != .cached || s.covers die scope (line * 128))
  | .writeAck w _ line rel _ => w == uid && rel && s.covers die scope (line * 128)
  | .giveUp w _ line _ _ _ _ => w == uid && s.covers die scope (line * 128)
  | .marked w _ _ _ _ _ => w == uid
  | .bankWrite w _ line _ _ _ thru _ => w == uid && (thru || s.covers die scope (line * 128))
  | .coreWrite w _ line _ _ _ thru _ => w == uid && (thru || s.covers die scope (line * 128))
  | .tagged r => r.uid == uid && r.op == .fst
  | .taggedRep r _ _ => r.uid == uid && r.op == .fst
  | _ => false

/-- An earlier load of a context is outstanding; a future load that the context waits at has not retired. -/
def State.loading (s : State) (c : Ctx) : Bool := s.pends.any fun e =>
  match e.2 with
  | some p => p.uid == c.uid && !(c.phase = 1 && c.block == some p.grp)
  | none => false

/-- A load of a context is still to come: one that has failed is not (03 R58). -/
def State.awaiting (s : State) (c : Ctx) : Bool := s.pends.any fun e =>
  match e.2 with
  | some p => p.uid == c.uid && !(c.phase = 1 && c.block == some p.grp) && !c.remote.any fun r => r.pend == some e.1
  | none => false

/-- A context is blocked on accesses that are still to come. -/
def Ctx.blocked (c : Ctx) : Bool := c.block.any fun g => !c.remote.any fun r => r.grp == g

/-- The Dirty lines that a release of a context writes back. -/
def State.relLines (s : State) (k scope : Nat) : List L1Line :=
  let c := s.ctx k
  (s.l1 (unitOf k)).filter fun l => l.st == .dirty && l.tag == c.tagEnt && s.covers (dieOf k) scope (l.line * 128)

/-- A release is performed: no earlier read is outstanding, no store of the context waits in the queue, no covered Dirty
line is its, and every write that it started has been acknowledged (05 R103; 16 R331). -/
def State.released (s : State) (k scope : Nat) : Bool :=
  let uid := (s.ctx k).uid
  !s.loading (s.ctx k) && (s.relLines k scope).isEmpty
    && (Tbl.get [] s.storeQ (unitOf k)).all (fun e => e.uid != uid || !e.rel)
    && s.inFlight.all fun m => !s.relMsg uid (dieOf k) scope m

/-- Start the write-backs of a release; `w` sends the bytes of a line. -/
def State.startRelease (s : State) (k scope : Nat) (w : State → L1Line → State) : State :=
  if (Tbl.get [] s.storeQ (unitOf k)).all (fun e => e.uid != (s.ctx k).uid || !e.rel) then
    (s.relLines k scope).foldl (fun s l => (w s l).afterWriteBack (unitOf k) l) s
  else s

end Sys2Proof.Machine
end

