-- ==== Sys2Proof/Machine/Translate.lean ====
section
/-! DEFINITION. Translation: the address checks, page table entries, TLBs, walkers, and the homes that a leaf names
(02 R31 to R47; 19 R389). -/
namespace Sys2Proof.Machine

/-- The kinds of access: 0 a load, 1 an access that can modify memory, 2 a fetch. Their page and access faults. -/
def pageFault (acc : Nat) : Nat := if acc = 0 then 13 else if acc = 1 then 15 else 12
def accessFault (acc : Nat) : Nat := if acc = 0 then 5 else if acc = 1 then 7 else 1

/-! ## Page table entries -/

/-- What the walker makes of an entry (02 R35, R36). -/
inductive Pte where
  | page
  | access
  | next (table : Nat)
  | leaf (e : TlbEnt)
  deriving DecidableEq, Repr

def field (v lo len : Nat) : Nat := v / 2 ^ lo % 2 ^ len

/-- The index of a level in a virtual address (02 R33). -/
def levelIndex (va level : Nat) : Nat :=
  match level with
  | 0 => field va 55 2
  | 1 => field va 42 13
  | 2 => field va 29 13
  | _ => field va 16 13

/-- The checks of 02 R36 and 19 R389 on an entry read at a level. -/
def State.readPte (s : State) (level va asid e : Nat) : Pte :=
  let oa := field e 16 36 * 65536
  let home := field e 9 2
  let kind := field e 11 2
  let cont := field e 13 1
  let pin := field e 52 6
  if field e 0 1 = 0 || field e 14 2 ≠ 0 || field e 63 1 ≠ 0 then .page
  else if field e 1 1 = 0 then
    if level = 3 || field e 2 12 ≠ 0 || pin ≠ 0 then .page
    else if isHbm s.dies oa then .next oa else .access
  else if level < 2 then .page
  else
    let bs := if level = 2 then 29 else if cont = 1 then 21 else 16
    let first := oa / 2 ^ bs * 2 ^ bs
    if field e 3 1 = 1 && field e 2 1 = 0 then .page
    else if kind = 3 then .page
    else if cont = 1 && (level ≠ 3 || field va 16 5 ≠ field oa 16 5) then .page
    else if level = 2 && field oa 16 13 ≠ 0 then .page
    else if pin ≠ 0 && home ≠ 2 then .page
    else if home = 2 && pin ≠ homeSlice first then .page
    else if home = 3 && (kind ≠ 0 || level = 2 || cont = 1 || !isCoreSram s.dies oa) then .page
    else if home ≠ 3 && isCoreSram s.dies oa then .page
    else if isHost oa && (2 ≤ home || kind = 1 || kind = 2) then .page
    else .leaf { asid := asid, glob := field e 6 1 = 1, vpn := va / 2 ^ bs, bits := bs, ppn := oa / 2 ^ bs,
                 perm := BitVec.ofNat 9 e, home := BitVec.ofNat 2 home, kind := BitVec.ofNat 2 kind,
                 pin := BitVec.ofNat 6 pin }

/-- The permission checks of 02 R37, with the meanings of the RISC-V privileged architecture. -/
def TlbEnt.permits (e : TlbEnt) (acc : Nat) (mode : Mode) (sum mxr : Bool) : Bool :=
  let r := e.perm.getLsbD 2
  let w := e.perm.getLsbD 3
  let x := e.perm.getLsbD 4
  let u := e.perm.getLsbD 5
  let ok := if acc = 2 then x else if acc = 1 then r && w else r || (mxr && x)
  let side := match mode with
    | .u => u
    | .s => !u || (sum && acc != 2)
    | .m => true
  ok && side

def TlbEnt.dirty (e : TlbEnt) : Bool := e.perm.getLsbD 8

/-- The OA of the leaf that an entry holds for a virtual address: each page of a contiguous group has a leaf of its own (02 R34,
R36). -/
def TlbEnt.oa (e : TlbEnt) (va : Nat) : Nat :=
  if e.bits = 29 then e.ppn * 2 ^ e.bits else (e.ppn * 2 ^ e.bits + va % 2 ^ e.bits) / 65536 * 65536

/-- The physical address of a virtual address under an entry. -/
def TlbEnt.pa (e : TlbEnt) (va : Nat) : Nat := e.ppn * 2 ^ e.bits + va % 2 ^ e.bits

def TlbEnt.matches (e : TlbEnt) (asid va : Nat) : Bool := (e.glob || e.asid == asid) && e.vpn == va / 2 ^ e.bits

/-! ## TLBs -/

/-- TLB numbers: four for each unit (instruction, data, Dray, and one for the cluster at unit 0), one for each die. -/
def itlb (u : Nat) : Nat := 4 * u
def dtlb (u : Nat) : Nat := 4 * u + 1
def drayTlb (u : Nat) : Nat := 4 * u + 2
def clusterTlb (u : Nat) : Nat := 4 * (clusterOfUnit u * 128) + 3
def dieTlb (d : Nat) : Nat := 2 ^ 24 + d

def State.tlb (s : State) (t : Nat) : List TlbEnt := Tbl.get [] s.tlbs t

/-- The entries of a TLB that compete for one place with an entry, and their number (02 R42): those of its set in a cluster's TLB of
512 sets of 8, indexed by the low bits of the virtual page number at the entry's page size (DESIGN CHOICE, L51); the 512 MiB
blocks, or the smaller pages, in a die's last-level TLB; all of a unit's or a Dray's TLB. -/
def tlbRivals (t : Nat) (e f : TlbEnt) : Bool :=
  if 2 ^ 24 ≤ t then decide (f.bits = 29) == decide (e.bits = 29)
  else if t % 4 = 3 then f.vpn % 512 == e.vpn % 512
  else true

def tlbSize (t : Nat) (e : TlbEnt) : Nat :=
  if 2 ^ 24 ≤ t then (if e.bits = 29 then 2048 else 32768)
  else if t % 4 = 3 then 8
  else if t % 4 = 2 then 64
  else if t / 4 % 128 < 64 then (if t % 4 = 0 then 32 else 64)
  else (if t % 4 = 0 then 64 else 256)

/-- Install an entry; where its place is full, an entry that the spec does not name goes (L5). -/
def State.install (s : State) (t : Nat) (e : TlbEnt) : State :=
  let old := (s.tlb t).filter fun f => !(f.vpn == e.vpn && f.bits == e.bits && (f.glob == e.glob && f.asid == e.asid))
  let rivals := old.filter (tlbRivals t e)
  if tlbSize t e ≤ rivals.length then
    let (s, n) := s.draw
    let gone := (rivals.drop (Config.tlbVictim n % rivals.length)).take 1
    { s with tlbs := Tbl.set [] s.tlbs t ((old.filter fun f => !gone.contains f) ++ [e]) }
  else { s with tlbs := Tbl.set [] s.tlbs t (old ++ [e]) }

/-- The entry that a lookup finds, in the order of the TLBs. A hit in a cluster's or a die's TLB installs nothing in the requester's own
(DESIGN CHOICE, L78: 02 R42 does not say whether it does). -/
def State.tlbFind (s : State) (ts : List Nat) (asid va : Nat) : Option TlbEnt :=
  ts.findSome? fun t => (s.tlb t).find? fun e => e.matches asid va

/-- Whether an `sfence.vma` of an address and an ASID matches an entry (02 R46). An address that is not canonical matches modulo 2^57
(DESIGN CHOICE, L79). -/
def TlbEnt.fenced (e : TlbEnt) (va asid : Option Nat) : Bool :=
  (match va with
   | some v => e.vpn == v % 2 ^ 57 / 2 ^ e.bits
   | none => true) &&
  (match asid with
   | some a => !e.glob && e.asid == a
   | none => true)

/-! ## The result of a translation -/

/-- A translated address: its location, its treatment, and the translation that a Dirty line keeps. -/
structure Spot where
  loc : Nat
  home : Home
  pinned : Bool
  under : Under
  deriving DecidableEq, Repr

/-- A place that no page table gave. -/
def Spot.bare (loc : Nat) (home : Home) : Spot := { loc := loc, home := home, pinned := false, under := Under.none }

/-- What a line stored through an entry keeps. -/
def TlbEnt.under (e : TlbEnt) (va asid : Nat) : Under := { vline := va / 128, asid := asid, bits := e.bits, glob := e.glob }

/-- The outcome of a translation: a miss needs a walk. -/
inductive Xl where
  | ok (p : Spot)
  | fault (cause : Nat) (va : Word)
  | miss (va : Nat)
  deriving DecidableEq, Repr

/-- A frame is pinned at its home slice (03 R50, R52); minimal mode pins none (20 R406). -/
def State.framePinned (s : State) (pa : Nat) : Bool :=
  let f := pa % 2 ^ 38 / 65536
  !s.mgmt.bootst.getLsbD 5 &&
    (List.range 16).any fun i =>
      let r := Tbl.get 0 (s.slice (s.homeOf pa)).slpin i
      r.getLsbD 0 && (bits 16 22 r).toNat == f

/-- The treatment of a physical address under a leaf's HOME, KIND and OA, with the region checks of 02 R27, 03 R52 and R59,
19 R389 and R395; `none` is the access fault. A core that does not stand has no SRAM (01 R14). The reduction window is tested on the
leaf's OA, as R34 words it, for all pages of a large leaf (DEDUCED, L89). -/
def State.homeAt (s : State) (pa home kind oa : Nat) : Option Home :=
  if isDevice pa then some .device
  else if isCoreSram s.dies pa then (if home = 3 && s.standing (coreOf pa) then some .core else none)
  else if !(isHbm s.dies pa || isHost pa || isPod pa) then none
  else if isPod pa && podPkg pa ≠ s.ownPkg && !s.mgmt.podcfg.getLsbD 8 then none
  else if isPod pa && podPkg pa = s.ownPkg && !isHbm s.dies (s.canon pa) then none
  else if home = 2 && isHbm s.dies (s.canon pa) && !s.framePinned pa then none
  else if kind = 1 then some .future
  else if kind = 2 then (if isHbm s.dies (s.canon pa) && !s.inRedWindow (s.canon oa) then none else some .reduction)
  else if home = 1 then some .uncached
  else if isHost pa && !s.mgmt.cxl then some .uncached
  else some .cached

/-- The treatment of an untranslated physical address (DESIGN CHOICE, L7). -/
def State.bareHome (s : State) (pa : Nat) : Option Home :=
  s.homeAt pa (if isCoreSram s.dies pa then 3 else 0) 0 pa

/-- Bits [63:41] of an address are all ones: it lies in the cluster window (02 R32). -/
def inWindow (va : Word) : Bool := va.toNat ≥ 0xFFFFFE0000000000

/-- The mode under which a context's data accesses are translated (MPRV, 15 R313). -/
def Ctx.dataMode (c : Ctx) : Mode :=
  if c.mode = .m && c.csr.mstatus.getLsbD 17 then
    (match (bits 11 2 c.csr.mstatus).toNat with
     | 0 => .u
     | 1 => .s
     | _ => .m)
  else c.mode

def Ctx.accMode (c : Ctx) (acc : Nat) : Mode := if acc = 2 then c.mode else c.dataMode

/-- A write of `satp` (02 R33): a MODE other than 0 and 14 leaves the whole register, and [43:40] stays 0. -/
def satpWrite (old v : Word) : Word :=
  if bits 60 4 v = 0#4 || bits 60 4 v = 14#4 then v &&& ~~~0xF0000000000#64 else old

def satpOn (satp : Word) : Bool := bits 60 4 satp == 14#4
def satpAsid (satp : Word) : Nat := (bits 44 16 satp).toNat
def satpRoot (satp : Word) : Nat := (bits 0 40 satp).toNat * 4096

/-- The canonical check (02 R31). -/
def canonical (va : Word) : Bool := bits 57 7 va == (if va.getLsbD 56 then 127#7 else 0#7)

/-- Translate one address of a context, from its unit's TLB upwards (02 R31, R32, R42, R45). The window check has the
allocation bound to the context; the last byte of the whole access is checked by the caller. -/
def State.xlat (s : State) (k acc : Nat) (va : Word) : Xl :=
  let c := s.ctx k
  let u := unitOf k
  let mode := c.accMode acc
  let asid := satpAsid c.csr.satp
  if inWindow va then
    let off := va.toNat % 2 ^ 41
    if acc = 2 then .fault 1 va
    else if c.allocSize ≤ off then .fault 24 va
    else .ok (.bare (2 ^ 52 + clusterOf k * 2 ^ 23 + c.allocBase + off) .window)
  else if mode = .m || !satpOn c.csr.satp then
    if 2 ^ 52 ≤ va.toNat then .fault (accessFault acc) va
    else match s.bareHome va.toNat with
      | some h => .ok (.bare va.toNat h)
      | none => .fault (accessFault acc) va
  else if !canonical va then .fault (pageFault acc) va
  else
    let v := va.toNat % 2 ^ 57
    match c.walkFault.find? fun e => e.page == v / 65536 && e.acc == acc with
    | some e => .fault (if e.kind = 0 then pageFault acc else accessFault acc) va
    | none =>
      match s.tlbFind [if acc = 2 then itlb u else dtlb u, clusterTlb u, dieTlb (dieOf k)] asid v with
      | none => .miss v
      | some e =>
        if !e.permits acc mode (c.csr.mstatus.getLsbD 18) (c.csr.mstatus.getLsbD 19) then .fault (pageFault acc) va
        else if acc = 1 && !e.dirty then .miss v
        else match s.homeAt (e.pa v) e.home.toNat e.kind.toNat (e.oa v) with
          | some h => .ok { loc := e.pa v, home := h, pinned := e.home == 2#2, under := e.under va.toNat asid }
          | none => .fault (accessFault acc) va

/-! ## Pieces of an access -/

/-- A part of an access within one line. -/
structure Piece where
  off : Nat
  n : Nat
  at_ : Spot
  deriving DecidableEq, Repr

/-- The outcome of an access's translation. -/
inductive Pieces where
  | ok (ps : List Piece)
  | fault (cause : Nat) (va : Word)
  | miss (va : Nat)
  deriving DecidableEq, Repr

def piecesFrom (s : State) (k acc : Nat) (va : Word) (n off : Nat) : Nat → Pieces
  | 0 => .ok []
  | fuel + 1 =>
    if n ≤ off then .ok []
    else
      let a := va + BitVec.ofNat 64 off
      let len := min (n - off) (128 - a.toNat % 128)
      match s.xlat k acc a with
      | .fault c v => .fault c v
      | .miss v => .miss v
      | .ok p =>
        match piecesFrom s k acc va n (off + len) fuel with
        | .ok ps => .ok ({ off := off, n := len, at_ := p } :: ps)
        | r => r

/-- The alignment rule of 10 R202 for a misaligned access: future and reduction pages and device registers refuse it. The address is
that of the first byte of the access in the page that refuses (02 R45). -/
def misalignedFault (acc : Nat) (va : Word) (ps : List Piece) : Option (Nat × Word) :=
  match ps.find? fun p => p.at_.home == .future || p.at_.home == .reduction with
  | some p => some (if acc = 0 then 4 else 6, va + BitVec.ofNat 64 p.off)
  | none => (ps.find? fun p => p.at_.home == .device).map fun p => (accessFault acc, va + BitVec.ofNat 64 p.off)

/-- Translate an access of `n` bytes whose elements have `align` bytes: every page is checked before any byte moves
(10 R202; 02 R32). The window begins at a multiple of every element size, so only a misaligned element lies partly in it. -/
def State.pieces (s : State) (k acc : Nat) (va : Word) (n align : Nat) : Pieces :=
  let last := va + BitVec.ofNat 64 (n - 1)
  let c := s.ctx k
  if inWindow last && !inWindow va && va.toNat % align ≠ 0 then .fault (accessFault acc) va
  else if inWindow va && (acc ≠ 2) && c.allocSize < va.toNat % 2 ^ 41 + n then
    .fault 24 (if va.toNat % 2 ^ 41 < c.allocSize then 0xFFFFFE0000000000#64 + BitVec.ofNat 64 c.allocSize else va)
  else match piecesFrom s k acc va n 0 4 with
    | .ok ps =>
      if va.toNat % align ≠ 0 then
        (match misalignedFault acc va ps with
         | some (cause, v) => .fault cause v
         | none => .ok ps)
      else .ok ps
    | r => r

/-! ## Page table entries in use -/

/-- Set bits of an entry at its home (02 R38). -/
def State.setPteBits (s : State) (a e m : Nat) : State := s.putValue a 8 (e ||| m) false

/-- A leaf entry is used: A is set, and D by an access that can modify memory; the entry as a TLB then holds it. -/
def State.usePte (s : State) (a e acc : Nat) (t : TlbEnt) : State × TlbEnt :=
  let m := if acc = 1 then 0x180 else 0x80
  let s := if e ||| m = e then s else s.setPteBits a e m
  (s, { t with perm := t.perm ||| BitVec.ofNat 9 m })

/-! ## Tables whose lines are owned -/

/-- The first entry of a walk that stands in a line which is not `free`: an L1 owns it, and the walk waits for its recall (02 R41; 03 R54).
An entry in the line `own` itself, whose bytes wait for the walk, is read as its home has it (DESIGN CHOICE, L52). -/
def State.tableOwned (s : State) (free : Nat → Bool) (own va asid table level : Nat) : Nat → Option Nat
  | 0 => none
  | fuel + 1 =>
    let a := table + 8 * levelIndex va level
    if !isHbm s.dies table then none
    else if !free a && s.canon a / 128 ≠ own then some a
    else match s.readPte level va asid (s.value a 8) with
      | .next t => s.tableOwned free own va asid t (level + 1) fuel
      | _ => none

/-- A whole walk made at once, for the retranslation of a marked line as a store, when no line of its tables is owned (02 R46 step 5;
05 R108). -/
def State.walkNow (s : State) (va asid table level : Nat) : Nat → State × Option TlbEnt
  | 0 => (s, none)
  | fuel + 1 =>
    let a := table + 8 * levelIndex va level
    if !isHbm s.dies table then (s, none)
    else
      let e := s.value a 8
      if s.anyPoison a 8 || s.mark (a / 128) != .clean then (s, none)
      else match s.readPte level va asid e with
        | .page => (s, none)
        | .access => (s, none)
        | .next t => s.walkNow va asid t (level + 1) fuel
        | .leaf t =>
          if !t.permits 1 .s true false then (s, none)
          else
            let (s, t) := s.usePte a e 1 t
            (s, some t)

/-- The virtual address and the root with which the bytes of a marked line are translated again. The root is that of the tag
context's `satp` at that moment (DESIGN CHOICE, L53); none where no context is left. -/
def State.lineRoot (s : State) (u : Nat) (l : L1Line) : Option (Nat × Nat) :=
  (s.byUid (s.tagUid u l.tag)).map fun c => (l.under.vline * 128 % 2 ^ 57, satpRoot c.csr.satp)

/-- Where the bytes of a line go: a marked line is translated again under the translation that it keeps; nothing where that
fails as a store, or leads to no line of memory (02 R46 step 5; 05 R108). -/
def State.retranslated (s : State) (u : Nat) (l : L1Line) : State × Option (Nat × Home) :=
  if !l.marked || l.mask = 0 then (s, some (l.line, .cached))
  else match s.lineRoot u l with
    | none => (s, none)
    | some (va, root) =>
      match s.walkNow va l.under.asid root 0 4 with
      | (s, none) => (s, none)
      | (s, some e) =>
        match s.homeAt (e.pa va) e.home.toNat e.kind.toNat (e.oa va) with
        | some .core => (s, none)
        | some .device => (s, none)
        | some h => (s, some (e.pa va / 128, h))
        | none => (s, none)

/-- The entry whose line the retranslation of a line waits for. -/
def State.lineNeeds (s : State) (free : Nat → Bool) (u : Nat) (l : L1Line) : Option Nat :=
  if !l.marked || l.mask = 0 then none
  else (s.lineRoot u l).bind fun e => s.tableOwned free (s.canon (l.line * 128) / 128) e.1 l.under.asid e.2 0 4

def State.lineWaits (s : State) (u : Nat) (l : L1Line) : Option Nat := s.lineNeeds s.atHome u l

/-- The dirty bytes of a marked line wait for the recall of a page table's line in the unit's write buffer, in their order with the
unit's other writes (DESIGN CHOICE, L52: 02 R46 says when they are translated again, and names no place where they wait). -/
def State.parkMarked (s : State) (u : Nat) (l : L1Line) (pc : Word) (grp : Option Nat) (as_ : Leaving) : State :=
  let s := match grp with
    | some g => s.addPart g
    | none => s
  (s.staleReqs u l.line).send (laneOut u) (l.line * 128) (.marked (s.tagUid u l.tag) u l pc grp as_)

/-- Write back the bytes in M of a line, translated again where it is marked. -/
def State.sendBack (s : State) (u : Nat) (l : L1Line) (pc : Word) (grp : Option Nat) : State :=
  if (s.lineWaits u l).isSome then s.parkMarked u l pc grp .write
  else
    let (s, dest) := s.retranslated u l
    s.writeBack u l dest pc grp

/-- Give up an Owned line, translated again where it is marked. -/
def State.surrender (s : State) (u : Nat) (l : L1Line) (pc : Word) (grp : Option Nat) : State :=
  if (s.lineWaits u l).isSome then (s.delLine u l.line).parkMarked u l pc grp .giveUp
  else
    let (s, dest) := s.retranslated u l
    s.giveUp u l dest pc grp

/-- The message of bytes of a line that leave for the line's own home. -/
def Leaving.body (as_ : Leaving) (uid u : Nat) (l : L1Line) (m : BitVec 128) (grp : Option Nat) : Body :=
  match as_ with
  | .write => .write uid u l.line l.data m l.poison .cached true grp
  | .giveUp => .giveUp uid u l.line l.data m l.poison grp
  | .recall => .recallRep u l.line l.data m l.poison

/-- The bytes `m` that wait in a write buffer for their page: while an L1 owns a line of its tables, that line is recalled; then they
leave, at the place of `m` among the unit's writes where the page has not moved. -/
def State.unpark (s : State) (m : NetMsg) (uid u : Nat) (l : L1Line) (pc : Word) (grp : Option Nat) (as_ : Leaving) : State :=
  match s.lineNeeds (s.mayAct (.msg m.id)) u l with
  | some a => let s := s.askLine (.msg m.id) a true; { s with net := s.net ++ [m] }
  | none =>
    let (s, dest) := s.retranslated u l
    let s := s.passAll (.msg m.id)
    let (s, k) := s.leaving u l dest pc grp
    if k = 0 && as_ = .write then s.partDone? grp
    else { s with net := s.net ++ [{ m with body := as_.body uid u l k grp }] }

/-- Start the write-backs of a release of a context. -/
def State.release (s : State) (k scope : Nat) : State :=
  s.startRelease k scope fun s l => s.sendBack (unitOf k) l (s.ctx k).nextPc none

/-! ## Walks -/

/-- The misses that a cluster keeps outstanding: the walks, queued or active, for which one of its units waits (02 R43). -/
def State.misses (s : State) (c : Nat) : Nat :=
  (Tbl.get [] s.walkQ c).length + (s.walks.filter fun w => w.waiters.any fun x => clusterOfUnit x.unit == c).length

def Walk.same (w : Walk) (asid va : Nat) : Bool := w.asid == asid && w.va / 65536 == va / 65536 && !w.dead

/-- A requester joins a walk. -/
def Walk.join (w : Walk) (x : Waiter) : Walk := if w.waiters.contains x then w else { w with waiters := w.waiters ++ [x] }

/-- A miss: the requester joins an outstanding walk of the page in its cluster or on its die, or enters its cluster's FIFO where
there is room (02 R43, R44). It stalls. -/
def State.walkFor (s : State) (x : Waiter) (root asid va : Nat) : State :=
  let cl := clusterOfUnit x.unit
  let q := Tbl.get [] s.walkQ cl
  let put := fun (w : Walk) => if w.same asid va then w.join x else w
  if q.any (·.same asid va) then { s with walkQ := Tbl.set [] s.walkQ cl (q.map put) }
  else if s.walks.any fun w => w.same asid va && w.clu / 16 == dieOfUnit x.unit then
    { s with walks := s.walks.map fun w => if w.clu / 16 == dieOfUnit x.unit then put w else w }
  else if 64 ≤ q.length || 256 ≤ s.misses cl then s
  else
    let w : Walk := { id := s.nextId, clu := cl, walker := 0, va := va, asid := asid, root := root, level := 0, table := root,
                      waiters := [x], dead := false }
    { s with nextId := s.nextId + 1, walkQ := Tbl.set [] s.walkQ cl (q ++ [w]) }

/-- The TLB that a context's accesses of a kind use first. -/
def unitTlb (u acc : Nat) : Nat := if acc = 2 then itlb u else dtlb u

/-- A miss of a context. -/
def State.startWalk (s : State) (k acc va : Nat) : State :=
  let c := s.ctx k
  s.walkFor { who := .ctx c.uid, acc := acc, unit := unitOf k, tlb := some (unitTlb (unitOf k) acc), mode := c.accMode acc,
              sum := c.csr.mstatus.getLsbD 18, mxr := c.csr.mstatus.getLsbD 19 }
    (satpRoot c.csr.satp) (satpAsid c.csr.satp) va

/-! ## The translations of engines -/

/-- The faults that walks have found for a requester. -/
def State.walkFaultsOf (s : State) (a : Asker) : List WalkFault :=
  match a with
  | .ctx uid => ((s.byUid uid).map (·.walkFault)).getD []
  | .xfer x => ((s.xfer x).map (·.walkFault)).getD []
  | .launch l => (s.walkFaults.filter fun e => e.1 == l).map (·.2)

/-- Record a fault of a walk for a requester: it is raised when the access is made again (02 R45). -/
def State.walkFaulted (s : State) (a : Asker) (f : WalkFault) : State :=
  match a with
  | .ctx uid => s.modUid uid fun c => { c with walkFault := c.walkFault ++ [f] }
  | .xfer x =>
    match s.xfer x with
    | some t => s.setXfer x (some { t with walkFault := t.walkFault ++ [f] })
    | none => s
  | .launch l => { s with walkFaults := s.walkFaults ++ [(l, f)] }

/-- A fault that hardware's reading of a launch's tables has taken. -/
def State.walkFaultTaken (s : State) (a : Asker) (f : WalkFault) : State :=
  match a with
  | .launch l => { s with walkFaults := s.walkFaults.filter fun e => !(e == (l, f)) }
  | _ => s

/-- The outcome of a translation for an engine: `wait` where a walk is under way. -/
inductive EngXl where
  | ok (p : Spot)
  | fault (cause : Nat)
  | wait
  deriving DecidableEq, Repr

/-- Who asks for a translation, and under what: the agent, its unit, its own TLB, its root, mode and status bits. -/
structure EngReq where
  who : Asker
  unit : Nat
  tlb : Option Nat
  satp : Word
  mode : Mode
  sum : Bool
  mxr : Bool
  deriving DecidableEq, Repr

/-- The translation that an engine makes (02 R31, R32, R42 to R45): its own TLB, its cluster's and its die's, then a walk. The
cluster window uses none of them (R32): an engine that may reach it resolves the address itself, and for the others the answer
is a window of which they use only the kind. -/
def State.engineXlat (s : State) (q : EngReq) (acc : Nat) (va : Word) : State × EngXl :=
  let asid := satpAsid q.satp
  let at_ := fun (s : State) (pa home kind oa : Nat) (pinned : Bool) (un : Under) =>
    match s.homeAt pa home kind oa with
    | some h => EngXl.ok { loc := pa, home := h, pinned := pinned, under := un }
    | none => EngXl.fault (accessFault acc)
  if inWindow va then (s, .ok (.bare (2 ^ 52 + clusterOfUnit q.unit * 2 ^ 23) .window))
  else if q.mode = .m || !satpOn q.satp then
    if 2 ^ 52 ≤ va.toNat then (s, .fault (accessFault acc))
    else (s, at_ s va.toNat (if isCoreSram s.dies va.toNat then 3 else 0) 0 va.toNat false Under.none)
  else if !canonical va then (s, .fault (pageFault acc))
  else
    let v := va.toNat % 2 ^ 57
    match (s.walkFaultsOf q.who).find? fun e => e.page == v / 65536 && e.acc == acc with
    | some f => (s.walkFaultTaken q.who f, .fault (if f.kind = 0 then pageFault acc else accessFault acc))
    | none =>
      match s.tlbFind (q.tlb.toList ++ [clusterTlb q.unit, dieTlb (dieOfUnit q.unit)]) asid v with
      | some e =>
        if !e.permits acc q.mode q.sum q.mxr then (s, .fault (pageFault acc))
        else if acc = 1 && !e.dirty then (s.walkFor { who := q.who, acc := acc, unit := q.unit, tlb := q.tlb, mode := q.mode,
                                                      sum := q.sum, mxr := q.mxr } (satpRoot q.satp) asid v, .wait)
        else (s, at_ s (e.pa v) e.home.toNat e.kind.toNat (e.oa v) (e.home == 2#2) (e.under va.toNat asid))
      | none => (s.walkFor { who := q.who, acc := acc, unit := q.unit, tlb := q.tlb, mode := q.mode, sum := q.sum, mxr := q.mxr }
                   (satpRoot q.satp) asid v, .wait)

end Sys2Proof.Machine
end

