-- ==== Sys2Proof/Machine/Ops.lean ====
section
/-! DEFINITION. The named operations of the machine: barrier objects, rank entries, the end of a lease region, taking a
trap or an interrupt and returning from one (15 R314 to R316; 18 R365 to R371), and the checks that every instruction
passes before it issues (09 R166; 06 R113). -/
namespace Sys2Proof.Machine

abbrev Out := Host.Outcome State Fault Refusal

/-! ## Barrier objects -/

/-- An update of a barrier object's two doubles, with the completion of a phase (11 R234, R235). -/
def barrierStep (d0 d1 : Nat) : Nat × Nat :=
  if d0 / 2 ^ 63 % 2 = 1 && field d0 16 16 = 0 && field d1 0 36 = 0 then
    let count := field d0 0 16
    (count + count * 2 ^ 16 + (field d0 32 16 + 1) % 2 ^ 16 * 2 ^ 32 + field d0 48 16 * 2 ^ 48, d1)
  else (d0, d1)

/-- Write a barrier object and apply R235. -/
def State.setBarrier (s : State) (a d0 d1 : Nat) : State :=
  let (e0, e1) := barrierStep d0 d1
  (s.putValue a 8 e0 false).putValue (a + 8) 8 e1 false

/-- Settle bytes of a Dray transfer on its barrier object (04 R88). -/
def State.settle (s : State) (a n : Nat) : State :=
  let d1 := s.value (a + 8) 8
  s.setBarrier a (s.value a 8) (d1 / 2 ^ 36 * 2 ^ 36 + (field d1 0 36 - n))

/-- A held launch that is discarded undoes what the read of `cplaunch` did (04 R77). -/
def State.discardLaunch (s : State) (x : Nat) : State :=
  match s.xfer x with
  | none => s
  | some t =>
    let s := if t.par.mode.getLsbD 8 then s.settle t.barLoc t.left else s
    (s.setXfer x none).modUid t.uid fun c => c.uncount .cp

/-! ## Rank entries -/

/-- The `satp` of every context of a launch: D7 of its packet, as a write of the register takes it (17 R345; 02 R33). -/
def Launch.satp (v : Launch) : Word := satpWrite 0 (v.words.getD 7 0)

/-- The place of a rank's entry: a location, a cause with the entry's virtual address, or a walk under way. -/
inductive RankAt where
  | at_ (a : Nat)
  | fault (cause : Nat) (va : Word)
  | wait
  deriving DecidableEq, Repr

/-- The place of a rank's entry in a launch's table: translated for a unit's interface as an S-mode access with SUM = 1
(12 R240). -/
def State.rankAddr (s : State) (u l : Nat) (rank acc : Nat) : State × RankAt :=
  match s.launch l with
  | none => (s, .fault (accessFault acc) 0)
  | some v =>
    let va := v.rtBase + BitVec.ofNat 64 (8 * rank)
    match s.engineXlat { who := .launch l, unit := u, tlb := none, satp := v.satp, mode := .s, sum := true,
                         mxr := false } acc va with
    | (s, .wait) => (s, .wait)
    | (s, .fault c) => (s, .fault c va)
    | (s, .ok p) =>
      if isHbm s.dies p.loc && p.home != .future && p.home != .reduction then (s, .at_ p.loc)
      else (s, .fault (accessFault acc) va)

/-- The same for a tagged request of the entry: a home whose path has been declared failed raises REMOTE (03 R58). -/
def State.rankHome (s : State) (u l rank : Nat) : State × RankAt :=
  match s.rankAddr u l rank 1 with
  | (s, .at_ a) =>
    if s.mgmt.failedHomes.contains (s.homeOf a) then
      (s, .fault 30 (((s.launch l).map (·.rtBase)).getD 0 + BitVec.ofNat 64 (8 * rank)))
    else (s, .at_ a)
  | r => r

/-- A rank lies in a launch's table. -/
def State.rankIn (s : State) (l rank : Nat) : Bool :=
  match s.launch l with
  | some v => rank < 2 ^ 32 && rank < v.rtCount
  | none => false

/-- A core or an engine can hold work; and it can take new work (17 R364; 20 R402, R405). -/
def State.working (s : State) (u : Nat) : Bool := s.standing u && !(s.island (unitIsland u)).gated && !s.unitHeld u
def State.active (s : State) (u : Nat) : Bool := s.working u && !s.unitMoving u

/-- The core that an entry names, as a unit number. -/
def entryCore (e : Nat) : Nat := (field e 16 2 * 16 + field e 18 4) * 128 + field e 22 6

/-- An entry names something: reserved fields are 0, and an entry of the own package names a core that stands (12 R240). -/
def State.entryPresent (s : State) (e : Nat) : Bool :=
  field e 3 5 = 0 && e / 2 ^ 31 = 0 && (field e 8 8 ≠ s.ownPkg || s.standing (entryCore e))

def entryState (e : Nat) : Nat := field e 0 2
def entryLight (e : Nat) : Bool := field e 2 1 = 1
def entryPkg (e : Nat) : Nat := field e 8 8

/-- The entry that places a rank at a core and set. -/
def mkEntry (st : Nat) (light : Bool) (pkg unit set : Nat) : Nat :=
  st + (if light then 4 else 0) + pkg * 256 + dieOfUnit unit * 2 ^ 16 + clusterOfUnit unit % 16 * 2 ^ 18
    + unit % 128 * 2 ^ 22 + set * 2 ^ 28

/-- A change of an entry. -/
def EntryOp.apply (o : EntryOp) (e : Nat) : Nat :=
  match o with
  | .vacate => e / 4 * 4 % 2 ^ 28
  | .transit => e / 4 * 4 + 3
  | .put v => v

/-- Hardware changes an entry by a tagged request at its home, here of the context at a place; the changes of one rank keep their order
(12 R241). Which agent's tag it carries the spec leaves open: that of the context (DESIGN CHOICE, L92). -/
def State.changeEntry (s : State) (k u l rank ctxid : Nat) (o : EntryOp) : State :=
  let c := s.ctx k
  (s.send (2 ^ 51) ((l * 2 ^ 32 + rank) * 128) (.entry (c.tag k) u l rank ctxid o)).modCtx k fun c =>
    { c with seq := c.seq + 1, unanswered := c.unanswered ++ [c.seq], tagAt := s.now k }

/-- The home has room for a request that has a tag, and records it. -/
def State.tagged? (s : State) (a : Nat) (t : Option Tag) : Option State :=
  match t with
  | none => some s
  | some t => if s.tagRoom a 1 t then some (s.recordTag a t) else none

/-- The change at the home: whether it is done. It waits for a walk, while an L1 owns the line, and for room in the de-duplication
table; one that fails leaves the entry and writes a machine-check record (12 R240). The distributor's own has no tag. -/
def State.entryStep (s : State) (who : Agent) (t : Option Tag) (u l rank ctxid : Nat) (o : EntryOp) : State × Bool :=
  match s.rankHome u l rank with
  | (s, .wait) => (s, false)
  | (s, .fault _ _) => (s.mcRecord 11 5 0 (unitCode u) ctxid, true)
  | (s, .at_ a) =>
    s.inTurn who a false false <|
      match s.tagged? a t with
      | some s => (s.putValue a 8 (o.apply (s.value a 8)) false, true)
      | none => (s, false)

/-- A change of an entry of a launch is still on its way. -/
def State.changing (s : State) (l : Nat) : Bool := s.net.any fun m =>
  match m.body with
  | .entry _ _ x _ _ _ => x == l
  | _ => false

/-- A change of the entry of a rank is still on its way. -/
def State.changingRank (s : State) (l rank : Nat) : Bool := s.net.any fun m =>
  match m.body with
  | .entry _ _ x r _ _ => x == l && r == rank
  | _ => false

/-- Make a rank vacant. -/
def State.vacate (s : State) (k l rank ctxid : Nat) : State := s.changeEntry k (unitOf k) l rank ctxid .vacate

/-! ## Recalls at the L1, and the end of a lease region -/

/-- The owner answers a recall: it writes back its dirty bytes and keeps the line Valid for a read, or drops it
(03 R55). The host answers a back-invalidate snoop with no bytes: those that it has changed come as its writes before (19 R393). -/
def State.serveRecall (s : State) (u line : Nat) (forRead : Bool) : State :=
  if u = hostUnit then s.send (laneOut u) (line * 128) (.recallRep u line 0 0 0)
  else match s.l1Line u line with
  | none => s
  | some l =>
    if l.st != .owned then s
    else if (s.lineWaits u l).isSome then (s.delLine u line).parkMarked u l 0 none .recall
    else
      let (s, dest) := s.retranslated u l
      let (s, m) := s.leaving u l dest 0 none
      let s := if forRead && !l.marked then s.putLine u { l with st := .valid, mask := 0, marked := false }
               else (s.delLine u line).staleReqs u line
      s.send (laneOut u) (line * 128) (.recallRep u line l.data m l.poison)

/-- Serve the queued recalls of a core whose lines no armed region holds any more, in arrival order (06 R116, R119). -/
def State.serveQueued (s : State) (u : Nat) : State :=
  let q := (s.core u).recalls
  let free := q.filter fun e => (s.leasedBy u e.1).isNone
  let s := s.setCore u { s.core u with recalls := q.filter fun e => (s.leasedBy u e.1).isSome }
  free.foldl (fun s e => s.serveRecall u e.1 e.2) s

/-- A region ends without effect on memory: its slot is free and the queued recalls are served. -/
def State.endRegion (s : State) (k : Nat) : State := (s.modCtx k fun c => { c with lease := .idle }).serveQueued (unitOf k)

/-- The loads that a region has issued complete into the L1D only; those issued before it keep their registers (06 R118). -/
def State.orphanLoads (s : State) (uid since : Nat) : State :=
  { s with pends := s.pends.map fun e =>
      (e.1, e.2.map fun p => if p.uid == uid && since ≤ e.1 then { p with dst := .none } else p) }

/-- Break an armed region (06 R118): the shadows go, x1 to x31 and the PC are restored, LRC rises. -/
def State.breakRegion (s : State) (k : Nat) : State :=
  match (s.ctx k).lease with
  | .armed r =>
    let s := s.modCtx k fun c =>
      { (c.modLane 0 fun l => { l with x := r.ckpt, pc := r.pc }) with lrc := min (c.lrc + 1) 255, phase := 0 }
    (s.orphanLoads (s.ctx k).uid r.since).endRegion k
  | .acquiring _ _ _ => s.endRegion k
  | .idle => s

/-! ## Waiting instructions -/

/-- A context that leaves a waiting instruction sends a cancel for its deferred future loads; the instruction has not
retired and executes again (03 R68). -/
def State.cancelWaits (s : State) (k : Nat) : State :=
  let c := s.ctx k
  match c.block with
  | none => s.modCtx k fun c => { c with phase := 0, walkFault := [], look := [] }
  | some g =>
    if c.phase = 0 then s
    else
      let s := { s with pends := s.pends.filter fun (e : Nat × Option Pend) => !(e.2.map Pend.grp == some g) }
      let s := (s.setGroup g none).modCtx k fun c =>
        { (c.uncount .ld) with block := none, phase := 0, walkFault := [], look := [] }
      s.send (laneOut (unitOf k)) 0 (.cancel c.uid)

/-! ## Aborted tasks -/

/-- Discard what a handler task holds, return its claimed ranks to vacant, and put it back at the head of its queue
(12 R251; 18 R369, R370). -/
def State.abortTask (s : State) (k : Nat) : State :=
  let c := s.ctx k
  match c.task with
  | none => s
  | some t =>
    let s := t.held.foldl (fun s h =>
      match h with
      | .launch x => s.discardLaunch x
      | .msg _ g | .cdec _ _ g | .arrival _ _ g => s.partDone g
      | .push _ _ _ => s) s
    let l := match t.work with
      | .message m => m.launch
      | .codelet d => d.launch
    let s := t.claimed.foldl (fun s r => s.vacate k l r.toNat c.ctxid.toNat) s
    let u := unitOf k
    let (s, n, w) := match t.work with
      | .message m =>
        let m := { m with aborts := min (m.aborts + 1) 255 }
        (s.setCore u { s.core u with inq := m :: (s.core u).inq }, m.aborts, Work.message m)
      | .codelet d =>
        let d := { d with aborts := min (d.aborts + 1) 255 }
        (s.setCore u { s.core u with ring := d :: (s.core u).ring, armed := (s.core u).armed + 1 }, d.aborts,
          Work.codelet d)
    s.modCtx k fun c => { c with task := none, aborted := some { work := w, aborts := n, drop := false } }

/-! ## Trap entry and return -/

def Mode.code : Mode → Nat
  | .u => 0
  | .s => 1
  | .m => 3

def Mode.ofCode (n : Nat) : Mode := if n = 0 then .u else if n = 1 then .s else .m

def setField (w : Word) (lo len v : Nat) : Word :=
  BitVec.ofNat 64 (w.toNat / 2 ^ (lo + len) * 2 ^ (lo + len) + v % 2 ^ len * 2 ^ lo + w.toNat % 2 ^ lo)

/-- A trap is delegated to S mode: from S or U mode, by its `medeleg` or `mideleg` bit; REGMISS never is (15 R315). -/
def Ctx.delegated (c : Ctx) (intr : Bool) (code : Nat) : Bool :=
  c.mode != .m && (if intr then code = 21 || (code ≠ 20 && c.csr.mideleg.getLsbD code)
                   else code ≠ 31 && c.csr.medeleg.getLsbD code)

/-- The status, mode and trap CSRs of an entry into M or S mode. -/
def Ctx.enterMode (c : Ctx) (toS : Bool) (cause tval epc mask : Word) : Ctx :=
  let st := c.csr.mstatus
  if toS then
    let st := setField st 5 1 (if st.getLsbD 1 then 1 else 0)
    let st := setField (setField st 1 1 0) 8 1 (if c.mode = .u then 0 else 1)
    { c with mode := .s, csr := { c.csr with mstatus := st, sepc := epc, scause := cause, stval := tval, sfmask := mask } }
  else
    let st := setField st 7 1 (if st.getLsbD 3 then 1 else 0)
    let st := setField (setField st 3 1 0) 11 2 c.mode.code
    { c with mode := .m, csr := { c.csr with mstatus := st, mepc := epc, mcause := cause, mtval := tval, mfmask := mask } }

/-- The lanes of the trapping issue enter the handler together; every other runnable lane is parked (15 R316). -/
def Ctx.enterLanes (c : Ctx) (ls : List Nat) (pc : Word) : Ctx :=
  let d := c.depth + 1
  let c := c.mapLanes fun i (l : Lane) =>
    if ls.contains i then { l with pc := pc }
    else if l.st == .runnable then { l with st := .trap, depth := d } else l
  { c with depth := d }

/-- A context reads bytes that hold an uncorrectable error: a machine check is pending for it (18 R377; 20 R400). -/
def State.meets (s : State) (uid loc n : Nat) : State :=
  match s.mgmt.badBytes.find? fun e => loc ≤ e.1 && e.1 < loc + n && s.bytePoison e.1 with
  | none => s
  | some e =>
    let s := { s with mgmt := { s.mgmt with badBytes := s.mgmt.badBytes.filter fun f => f.1 != e.1 } }
    s.modUid uid fun c => c.raiseCheck (BitVec.ofNat 32 e.2)

/-- The handler's address: direct mode (15 R314). -/
def Ctx.handlerPc (c : Ctx) (toS : Bool) : Word := (if toS then c.csr.stvec else c.csr.mtvec) &&& ~~~3#64

/-- The entry of a trap or an interrupt, once what it interrupts has ended: the saved registers, the mode, the lanes, and
the trap-handler watchdog, which counts from an entry out of U mode (18 R378). -/
def State.enterIn (s : State) (k : Nat) (toS intr : Bool) (code : Nat) (tval epc : Word) (ls : List Nat) : State :=
  s.modCtx k fun c =>
    let cause := BitVec.ofNat 64 (code + if intr then 2 ^ 63 else 0)
    let dog := if c.mode = .u then some (s.now k) else c.dog
    let c := c.enterLanes ls (c.handlerPc toS)
    { c.enterMode toS cause tval epc (laneMask k ls) with dog := dog, wfi := false }

/-- The entry in the mode that the delegation registers select (15 R315). -/
def State.enter (s : State) (k : Nat) (intr : Bool) (code : Nat) (tval epc : Word) (ls : List Nat) : State :=
  s.enterIn k ((s.ctx k).delegated intr code) intr code tval epc ls

/-- Take an exception (18 R365, R366): a lease region breaks first, and `epc` is then the lease's PC (06 R118); a handler
task is aborted (R369); the lanes `ls` enter the handler. -/
def State.trap (s : State) (k cause : Nat) (tval epc : Word) (ls : List Nat) : State :=
  let armed := (s.ctx k).region
  let s := (s.cancelWaits k).breakRegion k
  let epc := match armed with
    | some r => r.pc
    | none => epc
  (s.abortTask k).enter k false cause tval epc ls

/-- Take an interrupt at a boundary: the lanes at the smallest PC enter, and the epc is the next instruction (18 R365,
R367). -/
def State.interrupt (s : State) (k code : Nat) (tval : Word) : State :=
  let s := (s.cancelWaits k).breakRegion k
  let s := if code = 20 then s.abortTask k else s
  let c := s.ctx k
  s.enter k true code tval c.nextPc c.executing

/-- The lanes that a trap of the current depth parked issue again (15 R316). -/
def Ctx.leaveLanes (c : Ctx) (pc : Word) : Ctx :=
  let c := c.mapLanes fun _ (l : Lane) =>
    if l.st == .runnable then { l with pc := pc }
    else if l.st == .trap && l.depth == c.depth then { l with st := .runnable, depth := 0 } else l
  { c with depth := c.depth - 1 }

/-- The next task of a handler set after the trap of an aborted task: the one that was returned to its queue, or, where it is dropped and
leaves the queue, the next in turn (18 R371). -/
def State.afterAbort (s : State) (k : Nat) (a : Aborted) : State :=
  let u := unitOf k
  let s := if a.drop then
      s.setCore u (match a.work with
        | .message _ => { s.core u with inq := (s.core u).inq.drop 1 }
        | .codelet _ => { s.core u with ring := (s.core u).ring.drop 1, armed := (s.core u).armed - 1 })
    else s
  let s := if a.drop then s
    else s.setCore u { s.core u with alt := match a.work with
      | .message _ => false
      | .codelet _ => true }
  s.modCtx k fun c => { c with aborted := none, depth := 0, dog := none, lanes := [] }

/-- `mret` and `sret`: the mode and status are restored, and the handler's lanes go to `mepc` or `sepc` (15 R316). The
return from the trap of an aborted task does not go back to the task (18 R371). The `mret` of a machine check's own entry ends it, and
that of a trap nested in it does not (R377). -/
def State.trapReturn (s : State) (k : Nat) (fromS : Bool) : State :=
  let c := s.ctx k
  let st := c.csr.mstatus
  let prev := if fromS then (if st.getLsbD 8 then Mode.s else .u) else Mode.ofCode (bits 11 2 st).toNat
  let st := if fromS then setField (setField (setField st 1 1 (if st.getLsbD 5 then 1 else 0)) 5 1 1) 8 1 0
            else setField (setField (setField st 3 1 (if st.getLsbD 7 then 1 else 0)) 7 1 1) 11 2 0
  let st := if prev = .m then st else setField st 17 1 0
  let epc := if fromS then c.csr.sepc else c.csr.mepc
  let depth := c.depth
  let last := depth ≤ 1
  let c := { (c.leaveLanes epc).retireAt with mode := prev }
  let c := { c with csr := { c.csr with mstatus := st }, dog := if prev = .u then none else c.dog,
                    mcBusy := if !fromS && c.mcBusy.any (fun d => depth ≤ d) then none else c.mcBusy }
  let s := s.setCtx k c
  match c.aborted with
  | some a => if last then s.afterAbort k a else s
  | none =>
    if last && isHandler k && c.task.isNone then s.modCtx k fun c => { c with depth := 0, dog := none, lanes := [] } else s

/-! ## CSR access rights -/

/-- The CSRs that the device implements (10 R208): 04 R73, 07 R143, 10 R209, 15 R313 to R318, R447, 18 R374, R381. -/
def csrKnown (n : Nat) : Bool :=
  [0x001, 0x002, 0x003, 0x100, 0x104, 0x105, 0x106, 0x140, 0x141, 0x142, 0x143, 0x144, 0x180, 0x300, 0x302, 0x303, 0x304,
   0x305, 0x306, 0x340, 0x341, 0x342, 0x343, 0x344, 0x5C0, 0x5C1, 0x5C2, 0x5C3, 0x5C4, 0x5C5, 0x5C6, 0x7C0, 0x800, 0x801,
   0x802, 0x803, 0x804, 0x805, 0x806, 0x807, 0x808, 0x809, 0x840, 0x841, 0x842, 0xCC0, 0xCC1, 0xCC2, 0xCC3, 0xCC4, 0xF11,
   0xF12, 0xF13, 0xF14, 0xF15, 0xB00, 0xB01, 0xB02].contains n
  || (0x323 ≤ n && n ≤ 0x33F) || (0xB03 ≤ n && n ≤ 0xB1F) || (0xC00 ≤ n && n ≤ 0xC1F)

/-- A counter read that `mcounteren` or `scounteren` does not enable (10 R208). -/
def Ctx.counterOff (c : Ctx) (n : Nat) : Bool :=
  0xC00 ≤ n && n ≤ 0xC1F && c.mode != .m &&
    (!c.csr.mcounteren.getLsbD (n - 0xC00) || (c.mode = .u && !c.csr.scounteren.getLsbD (n - 0xC00)))

/-- A CSR access is not permitted: sub-code 0x0005 (10 R208). -/
def Ctx.csrDenied (c : Ctx) (n : Nat) (write : Bool) : Bool :=
  !csrKnown n || c.mode.code < n / 256 % 4 || (write && n / 1024 = 3) || c.counterOff n
    || (n = 0x180 && c.mode = .s && c.csr.mstatus.getLsbD 20)

/-- The CSRs whose read has an action of its own (07 R126): `cplaunch` (04 R77) and `sdwq` (18 R374). -/
def csrActs (n : Nat) : Bool := n = 0xCC0 || n = 0x5C4

/-- The CSR number of a Zicsr instruction, and whether it writes (10 R207). -/
def Instr.csrUse : Instr → Option (Nat × Bool)
  | .csrrw n _ _ => some (n.toNat, true)
  | .csrrs n a _ => some (n.toNat, a != 0#5)
  | .csrrc n a _ => some (n.toNat, a != 0#5)
  | .csrrwi n _ _ => some (n.toNat, true)
  | .csrrsi n u _ => some (n.toNat, u != 0#5)
  | .csrrci n u _ => some (n.toNat, u != 0#5)
  | _ => none

/-! ## The checks before an instruction -/

/-- The instruction belongs to the SIMT engine alone (09 R169 to R183). -/
def Instr.waveOnly : Instr → Bool
  | .wret | .regroup _ | .wsync | .voteAny _ _ | .voteAll _ _ | .ballot _ _ | .shfl _ _ _ | .shflXor _ _ _
  | .rdlane _ _ _ | .quadSx _ _ | .quadSy _ _ | .quadSd _ _ | .quadBc _ _ _ | .ishelper _ | .mma _ _ _ | .mzero _
  | .epi _ _ | .mlink _ _ | .mmaSp _ _ _ _ => true
  | _ => false

/-- The instruction belongs to the scalar core alone. -/
def Instr.scalarOnly : Instr → Bool
  | .lease _ _ _ | .lease2 _ _ _ _ | .lclose | .labort | .hend | .migrateAddr _ | .migrateRank _ | .wavego _ _
  | .vlW _ _ _ | .vsW _ _ _ _ | .vadd _ _ _ _ | .vsub _ _ _ _ | .vmul _ _ _ _ | .vmin _ _ _ _ | .vmax _ _ _ _
  | .vbc _ _ _ | .bsort _ _ _ | .bmerge _ _ _ _ | .vfma _ _ _ _ _ => true
  | _ => false

/-- The current mode forbids the instruction (02 R46; 09 R179; 15 R313, R316, R317): sub-code 0x0004. -/
def Ctx.modeDenied (c : Ctx) : Instr → Bool
  | .rtabSet _ _ | .ctxTag _ | .islandQuery _ _ _ | .islandSetPoint _ _ _ | .islandGate _ _ _ | .islandUngate _ _ _
  | .msave _ _ | .mrest _ _ => c.mode = .u
  | .sfenceVma _ _ => c.mode = .u || (c.mode = .s && c.csr.mstatus.getLsbD 20)
  | .mret => c.mode != .m
  | .sret => c.mode = .u || (c.mode = .s && c.csr.mstatus.getLsbD 22)
  | .wfi => c.mode != .m && c.csr.mstatus.getLsbD 21
  | _ => false

/-- The rm field of an instruction that carries one. -/
def Instr.rmField : Instr → Option (BitVec 3)
  | .fpFused _ _ _ _ r _ _ => some r
  | .fpArith _ _ _ _ r _ => some r
  | .fsqrt _ _ r _ => some r
  | .fcvtSD _ r _ => some r
  | .fcvtDS _ r _ => some r
  | .fcvtToInt _ _ _ r _ => some r
  | .fcvtFromInt _ _ _ r _ => some r
  | _ => none

/-- A lane whose `frm` is no mode executes an instruction that takes its mode from it (08 R160). A helper lane is not checked; under such a
`frm` it rounds as RMM (10 R201; DESIGN CHOICE, L84). -/
def Ctx.rmBad (c : Ctx) (ls : List Nat) (i : Instr) : Bool :=
  match Instr.rmField i with
  | some r => (c.workers ls).any fun l => !(c.lane l).rmOk r
  | none => false

/-- An instruction that the context's own state makes illegal: `migrate` outside a light thread, `uiret` outside a user-interrupt
handler, `wret` outside a gathered wave, `regroup` in one or in a ganged pair, `wavego` in the handler set (12 R260, R262;
13 R266, R268, R273): sub-code 0x0001. -/
def Ctx.stateDenied (c : Ctx) (k : Nat) : Instr → Bool
  | .migrateAddr _ | .migrateRank _ => !c.light
  | .uiret => !c.inUser
  | .wret => !c.gath
  | .regroup _ => c.gath || c.ganged
  | .wavego _ _ => isHandler k
  | _ => false

/-- A short-vector operation that rounds, while the thread set's `frm` holds no mode (13 R282). -/
def Ctx.vecRmBad (c : Ctx) : Instr → Bool
  | .vadd _ _ _ _ | .vsub _ _ _ _ | .vmul _ _ _ _ | .vmin _ _ _ _ | .vmax _ _ _ _ | .vfma _ _ _ _ _ => 4 < (c.lane 0).frm
  | _ => false

/-- The sub-code of the first check of 09 R166 that an instruction fails. `msave` and `mrest` take the order of
15 R320 (DEDUCED, L93). -/
def Ctx.illegal (c : Ctx) (k : Nat) (ls : List Nat) (i : Instr) : Option Nat :=
  let wave := isWave k
  match i with
  | .msave _ _ | .mrest _ _ => if c.modeDenied i then some 4 else if !wave then some 2 else if !i.inLimits then some 1 else none
  | _ =>
    if !i.assigned || c.rmBad ls i || (!wave && c.vecRmBad i) then some 0
    else if !i.inLimits then some 1
    else if !wave && Instr.waveOnly i then some 2
    else if wave && Instr.scalarOnly i then some 3
    else if c.modeDenied i then some 4
    else if c.stateDenied k i then some 1
    else match Instr.csrUse i with
      | some (n, w) => if c.csrDenied n w then some 5 else none
      | none => none

/-- An instruction that an armed region may hold (06 R113). `lease` and `lease2` have their own sub-code. -/
def Instr.regionOk : Instr → Bool
  | .lui _ _ | .auipc _ _ | .jal _ _ | .jalr _ _ _ | .branch _ _ _ _ _ | .load _ _ _ _ | .store _ _ _ _ _
  | .opImm _ _ _ _ | .slli _ _ _ | .srli _ _ _ | .srai _ _ _ | .addiw _ _ _ | .slliw _ _ _ | .srliw _ _ _
  | .sraiw _ _ _ | .op _ _ _ _ | .sub _ _ _ | .sra _ _ _ | .op32 _ _ _ _ | .subw _ _ _ | .sraw _ _ _ | .mul _ _ _ _
  | .div _ _ _ _ | .mulw _ _ _ | .divw _ _ _ _ | .shadd _ _ _ _ | .addUw _ _ _ | .shaddUw _ _ _ _ | .slliUw _ _ _
  | .andnOrnXnor _ _ _ _ | .minMax _ _ _ _ | .rolRor _ _ _ _ | .rolwRorw _ _ _ _ | .rori _ _ _ | .roriw _ _ _
  | .clzCtzCpopSext _ _ _ | .clzwCtzwCpopw _ _ _ | .orcB _ _ | .rev8 _ _ | .zextH _ _ | .lclose | .labort
  | .lease _ _ _ | .lease2 _ _ _ _ => true
  | .fence _ p q _ _ => p = 0#4 || q = 0#4
  | .pfL1 _ a k => a = 0#5 || k != 0#5
  | .pfL2 _ a => a = 0#5
  | _ => false

/-- The registers that an instruction reads or writes: x as 0 to 31, f as 32 to 63, w as 64 to 95. -/
def Instr.regs : Instr → List Nat
  | .lui _ d => [d.toNat]
  | .auipc _ d => [d.toNat]
  | .jal _ d => [d.toNat]
  | .jalr _ a d => [a.toNat, d.toNat]
  | .branch _ b a _ _ => [a.toNat, b.toNat]
  | .load _ a _ d => [a.toNat, d.toNat]
  | .store _ b a _ _ => [a.toNat, b.toNat]
  | .opImm _ a _ d => [a.toNat, d.toNat]
  | .slli _ a d => [a.toNat, d.toNat]
  | .srli _ a d => [a.toNat, d.toNat]
  | .srai _ a d => [a.toNat, d.toNat]
  | .addiw _ a d => [a.toNat, d.toNat]
  | .slliw _ a d => [a.toNat, d.toNat]
  | .srliw _ a d => [a.toNat, d.toNat]
  | .sraiw _ a d => [a.toNat, d.toNat]
  | .op b a _ d => [a.toNat, b.toNat, d.toNat]
  | .sub b a d => [a.toNat, b.toNat, d.toNat]
  | .sra b a d => [a.toNat, b.toNat, d.toNat]
  | .op32 b a _ d => [a.toNat, b.toNat, d.toNat]
  | .subw b a d => [a.toNat, b.toNat, d.toNat]
  | .sraw b a d => [a.toNat, b.toNat, d.toNat]
  | .fence _ _ _ _ _ => []
  | .fenceI _ _ _ => []
  | .ecall => []
  | .ebreak => []
  | .mul b a _ d => [a.toNat, b.toNat, d.toNat]
  | .div b a _ d => [a.toNat, b.toNat, d.toNat]
  | .mulw b a d => [a.toNat, b.toNat, d.toNat]
  | .divw b a _ d => [a.toNat, b.toNat, d.toNat]
  | .shadd b a _ d => [a.toNat, b.toNat, d.toNat]
  | .addUw b a d => [a.toNat, b.toNat, d.toNat]
  | .shaddUw b a _ d => [a.toNat, b.toNat, d.toNat]
  | .slliUw _ a d => [a.toNat, d.toNat]
  | .andnOrnXnor b a _ d => [a.toNat, b.toNat, d.toNat]
  | .minMax b a _ d => [a.toNat, b.toNat, d.toNat]
  | .rolRor b a _ d => [a.toNat, b.toNat, d.toNat]
  | .rolwRorw b a _ d => [a.toNat, b.toNat, d.toNat]
  | .rori _ a d => [a.toNat, d.toNat]
  | .roriw _ a d => [a.toNat, d.toNat]
  | .clzCtzCpopSext _ a d => [a.toNat, d.toNat]
  | .clzwCtzwCpopw _ a d => [a.toNat, d.toNat]
  | .orcB a d => [a.toNat, d.toNat]
  | .rev8 a d => [a.toNat, d.toNat]
  | .zextH a d => [a.toNat, d.toNat]
  | .fpLoad _ a _ d => [a.toNat, 32 + d.toNat]
  | .fpStore _ b a _ _ => [a.toNat, 32 + b.toNat]
  | .fpFused c _ b a _ d _ => [32 + a.toNat, 32 + b.toNat, 32 + c.toNat, 32 + d.toNat]
  | .fpArith _ _ b a _ d => [32 + a.toNat, 32 + b.toNat, 32 + d.toNat]
  | .fsqrt _ a _ d => [32 + a.toNat, 32 + d.toNat]
  | .fsgnj _ b a _ d => [32 + a.toNat, 32 + b.toNat, 32 + d.toNat]
  | .fminFmax _ b a _ d => [32 + a.toNat, 32 + b.toNat, 32 + d.toNat]
  | .fcvtSD a _ d => [32 + a.toNat, 32 + d.toNat]
  | .fcvtDS a _ d => [32 + a.toNat, 32 + d.toNat]
  | .fpCompare _ b a _ d => [32 + a.toNat, 32 + b.toNat, d.toNat]
  | .fcvtToInt _ _ a _ d => [32 + a.toNat, d.toNat]
  | .fcvtFromInt _ _ a _ d => [a.toNat, 32 + d.toNat]
  | .fmvX _ a d => [32 + a.toNat, d.toNat]
  | .fclass _ a d => [32 + a.toNat, d.toNat]
  | .fmvToF _ a d => [a.toNat, 32 + d.toNat]
  | .csrrw _ a d => [a.toNat, d.toNat]
  | .csrrs _ a d => [a.toNat, d.toNat]
  | .csrrc _ a d => [a.toNat, d.toNat]
  | .csrrwi _ _ d => [d.toNat]
  | .csrrsi _ _ d => [d.toNat]
  | .csrrci _ _ d => [d.toNat]
  | .sfenceVma b a => [a.toNat, b.toNat]
  | .mret => []
  | .sret => []
  | .wfi => []
  | .ldAcq _ _ a d => [a.toNat, d.toNat]
  | .stRel _ _ b a => [a.toNat, b.toNat]
  | .amoW _ _ _ b a d => [a.toNat, b.toNat, d.toNat]
  | .amoD _ _ _ b a d => [a.toNat, b.toNat, d.toNat]
  | .amoFaddF32 _ _ b a d => [32 + b.toNat, a.toNat, 32 + d.toNat]
  | .amoFaddBf16 _ _ b a d => [32 + b.toNat, a.toNat, 32 + d.toNat]
  | .amoCasW c b a d => [a.toNat, b.toNat, c.toNat, d.toNat]
  | .amoCasD c b a d => [a.toNat, b.toNat, c.toNat, d.toNat]
  | .lease2 c b a d => [a.toNat, b.toNat, c.toNat, d.toNat]
  | .red _ t b a => [a.toNat, if t.toNat < 2 then b.toNat else 32 + b.toNat]
  | .fld a d => [a.toNat, d.toNat]
  | .fldD a d => [a.toNat, d.toNat]
  | .fst b a => [a.toNat, b.toNat]
  | .fstD b a => [a.toNat, b.toNat]
  | .frst a => [a.toNat]
  | .frstD a => [a.toNat]
  | .lease b a d => [a.toNat, b.toNat, d.toNat]
  | .lclose => []
  | .labort => []
  | .waitcnt a _ => [a.toNat]
  | .fenceOwn => []
  | .fenceForce a => [a.toNat]
  | .bseal b a => [a.toNat, b.toNat]
  | .bopen a => [a.toNat]
  | .cwb a => [a.toNat]
  | .cwbCtx => []
  | .cinv a => [a.toNat]
  | .pfL1 _ a _ => [a.toNat]
  | .pfL2 _ a => [a.toNat]
  | .barInit b a => [a.toNat, b.toNat]
  | .barArrive a d => [a.toNat, d.toNat]
  | .barExpect b a => [a.toNat, b.toNat]
  | .barWait b a => [a.toNat, b.toNat]
  | .barTry b a d => [a.toNat, b.toNat, d.toNat]
  | .msend _ _ b a => [a.toNat, b.toNat] ++ span 10 8
  | .hend => []
  | .carm b a d => [a.toNat, b.toNat, d.toNat]
  | .cdec a => [a.toNat]
  | .spawn b a d => [a.toNat, b.toNat, d.toNat] ++ span 10 8
  | .migrateAddr a => [a.toNat] ++ span 10 8
  | .migrateRank a => [a.toNat] ++ span 10 8
  | .uiret => []
  | .yield => span 10 8
  | .qsend n b a => [a.toNat] ++ span b.toNat (n.toNat + 1)
  | .qrecv n _ d => span d.toNat (n.toNat + 1)
  | .qpoll _ d => [d.toNat]
  | .msave a _ => [a.toNat]
  | .mrest a _ => [a.toNat]
  | .rtabSet b a => [a.toNat, b.toNat]
  | .ctxTag a => [a.toNat]
  | .islandQuery b a d => [a.toNat, b.toNat, d.toNat]
  | .islandSetPoint b a d => [a.toNat, b.toNat, d.toNat]
  | .islandGate b a d => [a.toNat, b.toNat, d.toNat]
  | .islandUngate b a d => [a.toNat, b.toNat, d.toNat]
  | .wavego _ _ => span 0 64
  | .wret => []
  | .wflush a => [a.toNat]
  | .regroup a => [a.toNat]
  | .wsync => []
  | .voteAny a d => [a.toNat, d.toNat]
  | .voteAll a d => [a.toNat, d.toNat]
  | .ballot a d => [a.toNat, d.toNat]
  | .shfl b a d => [a.toNat, b.toNat, d.toNat]
  | .shflXor b a d => [a.toNat, b.toNat, d.toNat]
  | .rdlane b a d => [a.toNat, b.toNat, d.toNat]
  | .quadSx a d => [a.toNat, d.toNat]
  | .quadSy a d => [a.toNat, d.toNat]
  | .quadSd a d => [a.toNat, d.toNat]
  | .quadBc _ a d => [a.toNat, d.toNat]
  | .ishelper d => [d.toNat]
  | .bxt b a d => [b.toNat] ++ span (32 + a.toNat) 7 ++ [32 + d.toNat]
  | .trt b a d => [b.toNat] ++ span (32 + a.toNat) 7 ++ span (32 + d.toNat) 3
  | .vlW _ a d => [a.toNat, 64 + d.toNat]
  | .vsW _ b a _ => [a.toNat, 64 + b.toNat]
  | .vadd _ b a d => [64 + a.toNat, 64 + b.toNat, 64 + d.toNat]
  | .vsub _ b a d => [64 + a.toNat, 64 + b.toNat, 64 + d.toNat]
  | .vmul _ b a d => [64 + a.toNat, 64 + b.toNat, 64 + d.toNat]
  | .vmin _ b a d => [64 + a.toNat, 64 + b.toNat, 64 + d.toNat]
  | .vmax _ b a d => [64 + a.toNat, 64 + b.toNat, 64 + d.toNat]
  | .vbc _ a d => [32 + a.toNat, 64 + d.toNat]
  | .bsort _ a d => span (64 + a.toNat) 2 ++ span (64 + d.toNat) 2
  | .bmerge _ b a d => span (64 + a.toNat) 2 ++ span (64 + b.toNat) 2 ++ span (64 + d.toNat) 4
  | .vfma c _ b a d => [64 + a.toNat, 64 + b.toNat, 64 + c.toNat, 64 + d.toNat]
  | .mma b a _ => [a.toNat, b.toNat]
  | .mzero _ => []
  | .epi a _ => [a.toNat]
  | .mlink a _ => [a.toNat]
  | .pred a => [a.toNat]
  | .punion a => [a.toNat]
  | .sparge a => [a.toNat]
  | .mmaSp c b a _ => [a.toNat, b.toNat, c.toNat]
  | _ => []

/-- The hints (09 R168): prefetches with base x0 and of the unassigned kinds, and the HINT encodings that the base ISA reserves in
OP-IMM, OP, LUI, AUIPC and MISC-MEM. -/
def Instr.hint : Instr → Bool
  | .pfL1 _ a k => a = 0#5 || k != 0#5
  | .pfL2 _ a => a = 0#5
  | .lui _ d => d = 0#5
  | .auipc _ d => d = 0#5
  | .opImm _ _ _ d => d = 0#5
  | .slli _ _ d => d = 0#5
  | .srli _ _ d => d = 0#5
  | .srai _ _ d => d = 0#5
  | .op _ _ _ d => d = 0#5
  | .sub _ _ d => d = 0#5
  | .sra _ _ d => d = 0#5
  | _ => false

/-- The registers that an instruction needs present: none for a hint; for `wret` those that its map hands back (13 R268; 15 R326). -/
def Ctx.needs (c : Ctx) (i : Instr) : List Nat :=
  if Instr.hint i then []
  else match i with
    | .wret => (c.ents.filter (·.out)).map (·.lreg)
    | i => Instr.regs i

/-- The instruction acts once for a wave, on its lead lane (11 R449; 10 R206): an issue of helper lanes alone is a no-op. -/
def Instr.once : Instr → Bool
  | .sfenceVma _ _ | .barInit _ _ | .barArrive _ _ | .barExpect _ _ | .barWait _ _ | .barTry _ _ _ | .bseal _ _ | .bopen _
  | .qsend _ _ _ | .qrecv _ _ _ | .wflush _ | .rtabSet _ _ | .ctxTag _ | .islandQuery _ _ _ | .islandSetPoint _ _ _
  | .islandGate _ _ _ | .islandUngate _ _ _ | .mma _ _ _ | .mzero _ | .epi _ _ | .mlink _ _ | .mmaSp _ _ _ _ | .pred _
  | .punion _ | .sparge _ | .msave _ _ | .mrest _ _ | .ecall | .ebreak => true
  | i =>
    match Instr.csrUse i with
    | some (n, w) => 3 < n && (w || csrActs n)
    | none => false
/-- The registers that an outstanding load will write. -/
def Dst.regs : Dst → List Nat
  | .x r _ _ => [r]
  | .f r _ => [32 + r]
  | .w r => [64 + r]
  | .box fd _ => [32 + fd]
  | .tri fd _ => span (32 + fd) 3
  | .none => []

/-- A register of the instruction waits for a load of the same lane (01 R17). -/
def State.hazard (s : State) (uid : Nat) (ls rs : List Nat) : Bool :=
  s.pends.any fun e =>
    match e.2 with
    | some p => p.uid == uid && ls.contains p.lane && p.dst.regs.any fun r => rs.contains r
    | none => false

/-! ## Absent registers -/

/-- A register that comes while a region is armed has the value that it had before the region (06 R118; 15 R326). -/
def Ctx.checkpoint (c : Ctx) (r : Nat) (v : Reg) : Ctx :=
  match c.lease with
  | .armed q => { c with lease := .armed { q with ckpt := Tbl.set Reg.zero q.ckpt r v } }
  | _ => c

/-- Fetch an absent register with its poison from the save area (15 R326; 07 R131). -/
def State.fetchReg (s : State) (k lane r : Nat) : State :=
  match (s.ctx k).area with
  | none => s
  | some a =>
    let w := isWave k
    let at_ := areaSlot w a lane r
    let (pa, pb) := areaPoison w a lane r
    let ps := (s.byte pa).toNat / 2 ^ pb
    s.modCtx k fun c =>
      let c := { c with absent := Tbl.set false c.absent (lane * 128 + r) false }
      if r < 32 then
        let v : Reg := { v := BitVec.ofNat 64 (s.value at_ 8), p := ps % 2 = 1 }
        (c.modLane lane fun l => l.wx r v).checkpoint r v
      else if r < 64 then c.modLane lane fun l => l.wf (r - 32) { v := BitVec.ofNat 64 (s.value at_ 8), p := ps % 2 = 1 }
      else { c with w := Tbl.set WReg.zero c.w (r - 64) { v := BitVec.ofNat 256 (s.value at_ 32), p := BitVec.ofNat 8 ps } }

/-- A place of a save area where no memory is, or whose line is marked lost. -/
def State.areaBad (s : State) (loc : Nat) : Bool :=
  if isWindowLoc loc then s.dies * 16 ≤ (loc - 2 ^ 52) / 2 ^ 23
  else !(isHbm s.dies loc || isHost loc || isPod loc) || s.mark (s.canon loc / 128) == .lost

/-- The bytes that the fetch of a register reads: the register's, and the byte with its poison. -/
def areaPlaces (wave : Bool) (area lane r : Nat) : List Nat :=
  [areaSlot wave area lane r, areaSlot wave area lane r + (if r < 64 then 7 else 31), (areaPoison wave area lane r).1]

/-- The save area faults or is marked lost where the register or its poison lies: the fetch fails (15 R326). -/
def State.fetchFails (s : State) (k lane r : Nat) : Bool :=
  match (s.ctx k).area with
  | none => false
  | some a => (areaPlaces (isWave k) a lane r).any s.areaBad

/-- The first register of an instruction that is absent in an executing lane. -/
def Ctx.firstAbsent (c : Ctx) (ls rs : List Nat) : Option (Nat × Nat) :=
  if c.absent.isEmpty then none
  else ls.findSome? fun l => (rs.find? fun r => Tbl.get false c.absent (l * 128 + r)).map fun r => (l, r)

/-- `tval` of REGMISS (15 R326). -/
def regMissTval (wave : Bool) (r : Nat) : Word :=
  BitVec.ofNat 64 (r % 32 + r / 32 * 64 + if wave then 256 else 0)

/-- An absent register is fetched from the save area once no L1 owns a line of it (15 R326; 05 R103). -/
def State.fetchHome (s : State) (k lane r : Nat) : State :=
  let lines := (((s.ctx k).area.map fun a => areaPlaces (isWave k) a lane r).getD []).map (· / 128)
  s.atTurns (.ctx (s.ctx k).uid) lines true (s.fetchReg k lane r)

/-- A helper lane's failed fetch is suppressed, as its other faults are (02 R45): the register reads as a poisoned 0 (DESIGN CHOICE,
L91). -/
def Ctx.dropReg (c : Ctx) (lane r : Nat) : Ctx :=
  let c := { c with absent := Tbl.set false c.absent (lane * 128 + r) false }
  c.modLane lane fun l => if r < 32 then l.wx r { v := 0, p := true } else l.wf (r - 32) { v := 0, p := true }

/-- The workers that use some absent registers whose fetch fails. -/
def State.missLanes (s : State) (k : Nat) (ls rs : List Nat) : List Nat :=
  ((s.ctx k).workers ls).filter fun l => rs.any fun r => Tbl.get false (s.ctx k).absent (l * 128 + r) && s.fetchFails k l r

/-- The register-miss micro-trap of an absent register of a lane, or REGMISS in M mode in some lanes where the fetch fails; it waits while an
L1 owns a line of the area. -/
def State.missIn (s : State) (k lane r : Nat) (ts : List Nat) : State :=
  if s.fetchFails k lane r then
    if ((s.ctx k).lane lane).helper then s.modCtx k fun c => c.dropReg lane r
    else s.trap k 31 (regMissTval (isWave k) r) (s.ctx k).nextPc ts
  else s.fetchHome k lane r

/-- The same for an instruction that uses the registers `rs`: every worker where the fetch of one of them fails takes REGMISS. -/
def State.registerMiss (s : State) (k lane r : Nat) (ls rs : List Nat) : State := s.missIn k lane r (s.missLanes k ls rs)

/-! ## The gate -/

/-- The lanes of an issue that take a fault of all of them: the workers. An issue that has no worker can fault only in its fetch, which has
no destination to receive the 0 of 02 R45: its helper lanes take that fault (DESIGN CHOICE, L100). -/
def Ctx.trapLanes (c : Ctx) (ls : List Nat) : List Nat := if (c.lead ls).isNone then ls else c.workers ls

/-- An illegal instruction trap: the word and the sub-code in `tval` (09 R166). -/
def State.illegalTrap (s : State) (k : Nat) (word : BitVec 32) (sub : Nat) (ls : List Nat) : State :=
  s.trap k 2 (BitVec.ofNat 64 (word.toNat + sub * 2 ^ 32)) (s.ctx k).nextPc ls

/-- A LEASE trap: the sub-code and its detail in `tval` (06 R113). -/
def State.leaseTrap (s : State) (k sub detail : Nat) : State :=
  s.trap k 29 (BitVec.ofNat 64 (sub + detail % 2 ^ 57 * 16)) (s.ctx k).nextPc (s.ctx k).executing

/-- The place that issues. -/
def State.here (s : State) : Nat := s.cur.key

/-- Requests that have failed are over: no load or counter waits for them any more. -/
def State.finishRemote (s : State) (k : Nat) (es : List Remote) : State :=
  es.foldl (fun s e =>
    (match e.pend with
     | some p => s.setPend p none
     | none => s).partDone e.grp) (s.modCtx k fun c => { c with remote := c.remote.filter fun e => !es.contains e })

/-- REMOTE at the next instruction, which waits for some requests that have failed: the lanes of the requests take it, with the address of
the lowest (03 R58; 18 R365, R366; DEDUCED, L15). -/
def State.remoteTrap (s : State) (k : Nat) (es : List Remote) : State :=
  let c := s.ctx k
  let low := es.foldl (fun (b : Option Remote) e => if b.any fun x => x.lane ≤ e.lane then b else some e) none
  let ls := (c.workers c.executing).filter fun l => es.any fun e => e.lane == l
  (s.finishRemote k es).trap k 30 ((low.map (·.va)).getD 0) c.nextPc (if ls.isEmpty then c.trapLanes c.executing else ls)

/-- An issue of a context some of whose requests have failed. An instruction that stalls, and would not if they were over, waits for a
reply that does not come: it raises REMOTE for those that keep it (03 R58). Any other goes on: `t` is the state after it, `go` makes it. -/
def State.remoteOr (s : State) (k : Nat) (t : State) (go : State → State) : State :=
  let c := s.ctx k
  let moves := fun (es : List Remote) => c.moved ((go (s.finishRemote k es)).ctx k)
  if c.remote.isEmpty || c.moved (t.ctx k) || !moves c.remote then t
  else
    let needed := c.remote.filter fun e => !moves (c.remote.filter (· != e))
    s.remoteTrap k (if needed.isEmpty then c.remote else needed)

/-- The budget of the armed region is over: the region is broken before anything else of the set issues (06 R112). -/
def Ctx.expired (c : Ctx) (clk : Nat) : Bool :=
  match c.region with
  | some r => decide (r.deadline ≤ clk)
  | none => false

/-- Every check that comes before an instruction's own effect, in the order of 09 R166, 06 R113 and 18 R366; an
instruction whose registers wait for loads, or whose context waits, does not issue: the state stays. A CSR access that is not permitted
is an illegal instruction whatever its source holds: R208 orders POISON before the write, and not the two (DESIGN CHOICE, L99). -/
def checked (i : Instr) (s : State) (body : State → Nat → Ctx → List Nat → State) : State :=
  let k := s.here
  let c := s.ctx k
  let ls := c.executing
  if c.status != .resident || ls.isEmpty || c.wfi || c.flushWait || c.crossed then s
  else if c.expired (s.now k) then s.breakRegion k
  else if c.block.isSome && c.phase = 0 then s
  else if Instr.once i && (c.lead ls).isNone then s.retire k ls
  else match c.illegal k ls i with
  | some sub => s.illegalTrap k (encode i) sub ls
  | none =>
    if c.region.isSome && !Instr.regionOk i then s.leaseTrap k 3 (encode i).toNat
    else match c.firstAbsent ls (c.needs i) with
    | some (l, r) => s.registerMiss k l r ls (c.needs i)
    | none => if s.hazard c.uid ls (c.needs i) then s else body s k c ls

/-- The checks, and REMOTE of an instruction that waits for a request that has failed. -/
def gate (i : Instr) (s : State) (body : State → Nat → Ctx → List Nat → State) : State :=
  s.remoteOr s.here (checked i s body) fun s => checked i s body

/-- A meaning that acts through the gate. -/
def gated (i : Instr) (s : State) (body : State → Nat → Ctx → List Nat → State) : Out := .next (gate i s body)

/-! ## Poisoned operands -/

/-- `tval` of POISON: the register and its file, 0 x, 1 f, 2 w (07 R130). -/
def poisonTval (file r : Nat) : Word := BitVec.ofNat 64 (r + file * 32)

/-- The workers whose x register is poisoned. -/
def Ctx.poisoned (c : Ctx) (ls : List Nat) (r : Nat) : List Nat := (c.workers ls).filter fun l => ((c.lane l).rx r).p

/-- POISON for a register that some workers hold poisoned (07 R130). -/
def State.poisonTrap (s : State) (k r : Nat) (ls : List Nat) : State :=
  s.trap k 26 (poisonTval 0 r) (s.ctx k).nextPc ls

/-- Go on unless a worker's register is poisoned. -/
def unpoisoned (s : State) (k : Nat) (c : Ctx) (ls : List Nat) (r : Nat) (go : State) : State :=
  match c.poisoned ls r with
  | [] => go
  | ps => s.poisonTrap k r ps

/-- The first of some x registers that a lane holds poisoned. -/
def Lane.firstPoison (l : Lane) (rs : List Nat) : Option Nat := rs.find? fun r => (l.rx r).p

/-- The workers that hold one of some x registers poisoned. -/
def Ctx.poisonedAny (c : Ctx) (ls rs : List Nat) : List Nat :=
  (c.workers ls).filter fun l => rs.any fun r => ((c.lane l).rx r).p

/-- Go on unless a worker holds one of the registers poisoned: the lowest such lane gives `tval`, its first such register (07 R130). -/
def unpoisonedAny (s : State) (k : Nat) (c : Ctx) (ls rs : List Nat) (go : State) : State :=
  match c.poisonedAny ls rs with
  | [] => go
  | l :: ps => s.poisonTrap k (((c.lane l).firstPoison rs).getD 0) (l :: ps)

/-- The same for an instruction that acts once, on its lead lane; every worker that holds the register poisoned takes the trap. -/
def leadUnpoisoned (s : State) (k : Nat) (c : Ctx) (ls : List Nat) (r : Nat) (go : State) : State :=
  match c.lead ls with
  | none => go
  | some l => if ((c.lane l).rx r).p then s.poisonTrap k r (c.poisoned ls r) else go

/-- An instruction that acts once for a wave retires as a no-op where every executing lane is a helper (11 R449). -/
def leading (s : State) (k : Nat) (c : Ctx) (ls : List Nat) (go : Nat → State) : State :=
  match c.lead ls with
  | none => s.retire k ls
  | some l => go l

/-- Wait for a release at a scope, starting its write-backs, and then go on (05 R103). -/
def releasing (s : State) (k scope : Nat) (go : State) : State :=
  if s.released k scope then go else s.release k scope

/-- A stall on a wait counter that is at its limit (11 R217). -/
def counting (s : State) (c : Ctx) (p : Path) (go : State) : State := if c.counterFull p then s else go

end Sys2Proof.Machine
end

