-- ==== Sys2Proof/Machine/Device.lean ====
section
/-! DEFINITION. The device register region: slice registers (03 R49 to R51, R59), cluster registers (17 R355), command
queues (17 R343, R344), `podcfg` (19 R395) and the management registers (20 R398). -/
namespace Sys2Proof.Machine

/-- A register by its address. -/
inductive DevReg where
  | slpin (h n : Nat)
  | slcnt (h i : Nat)
  | rwbase (d : Nat)
  | rwsize (d : Nat)
  | tunctl (c : Nat)
  | arbctl (c : Nat)
  | clsres (c : Nat)
  | wend (c : Nat)
  | cqbase (q : Nat)
  | cqctl (q : Nat)
  | cqhead (q : Nat)
  | cqtail (q : Nat)
  | podcfg
  | bootst
  | mcbase
  | mcctl
  | mchead
  | mctail
  | spbase
  | spsize
  deriving DecidableEq, Repr

/-- The register at an offset of the slice block of a die. -/
def sliceReg (s : State) (d o : Nat) : Option DevReg :=
  if o < 0x40000 then
    let h := s.serving d (o / 0x1000)
    let r := o % 0x1000
    if r < 0x80 then some (.slpin h (r / 8))
    else if 0x100 ≤ r && r ≤ 0x120 then some (.slcnt h ((r - 0x100) / 8)) else none
  else if o = 0x40000 then some (.rwbase d) else if o = 0x40008 then some (.rwsize d) else none

def clusterReg (d o : Nat) : Option DevReg :=
  let c := d * 16 + o / 0x1000
  if 0x10000 ≤ o then none
  else match o % 0x1000 with
    | 0x000 => some (.tunctl c)
    | 0x008 => some (.arbctl c)
    | 0x010 => some (.clsres c)
    | 0x018 => some (.wend c)
    | _ => none

def queueReg (o : Nat) : Option DevReg :=
  if 0x4000 ≤ o then none
  else match o % 0x40 with
    | 0x00 => some (.cqbase (o / 0x40))
    | 0x08 => some (.cqctl (o / 0x40))
    | 0x10 => some (.cqhead (o / 0x40))
    | 0x18 => some (.cqtail (o / 0x40))
    | _ => none

def mgmtReg (o : Nat) : Option DevReg :=
  match o with
  | 0x00 => some .bootst
  | 0x08 => some .mcbase
  | 0x10 => some .mcctl
  | 0x18 => some .mchead
  | 0x20 => some .mctail
  | 0x28 => some .spbase
  | 0x30 => some .spsize
  | _ => none

/-- The register that an aligned double of the device region is; an address that no block lays out, or that belongs to a cluster which
does not stand (01 R14), is absent. -/
def State.devReg (s : State) (pa : Nat) : Option DevReg :=
  let o := pa - 0x9000000000000
  let d := o / 0x400000000000
  let o := o % 0x400000000000
  if s.dies ≤ d then none
  else if 0x1000000 ≤ o && o < 0x2000000 then sliceReg s d (o - 0x1000000)
  else if 0x2000000 ≤ o && o < 0x3000000 then
    (if s.clusterStands (d * 16 + (o - 0x2000000) / 0x1000) then clusterReg d (o - 0x2000000) else none)
  else if d ≠ 0 then none
  else if 0x3000000 ≤ o && o < 0x4000000 then queueReg (o - 0x3000000)
  else if o = 0x4000000 then some .podcfg
  else if 0x5000000 ≤ o then mgmtReg (o - 0x5000000)
  else none

def State.queue (s : State) (q : Nat) : CmdQueue := Tbl.get CmdQueue.reset s.queues q
def State.setQueue (s : State) (q : Nat) (v : CmdQueue) : State := { s with queues := Tbl.set CmdQueue.reset s.queues q v }

/-- The value that a register reads. -/
def State.readDev (s : State) : DevReg → Word
  | .slpin h n => Tbl.get 0 (s.slice h).slpin n
  | .slcnt h i => BitVec.ofNat 64 (Tbl.get 0 (s.slice h).cnt i)
  | .rwbase d => (s.dieRegsOf d).rwbase
  | .rwsize d => (s.dieRegsOf d).rwsize
  | .tunctl c => (s.cluster c).tunctl
  | .arbctl c => (s.cluster c).arbctl
  | .clsres c => (s.cluster c).clsres
  | .wend _ => 0
  | .cqbase q => (s.queue q).base
  | .cqctl q => (s.queue q).ctl
  | .cqhead q => zext (s.queue q).head
  | .cqtail q => zext (s.queue q).tail
  | .podcfg => s.mgmt.podcfg
  | .bootst => s.mgmt.bootst
  | .mcbase => s.mgmt.mcbase
  | .mcctl => s.mgmt.mcctl
  | .mchead => s.mgmt.mchead
  | .mctail => s.mgmt.mctail
  | .spbase => s.mgmt.spbase
  | .spsize => s.mgmt.spsize

/-! ## Writes with behaviour -/

/-- A write of `slpinN` (03 R50): a frame of another home, or one pinned already, leaves the register as it is. -/
def State.writeSlpin (s : State) (h n : Nat) (v : Word) : State :=
  let f := (bits 16 22 v).toNat
  let pa := h / 64 * 2 ^ 38 + f * 65536
  let sl := s.slice h
  let taken := (List.range 16).any fun i =>
    let r := Tbl.get 0 sl.slpin i
    i != n && r.getLsbD 0 && (bits 16 22 r).toNat == f
  if s.mgmt.bootst.getLsbD 5 then s
  else if v.getLsbD 0 && (homeSlice pa ≠ h % 64 || taken) then s
  else s.setSlice h { sl with slpin := Tbl.set 0 sl.slpin n (v &&& 0x3FFFFF0001#64) }

/-- A bin's launch forms one gathered wave in the cluster's queue of 32, or freezes the bin (17 R360). -/
def Cluster.launchBin (c : Cluster) (b : Nat) : Cluster :=
  match Tbl.get none c.bins b with
  | none => c
  | some v =>
    if 32 ≤ c.gathQ.length then { c with bins := Tbl.set none c.bins b (some { v with frozen := true }) }
    else { c with bins := Tbl.set none c.bins b none, gathQ := c.gathQ ++ [{ v with frozen := false }] }

def Cluster.thr (c : Cluster) : Nat := (bits 0 7 c.tunctl).toNat
def Cluster.tmo (c : Cluster) : Nat := (bits 8 16 c.tunctl).toNat

/-- A bin has reached its threshold or its timeout. -/
def Cluster.binDue (c : Cluster) (clk : Nat) (b : Bin) : Bool :=
  c.thr ≤ b.reqs.length || b.reqs.any fun r => r.at_ + c.tmo ≤ clk

/-- Launch every bin that meets the threshold or the timeout. -/
def Cluster.launchDue (c : Cluster) (clk : Nat) : Cluster :=
  (List.range 16).foldl (fun c b =>
    match Tbl.get none c.bins b with
    | some v => if c.binDue clk v then c.launchBin b else c
    | none => c) c

/-- A write of `tunctl`: out of range leaves it unchanged; a new value applies at once (17 R355). -/
def State.writeTunctl (s : State) (cl : Nat) (v : Word) : State :=
  let thr := (bits 0 7 v).toNat
  let tmo := (bits 8 16 v).toNat
  if thr < 8 || 64 < thr || tmo < 64 then s
  else s.setCluster cl ({ s.cluster cl with tunctl := v &&& 0xFFFF7F#64 }.launchDue (s.clusterClk cl))

/-- The value of `waveid` for the context of a wave slot (07 R143, R144); the lane tells the half of a ganged pair. -/
def waveIdOf (k : Nat) (c : Ctx) (lane : Nat) : Nat :=
  (if c.ganged then 2 * c.waveIdx + lane / 32 else c.waveIdx) + k % 32 * 256 + (k / 32 % 128 - 64) * 4096
    + k / 4096 % 16 * 2 ^ 14 + dieOf k * 2 ^ 18 + (if c.gath then 2 ^ 31 else 0)

/-- The wave slots of a cluster. -/
def waveSlots (cl : Nat) : List Nat := (List.range 64).map fun i => (cl * 128 + 64 + i / 16) * 32 + i % 16

/-- A write of `wend` (17 R353): the wave whose `waveid` equals the value issues nothing more. -/
def State.writeWend (s : State) (cl : Nat) (v : Word) : State :=
  match (waveSlots cl).find? fun k =>
      (s.ctx k).status == .resident && (waveIdOf k (s.ctx k) 0 == v.toNat || waveIdOf k (s.ctx k) 63 == v.toNat) with
  | some k => (s.cancelWaits k).modCtx k fun c => { c with status := .ending }
  | none => s

/-- A write of `cqtail`, the doorbell (17 R343, R344). -/
def State.writeTail (s : State) (q : Nat) (v : Word) : State :=
  let r := s.queue q
  let t := bits 0 32 v
  if 2 ^ (bits 1 4 r.ctl).toNat < (t - r.head).toNat then s else s.setQueue q { r with tail := t }

/-- A write of `cqbase` or `cqctl` (17 R343). -/
def CmdQueue.writeBase (r : CmdQueue) (v : Word) : CmdQueue :=
  if r.ctl.getLsbD 0 then r else { r with base := v &&& 0xFFFFFFFFFF000#64 }

def CmdQueue.writeCtl (r : CmdQueue) (v : Word) : CmdQueue :=
  let l := (bits 1 4 v).toNat
  let keep := r.ctl.getLsbD 0 || l < 4
  let lg := if keep then (bits 1 4 r.ctl).toNat else l
  { r with ctl := BitVec.ofNat 64 ((if v.getLsbD 0 then 1 else 0) + lg * 2 + (bits 5 4 v).toNat * 32) }

/-- Writes of the reduction window registers; one that would change BASE or SIZE while EN = 1 is ignored (03 R59). -/
def DieRegs.writeBase (r : DieRegs) (v : Word) : DieRegs :=
  let b := bits 16 22 v
  if r.rwbase.getLsbD 0 && b != bits 16 22 r.rwbase then r
  else
    let fits := b.toNat * 65536 + 11 * ((bits 16 22 r.rwsize).toNat * 65536) ≤ 2 ^ 38
    { r with rwbase := BitVec.ofNat 64 (b.toNat * 65536 + if v.getLsbD 0 && fits then 1 else 0) }

def DieRegs.writeSize (r : DieRegs) (v : Word) : DieRegs :=
  if r.rwbase.getLsbD 0 then r else { r with rwsize := v &&& 0x3FFFFF0000#64 }

/-- Writes of the management registers that software may set; BASE, LOG2N and SIZE hold while READY = 1 (20 R398). A LOG2N that is
neither 0 nor 6 to 20 is ignored, as in `cqctl` (DESIGN CHOICE, L70). -/
def Mgmt.write (g : Mgmt) (r : DevReg) (v : Word) : Mgmt :=
  let ready := g.bootst.getLsbD 4
  match r with
  | .mchead => { g with mchead := v &&& 0xFFFFFFFF#64 }
  | .mcbase => if ready then g else { g with mcbase := v &&& 0xFFFFFFFFFF000#64 }
  | .mcctl =>
    let l := (bits 0 5 v).toNat
    if ready || (l ≠ 0 && (l < 6 || 20 < l)) then g else { g with mcctl := v &&& 31#64 }
  | .spbase => if ready then g else { g with spbase := v &&& 0xFFFFFFFFF0000#64 }
  | .spsize => if ready then g else { g with spsize := v &&& 0xFFFFFFFF#64 }
  | _ => g

/-- A write of a register. -/
def State.writeDev (s : State) (r : DevReg) (v : Word) : State :=
  match r with
  | .slpin h n => s.writeSlpin h n v
  | .slcnt h i => s.setSlice h { s.slice h with cnt := Tbl.set 0 (s.slice h).cnt i (bits 0 32 v).toNat }
  | .rwbase d => { s with dieRegs := Tbl.set DieRegs.reset s.dieRegs d ((s.dieRegsOf d).writeBase v) }
  | .rwsize d => { s with dieRegs := Tbl.set DieRegs.reset s.dieRegs d ((s.dieRegsOf d).writeSize v) }
  | .tunctl c => s.writeTunctl c v
  | .arbctl c =>
    if bits 0 4 v = 0#4 || bits 4 4 v = 0#4 then s else s.setCluster c { s.cluster c with arbctl := v &&& 0xFF#64 }
  | .clsres c => if 128 < (bits 0 8 v).toNat then s else s.setCluster c { s.cluster c with clsres := v &&& 0xFF#64 }
  | .wend c => s.writeWend c v
  | .cqbase q => s.setQueue q ((s.queue q).writeBase v)
  | .cqctl q => s.setQueue q ((s.queue q).writeCtl v)
  | .cqhead _ => s
  | .cqtail q => s.writeTail q v
  | .podcfg | .bootst | .mctail => s
  | r => { s with mgmt := s.mgmt.write r v }

/-- The register that an access of `n` bytes reaches in a mode: the blocks belong to M and S mode and hold doubles, which an access
of another size or alignment does not reach (03 R49; 17 R343, R355; 19 R395; 20 R398). -/
def State.devAccess (s : State) (mode : Mode) (pa n : Nat) : Option DevReg :=
  if mode = .u || n ≠ 8 || pa % 8 ≠ 0 then none else s.devReg pa

end Sys2Proof.Machine
end

