-- ==== Sys2Proof/Machine/Access.lean ====
section
/-! DEFINITION. The issue of memory accesses: loads (10 R202, R211; 11 R219), stores through the store queue (11 R221),
accesses in a lease region (06 R113, R114), and tagged requests (03 R56; 11 R224, R225). -/
namespace Sys2Proof.Machine

/-! ## Seals -/

/-- A store to a location of a sealed write-once buffer (05 R97). -/
def State.sealed (s : State) (loc n : Nat) : Bool :=
  isWindowLoc loc &&
    let c := (loc - 2 ^ 52) / 2 ^ 23
    let o := (loc - 2 ^ 52) % 2 ^ 23
    (s.cluster c).seals.any fun e => e.alloc + e.base < o + n && o < e.alloc + e.base + e.size

/-! ## Lane addresses -/

/-- The request of one lane: its address, size, the alignment of its elements, and the first register of its address or operands that
the lane holds poisoned (07 R130). -/
structure LaneReq where
  lane : Nat
  va : Word
  n : Nat
  align : Nat
  poison : Option Nat := none
  deriving DecidableEq, Repr

/-- The places of the elements in an access. -/
def LaneReq.elems (r : LaneReq) : List Nat := (List.range (r.n / r.align)).map (· * r.align)

/-- The translations of all lanes of an instruction (02 R45): the lanes that go on with their pieces, the faulting
workers, and the pages to walk. A helper lane's fault is suppressed. -/
structure LaneXl where
  ok : List (LaneReq × List Piece)
  bad : List (Nat × Nat × Word)
  helperBad : List Nat
  miss : List Nat
  deriving DecidableEq, Repr

/-- A lane faults. -/
def LaneXl.fail (t : LaneXl) (helper : Bool) (lane cause : Nat) (va : Word) : LaneXl :=
  if helper then { t with helperBad := lane :: t.helperBad } else { t with bad := (lane, cause, va) :: t.bad }

/-- Translate the accesses of some lanes. A misaligned address faults with the cause `odd` names, before it is translated, and POISON
comes before both (07 R130; 11 R219, R224, R228). -/
def State.xlatWith (s : State) (k acc : Nat) (odd : Option Nat) (c : Ctx) (rs : List LaneReq) : LaneXl :=
  rs.foldr (fun r (t : LaneXl) =>
    let helper := (c.lane r.lane).helper
    match r.poison, (if r.va.toNat % r.align = 0 then none else odd) with
    | some g, _ => t.fail helper r.lane 26 (poisonTval 0 g)
    | none, some cause => t.fail helper r.lane cause r.va
    | none, none =>
      match s.pieces k acc r.va r.n r.align with
      | .ok ps => { t with ok := (r, ps) :: t.ok }
      | .fault cause va => t.fail helper r.lane cause va
      | .miss va => { t with miss := va :: t.miss }) { ok := [], bad := [], helperBad := [], miss := [] }

/-- Translate accesses that may be misaligned. -/
def State.xlatLanes (s : State) (k acc : Nat) (c : Ctx) (rs : List LaneReq) : LaneXl := s.xlatWith k acc none c rs

/-- Translate accesses of naturally aligned elements: any other address faults with a cause of its own. -/
def State.xlatAligned (s : State) (k acc cause : Nat) (c : Ctx) (rs : List LaneReq) : LaneXl := s.xlatWith k acc (some cause) c rs

/-- A further check of every translated lane; a lane that fails it faults with its cause and address. -/
def LaneXl.check (t : LaneXl) (f : LaneReq → List Piece → Option (Nat × Word)) (helper : Nat → Bool) : LaneXl :=
  t.ok.foldr (fun e (u : LaneXl) =>
    match f e.1 e.2 with
    | none => { u with ok := e :: u.ok }
    | some (cause, va) => u.fail (helper e.1.lane) e.1.lane cause va) { t with ok := [] }

/-- The fault of the lowest-numbered lane. -/
def lowestLane (bad : List (Nat × Nat × Word)) : Option (Nat × Nat × Word) :=
  bad.foldl (fun (b : Option (Nat × Nat × Word)) e =>
    match b with
    | none => some e
    | some x => if e.1 < x.1 then some e else some x) none

/-- Deliver the faults of an instruction: the cause and `tval` of the lowest-numbered faulting lane, and a mask that names
them all; misses start walks and the instruction stalls; else go on. -/
def State.faultOr (s : State) (k acc : Nat) (t : LaneXl) (go : State) : State :=
  if !t.miss.isEmpty then t.miss.foldl (fun s va => s.startWalk k acc va) s
  else match lowestLane t.bad with
    | some (_, cause, va) => s.trap k cause va (s.ctx k).nextPc (t.bad.map (·.1))
    | none => go

/-- Bytes of the context that wait in its unit's store queue and overlap the pieces: a load of them stalls. -/
def State.queuedOverlap (s : State) (k : Nat) (ps : List Piece) : Bool :=
  (Tbl.get [] s.storeQ (unitOf k)).any fun e =>
    e.uid == (s.ctx k).uid && ps.any fun p => e.loc < p.at_.loc + p.n && p.at_.loc < e.loc + e.n

/-- The unit's own L1 line that an access to a location meets. -/
def lineOfLoc (loc : Nat) : Nat := loc / 128

/-! ## Loads -/

/-- A load of a line that the own region holds: the shadow's bytes where its mask is set, the line's elsewhere
(06 R114). -/
def State.shadowBytes (s : State) (u : Nat) (w : Shadow) (loc n : Nat) : List (Nat × Bool) :=
  let o := loc % 128
  let l := s.l1Line u w.line
  (List.range n).map fun i =>
    if w.mask.getLsbD (o + i) then (lineByte w.data (o + i), w.poison.getLsbD (o + i))
    else match l with
      | some l => (lineByte l.data (o + i), l.poison.getLsbD (o + i))
      | none => (0, false)

/-- The request of a unit for a line that a new load may join: any whose reply brings the line's bytes. A load never goes past one, so
that no earlier load of the line reads a later value (16 R330). -/
def State.openRequest (s : State) (u line : Nat) : Option Nat :=
  (s.inFlight.find? fun m => !m.stale &&
    match m.body with
    | .lineRead v l => v == u && l == line
    | .prefetch v l => v == u && l == line
    | .own v l _ => v == u && l == line
    | .lineFill v l _ _ _ => v == u && l == line
    | _ => false).map (·.id)

/-- A load has joined a request: a prefetch is a line read from then on, which its home does not drop. -/
def NetMsg.wanted (m : NetMsg) (id : Nat) : NetMsg :=
  match m.body with
  | .prefetch u line => if m.id = id then { m with body := .lineRead u line } else m
  | _ => m

/-- Wait for the bytes of a line: join an open request, or send one. -/
def State.awaitLine (s : State) (u pid off loc n : Nat) : State :=
  let line := loc / 128
  let wait := fun (s : State) (id : Nat) =>
    match s.pend pid with
    | some p => s.setPend pid (some { p with waits := p.waits ++ [(off, loc, n, id)] })
    | none => s
  match s.openRequest u line with
  | some id => wait { s with net := s.net.map fun m => m.wanted id } id
  | none => wait (s.send (laneOut u) (line * 128) (.lineRead u line)) s.nextId

/-- Read bytes at the place where they live. The lanes of one instruction share the request to a line (10 R211): `since` is older than
every request of the instruction. -/
def State.askRead (s : State) (u since : Nat) (q : ReadPart) (home : Home) : State :=
  let mine := s.net.find? fun m => since ≤ m.id && m.lane == laneOut u && m.loc / 128 == q.loc / 128 &&
    (match m.body with
     | .read _ h => h == home
     | _ => false)
  match mine with
  | some m =>
    (match m.body with
     | .read qs h => s.setMsg { m with body := .read (qs ++ [q]) h }
     | _ => s)
  | none => s.send (laneOut u) q.loc (.read [q] home)

/-- A piece names a device register that an access of elements of `el` bytes may not reach in the mode, or none. -/
def State.devDenied (s : State) (mode : Mode) (el : Nat) (p : Piece) : Bool :=
  p.at_.home == .device && (el != 8 || (s.devAccess mode p.at_.loc p.n).isNone)

/-- Load the bytes of one piece into an outstanding load: at once where the L1 or a shadow holds them, else by a request
to the place where they live (05 R96, R99, R102). `direct` reads at the home unless the line is Owned (11 R219). -/
def State.loadPiece (s : State) (k pid since : Nat) (direct : Bool) (mode : Mode) (p : Piece) : State :=
  let u := unitOf k
  let loc := p.at_.loc
  let ask := s.askRead u since { pend := pid, off := p.off, loc := loc, n := p.n } p.at_.home
  match p.at_.home with
  | .device =>
    match s.devAccess mode loc p.n with
    | some r => s.pendBytes pid p.off ((bytesOf p.n (s.readDev r).toNat).map fun b => (b, false))
    | none => s
  | .cached =>
    let shadow := ((s.ctx k).region.map (·.lines)).bind fun ls => ls.find? fun w => w.line == loc / 128
    match shadow with
    | some w => s.pendBytes pid p.off (s.shadowBytes u w loc p.n)
    | none =>
      match s.l1Line u (loc / 128) with
      | none => if direct then ask else s.awaitLine u pid p.off loc p.n
      | some l =>
        if direct && l.st != .owned then ask
        else
          let have_ := (List.range p.n).filter fun i => l.readable (loc % 128 + i)
          let s := have_.foldl (fun s i =>
            s.pendBytes pid (p.off + i) [(lineByte l.data (loc % 128 + i), l.poison.getLsbD (loc % 128 + i))]) s
          if have_.length = p.n then s else s.awaitLine u pid p.off loc p.n
  | _ => ask

/-- Start the load of one lane. -/
def State.loadLane (s : State) (k : Nat) (direct : Bool) (g : Nat) (r : LaneReq) (d : Dst) (ps : List Piece) : State :=
  let c := s.ctx k
  let pid := s.nextId
  let p : Pend := { uid := c.uid, lane := r.lane, dst := d, n := r.n, data := 0, poison := 0,
                    left := BitVec.ofNat 36 (2 ^ r.n - 1), unit := unitOf k, waits := [], grp := g }
  let s := { s with nextId := pid + 1 }.setPend pid (some p)
  ps.foldl (fun s q => s.loadPiece k pid g direct c.dataMode q) s

/-- A suppressed helper lane's destination receives 0 (02 R45). -/
def Ctx.zeroDst (c : Ctx) (lane : Nat) (d : Dst) : Ctx :=
  match d with
  | .x r _ _ => c.modLane lane fun l => l.wx r Reg.zero
  | .f r _ => c.modLane lane fun l => l.wf r Reg.zero
  | .w r => { c with w := Tbl.set WReg.zero c.w r WReg.zero }
  | .box fd _ => c.modLane lane fun l => l.wf fd Reg.zero
  | .tri fd _ => c.modLane lane fun l => l.wfGroup fd [Reg.zero, Reg.zero, Reg.zero]
  | .none => c

/-- The first byte of an access that lies in a device register that the mode may not reach so (03 R49; 02 R45). -/
def State.devFault (s : State) (k cause : Nat) (r : LaneReq) (ps : List Piece) : Option (Nat × Word) :=
  (ps.find? fun p => s.devDenied (s.ctx k).dataMode r.align p).map fun p => (cause, r.va + BitVec.ofNat 64 p.off)

/-- The checks of a load beyond translation. -/
def State.loadCheck (s : State) (k : Nat) (r : LaneReq) (ps : List Piece) : Option (Nat × Word) := s.devFault k 5 r ps

/-- A dirty copy of a line that a direct read would overtake: it is written back and acknowledged first (11 R219). -/
def State.settleDirty (s : State) (k : Nat) (ps : List Piece) : Option State :=
  let u := unitOf k
  let lines := (ps.filter fun p => p.at_.home == .cached).map fun p => p.at_.loc / 128
  let dirty := lines.filterMap fun n => (s.l1Line u n).filter fun l => l.st == .dirty
  let flying := s.inFlight.any fun m =>
    match m.body with
    | .write _ v line _ _ _ _ _ _ => v == u && lines.contains line
    | .writeAck _ v line _ _ => v == u && lines.contains line
    | .marked _ v l _ _ _ => v == u && lines.contains l.line
    | _ => false
  if !dirty.isEmpty then
    some (dirty.foldl (fun s l => (s.sendBack u l (s.ctx k).nextPc none).afterWriteBack u l) s)
  else if flying then some s
  else none

/-- A direct read leaves no Valid copy of its lines behind, and a line reply on its way serves no later load (11 R219). -/
def State.dropValid (s : State) (u : Nat) (ps : List Piece) : State :=
  (ps.filter fun p => p.at_.home == .cached).foldl (fun (s : State) p =>
    match s.l1Line u (p.at_.loc / 128) with
    | some l => if l.st == .valid then (s.delLine u l.line).staleReqs u l.line else s
    | none => s.staleReqs u (p.at_.loc / 128)) s

/-- The loads of an instruction start: it retires, suppressed helper lanes receive 0, and the loads of its lanes are counted on `ld`
as one (11 R217); `acq` is the scope of the acquire that ends them, and nothing of the context issues before it. -/
def State.startLoads (s : State) (k : Nat) (ls : List Nat) (t : LaneXl) (dst : Nat → Dst) (direct : Bool) (acq : Option Nat) :
    State :=
  let s := s.modCtx k fun c => (t.helperBad.foldl (fun c l => c.zeroDst l (dst l)) c).retire ls
  if t.ok.isEmpty then s
  else
    let (s, g) := s.newGroup k .ld t.ok.length acq
    let s := if acq.isSome then s.modCtx k fun c => { c with block := some g } else s
    let s := if direct then s.dropValid (unitOf k) (t.ok.foldr (fun e l => e.2 ++ l) []) else s
    t.ok.foldl (fun s e => s.loadLane k direct g e.1 (dst e.1.lane) e.2) s

/-- The misses of a unit that are outstanding, those that a home holds behind a recall among them. -/
def State.lineMisses (s : State) (u : Nat) : Nat :=
  (s.inFlight.filter fun m => match m.body with
    | .lineRead v _ => v == u
    | .prefetch v _ => v == u
    | .lineFill v _ _ _ _ => v == u
    | .own v _ _ => v == u
    | _ => false).length

/-- The L1D of a core keeps 48 misses outstanding, that of an engine 256 (01 R16). -/
def missLimit (u : Nat) : Nat := if u % 128 < 64 then 48 else 256

/-- The lines of some pieces for which a load must send a request. -/
def State.newMisses (s : State) (u : Nat) (ps : List Piece) : List Nat :=
  (((ps.filter fun p => p.at_.home == .cached).map fun p => p.at_.loc / 128).eraseDups).filter fun n =>
    (s.openRequest u n).isNone && (match s.l1Line u n with
      | some l => l.st == .dirty && !l.fill
      | none => true)

/-- New misses on some lines would pass the limit: the instruction stalls. -/
def State.missFull (s : State) (u : Nat) (ps : List Piece) : Bool :=
  let n := (s.newMisses u ps).length
  n ≠ 0 && missLimit u < s.lineMisses u + n

/-- Issue the loads of an instruction whose lanes are translated: `dst` names each lane's destination. -/
def State.loadWith (s : State) (k : Nat) (c : Ctx) (ls : List Nat) (t : LaneXl) (dst : Nat → Dst) (direct : Bool)
    (acq : Option Nat) : State :=
  let t := t.check (s.loadCheck k) fun l => (c.lane l).helper
  s.faultOr k 0 t <|
    let ps := t.ok.foldr (fun e l => e.2 ++ l) []
    if s.queuedOverlap k ps || c.counterFull .ld || (!direct && s.missFull (unitOf k) ps) then s
    else match (if direct then s.settleDirty k ps else none) with
      | some s' => s'
      | none => s.startLoads k ls t dst direct acq

/-- Issue the loads of an instruction. -/
def State.loadAll (s : State) (k : Nat) (c : Ctx) (ls : List Nat) (rs : List LaneReq) (dst : Nat → Dst) (direct : Bool)
    (acq : Option Nat) : State :=
  s.loadWith k c ls (s.xlatLanes k 0 c rs) dst direct acq

/-! ## Stores -/

/-- A store of one lane: its bytes with their poison, and its file for POISON. -/
structure LaneSt' where
  req : LaneReq
  data : Nat
  poison : Nat
  file : Nat
  reg : Nat
  deriving DecidableEq, Repr

/-- A store that the `st` counter counts (11 R217). -/
def countedStore (p : Spot) : Bool := p.home != .cached || isPod p.loc || isHost p.loc

/-- A store that releases wait for (16 R332): not a posted one. -/
def orderedStore (p : Spot) : Bool := p.home == .cached || p.home == .window || p.home == .core

/-- A store's queue entries, one for each piece of at most 8 bytes. -/
def storeEntries (ins uid : Nat) (rel thru : Bool) (st : LaneSt') (p : Piece) : List SqEnt :=
  (List.range ((p.n + 7) / 8)).map fun j =>
    let o := p.off + 8 * j
    let n := min 8 (p.n - 8 * j)
    { ins := ins, uid := uid, loc := p.at_.loc + 8 * j, n := n, data := BitVec.ofNat 64 (st.data / 256 ^ o % 256 ^ n),
      poison := BitVec.ofNat 8 (st.poison / 2 ^ o % 2 ^ n), home := p.at_.home, rel := rel || orderedStore p.at_,
      thru := thru, under := p.at_.under, grp := none }

/-- The bytes of a store as line bytes, their mask and their poison. -/
def SqEnt.lineData (e : SqEnt) : LineBits := BitVec.ofNat 1024 (e.data.toNat % 256 ^ e.n) <<< (8 * (e.loc % 128))
def SqEnt.lineMask (e : SqEnt) : BitVec 128 := BitVec.ofNat 128 (2 ^ e.n - 1) <<< (e.loc % 128)
def SqEnt.linePoison (e : SqEnt) : BitVec 128 := BitVec.ofNat 128 (e.poison.toNat % 2 ^ e.n) <<< (e.loc % 128)

/-- The stores of one instruction to one line, which leave the queue as one request (10 R211); `ent` is the first of them. -/
structure LineStore where
  ent : SqEnt
  data : LineBits
  mask : BitVec 128
  poison : BitVec 128
  deriving DecidableEq, Repr

def LineStore.line (e : LineStore) : Nat := e.ent.loc / 128

/-- Two stores of one instruction meet at a line. -/
def SqEnt.joins (e f : SqEnt) : Bool := e.ins == f.ins && e.loc / 128 == f.loc / 128 && e.home == f.home

/-- The bytes of some stores to one line, a later one over an earlier one: the highest lane's remain (10 R211). -/
def LineStore.of (e : SqEnt) (es : List SqEnt) : LineStore :=
  es.foldl (fun (w : LineStore) f =>
    { w with data := overlay w.data f.lineData f.lineMask, mask := w.mask ||| f.lineMask,
             poison := overlayBits w.poison f.linePoison f.lineMask }) { ent := e, data := 0, mask := 0, poison := 0 }

/-- Merge a store into a line of the L1D, which carries the tag of the storing context already; the line then keeps the store's
translation (05 R101). -/
def L1Line.store (l : L1Line) (e : LineStore) (tag : Nat) : L1Line :=
  { l with data := overlay l.data e.data e.mask, mask := l.mask ||| e.mask,
           poison := overlayBits l.poison e.poison e.mask, tag := tag, under := e.ent.under, marked := l.marked && l.mask != 0 }

/-- An element at `o` of an access reaches into a sealed buffer. -/
def State.sealedAt (s : State) (o n : Nat) (ps : List Piece) : Bool :=
  ps.any fun p =>
    let a := max o p.off
    let z := min (o + n) (p.off + p.n)
    a < z && s.sealed (p.at_.loc + (a - p.off)) (z - a)

/-- The first element of a store in a sealed buffer (05 R97; 02 R45). -/
def State.sealFault (s : State) (r : LaneReq) (ps : List Piece) : Option (Nat × Word) :=
  (r.elems.find? fun o => s.sealedAt o r.align ps).map fun o => (7, r.va + BitVec.ofNat 64 o)

/-- The checks of a store beyond translation: sealed buffers, device registers. -/
def State.storeCheck (s : State) (k : Nat) (r : LaneReq) (ps : List Piece) : Option (Nat × Word) :=
  (s.sealFault r ps).orElse fun _ => s.devFault k 7 r ps

/-- The instructions that the store queue of a unit holds; it has 8 entries (11 R221). -/
def State.queueFull (s : State) (u : Nat) : Bool := 8 ≤ ((Tbl.get [] s.storeQ u).map (·.ins)).eraseDups.length

/-- The stores to device registers of an instruction act at once. -/
def State.storeDevice (s : State) (mode : Mode) (st : LaneSt') (p : Piece) : State :=
  match s.devAccess mode p.at_.loc p.n with
  | some r => s.writeDev r (BitVec.ofNat 64 (st.data / 256 ^ p.off))
  | none => s

/-- Put the stores of an instruction into the unit's queue; the counted ones raise `st` once (11 R217). -/
def State.enqueue (s : State) (k : Nat) (rel thru : Bool) (es : List (LaneSt' × List Piece)) : State :=
  let c := s.ctx k
  let ins := s.nextId
  let s := { s with nextId := ins + 1 }
  let dev := es.flatMap fun e => (e.2.filter fun p => p.at_.home == .device).map fun p => (e.1, p)
  let s := dev.foldl (fun s e => s.storeDevice c.dataMode e.1 e.2) s
  let mem := es.flatMap fun e => (e.2.filter fun p => p.at_.home != .device).flatMap fun p =>
    (storeEntries ins c.uid rel thru e.1 p).map fun q => (countedStore p.at_, q)
  let n := (mem.filter (·.1)).length
  let put := fun (s : State) (l : List SqEnt) =>
    { s with storeQ := Tbl.set [] s.storeQ (unitOf k) (Tbl.get [] s.storeQ (unitOf k) ++ l) }
  if n = 0 then put s (mem.map (·.2))
  else
    let (s, g) := s.newGroup k .st n none
    put s (mem.map fun e => if e.1 then { e.2 with grp := some g } else e.2)

/-- A poisoned value that a store would write straight to the host memory window (18 R375). -/
def hostPoison (thru : Bool) (st : LaneSt') (ps : List Piece) : Bool :=
  ps.any fun p => isHost p.at_.loc && (thru || p.at_.home != .cached) && st.poison / 2 ^ p.off % 2 ^ p.n != 0

/-- POISON of a store whose value would leave for the host (07 R130). -/
def exportCheck (thru : Bool) (sts : List LaneSt') (r : LaneReq) (ps : List Piece) : Option (Nat × Word) :=
  (sts.find? fun x => x.req == r && hostPoison thru x ps).map fun x => (26, poisonTval x.file x.reg)

/-- A line that an armed region of another set of the core holds: a store or an atomic by this set waits (06 R115). -/
def State.leasedAway (s : State) (k : Nat) (ps : List Piece) : Bool :=
  !isWave k && ps.any fun p => p.at_.home == .cached && (s.leasedBy (unitOf k) (p.at_.loc / 128)).isSome

/-- The faults of translated stores. -/
def State.storeFaults (s : State) (k : Nat) (sts : List LaneSt') (t : LaneXl) (thru : Bool) : LaneXl :=
  (t.check (s.storeCheck k) fun _ => false).check (exportCheck thru sts) fun _ => false

/-- Issue the stores of an instruction whose lanes are checked. -/
def State.storeChecked (s : State) (k : Nat) (c : Ctx) (ls : List Nat) (sts : List LaneSt') (t : LaneXl) (rel thru : Bool) : State :=
  let es := t.ok.filterMap fun e => (sts.find? fun x => x.req == e.1).map fun x => (x, e.2)
  if s.queueFull (unitOf k) || s.leasedAway k (es.flatMap (·.2)) || c.counterFull .st then s
  else (s.enqueue k rel thru es).retire k ls

/-- Issue the stores of an instruction whose lanes are translated (10 R202, R211). -/
def State.storeWith (s : State) (k : Nat) (c : Ctx) (ls : List Nat) (sts : List LaneSt') (t : LaneXl) (rel thru : Bool) :
    State :=
  let t := s.storeFaults k sts t thru
  s.faultOr k 1 t <| s.storeChecked k c ls sts t rel thru

/-- Issue the stores of an instruction. -/
def State.storeAll (s : State) (k : Nat) (c : Ctx) (ls : List Nat) (sts : List LaneSt') (rel thru : Bool) : State :=
  s.storeWith k c ls sts (s.xlatLanes k 1 c (sts.map (·.req))) rel thru

/-! ## Stores in a lease region -/

/-- Write bytes into a shadow (06 R114). -/
def Shadow.write (w : Shadow) (o n v p : Nat) : Shadow :=
  (List.range n).foldl (fun (w : Shadow) i =>
    { w with data := setLineByte w.data (o + i) (v / 256 ^ i % 256), mask := setBit w.mask (o + i) true,
             poison := setBit w.poison (o + i) (p / 2 ^ i % 2 = 1) }) w

/-- A store in an armed region: to a leased line it writes the shadow, to any other line it raises LEASE (06 R113,
R114). -/
def State.regionStore (s : State) (k : Nat) (r : Region) (ls : List Nat) (st : LaneSt') (p : Piece) : State :=
  if r.holds (p.at_.loc / 128) && p.at_.home == .cached then
    let ws := r.lines.map fun w =>
      if w.line == p.at_.loc / 128 then w.write (p.at_.loc % 128) p.n st.data st.poison else w
    (s.modCtx k fun c => { c with lease := .armed { r with lines := ws } }).retire k ls
  else s.leaseTrap k 4 st.req.va.toNat

/-- A base store of a context: in a region it goes to a shadow, else to the store queue. -/
def State.storeBase (s : State) (k : Nat) (c : Ctx) (ls : List Nat) (sts : List LaneSt') : State :=
  match c.region, sts with
  | some r, st :: _ =>
    if st.req.poison.isNone && st.req.va.toNat % st.req.n ≠ 0 then s.leaseTrap k 5 st.req.va.toNat
    else
      let t := s.xlatLanes k 1 c [st.req]
      s.faultOr k 1 t <|
        match t.ok with
        | (_, p :: _) :: _ => s.regionStore k r ls st p
        | _ => s
  | _, _ => s.storeAll k c ls sts false false

/-- A base load of a context; a misaligned one in a region raises LEASE (06 R113). -/
def State.loadBase (s : State) (k : Nat) (c : Ctx) (ls : List Nat) (rs : List LaneReq) (dst : Nat → Dst) : State :=
  match c.region, rs with
  | some _, r :: _ =>
    if r.poison.isNone && r.va.toNat % r.n ≠ 0 then s.leaseTrap k 5 r.va.toNat else s.loadAll k c ls rs dst false none
  | _, _ => s.loadAll k c ls rs dst false none

/-! ## Tagged requests -/

/-- A new tag of a context: its SEQ rises by 1, and ACKSEQ names the oldest unanswered request (03 R56). -/
def State.newTag (s : State) (k : Nat) (op : TagOp) (p : Spot) (n : Nat) (v c : Reg) (va : Word) (lane : Nat)
    (pend : Option Nat) (g launch : Nat) (cargo : Cargo) : State × TagReq :=
  let x := s.ctx k
  let r : TagReq := { place := k, uid := x.uid, seq := x.seq, ack := x.unanswered.headD x.seq, op := op, loc := p.loc,
                      n := n, v := v, c := c, va := va, lane := lane, pend := pend, grp := g, home := p.home, age := 0,
                      launch := launch, sent := s.now k, cargo := cargo }
  (s.modCtx k fun c => { c with seq := c.seq + 1, unanswered := c.unanswered ++ [x.seq], tagAt := s.now k }, r)

/-- Send a new tagged request of a context. -/
def State.tagRequest (s : State) (k : Nat) (op : TagOp) (p : Spot) (n : Nat) (v c : Reg) (va : Word) (lane : Nat)
    (pend : Option Nat) (g launch : Nat) : State :=
  let (s, r) := s.newTag k op p n v c va lane pend g launch .none
  s.send (laneOut (unitOf k)) p.loc (.tagged r)

/-- An untagged atomic at a cluster SRAM bank, or at the host (11 R225; 19 R389). -/
def State.bankRequest (s : State) (k : Nat) (op : TagOp) (p : Spot) (n : Nat) (v c : Reg) (va : Word) (lane : Nat)
    (pend : Option Nat) (g : Nat) : State :=
  let x := s.ctx k
  let r : TagReq := { place := k, uid := x.uid, seq := 0, ack := 0, op := op, loc := p.loc, n := n, v := v, c := c, va := va,
                      lane := lane, pend := pend, grp := g, home := p.home, age := 0, launch := 0, sent := s.now k, cargo := .none }
  s.send (laneOut (unitOf k)) p.loc (.bankAtomic r)

/-- The dirty bytes of a unit's line leave, and a Valid copy goes, before an atomic at the home (11 R225). -/
def State.flushLine (s : State) (u : Nat) (pc : Word) (loc : Nat) : State :=
  match s.l1Line u (loc / 128) with
  | none => s.staleReqs u (loc / 128)
  | some l =>
    match l.st with
    | .valid => (s.delLine u l.line).staleReqs u l.line
    | .dirty => (s.sendBack u l pc none).delLine u l.line
    | .owned => s.surrender u l pc none

/-- The same for the unit of a place, whose context acts at its next PC. -/
def State.flushForHome (s : State) (k loc : Nat) : State := s.flushLine (unitOf k) (s.ctx k).nextPc loc

/-- An outstanding load that a reply fills. -/
def State.newPend (s : State) (k lane n : Nat) (d : Dst) (g : Nat) : State × Nat :=
  let pid := s.nextId
  let p : Pend := { uid := (s.ctx k).uid, lane := lane, dst := d, n := n, data := 0, poison := 0,
                    left := BitVec.ofNat 36 (2 ^ n - 1), unit := unitOf k, waits := [], grp := g }
  ({ s with nextId := pid + 1 }.setPend pid (some p), pid)

/-- The bytes of a reply, with one poison bit for them all. -/
def replyBytes (n : Nat) (v : Reg) : List (Nat × Bool) := (bytesOf n v.v.toNat).map fun b => (b, v.p)

/-- An atomic in the core's own L1D, on a line that it holds Owned (11 R225); on a line that its home has marked lost or poisoned it is
not performed (03 R70). -/
def State.ownedAtomic (s : State) (k : Nat) (l : L1Line) (op : TagOp) (o n : Nat) (v c : Reg) (un : Under) : State × Reg :=
  if s.mark (s.canon (l.line * 128) / 128) != .clean then (s, { v := 0, p := true })
  else
  let u := unitOf k
  let x := s.ctx k
  let first := l
  let l := if l.tag == x.tagEnt then l else s.cleaned l
  let old := (List.range n).foldr (fun i acc => lineByte l.data (o + i) + 256 * acc) 0
  let po := (List.range n).any fun i => l.poison.getLsbD (o + i)
  let pw := v.p || (op == .cas && c.p) || (po && op != .amo 8)
  match newValue op n old v c with
  | none => (s, { v := BitVec.ofNat 64 old, p := po })
  | some nv =>
    let s := if first.tag == x.tagEnt || first.mask = 0 then s
             else s.sendBack u first 0 none
    let l := (List.range n).foldl (fun (l : L1Line) i =>
      { l with data := setLineByte l.data (o + i) (nv / 256 ^ i % 256), mask := setBit l.mask (o + i) true,
               poison := setBit l.poison (o + i) pw })
      { l with tag := x.tagEnt, under := un, marked := l.marked && l.mask != 0 }
    (s.putLine u l, { v := BitVec.ofNat 64 old, p := po })

/-- Perform or send the atomic of one lane (11 R225). -/
def State.atomicLane (s : State) (k : Nat) (op : TagOp) (n : Nat) (v c : Reg) (va : Word) (lane : Nat) (d : Option Dst)
    (g : Nat) (p : Piece) : State :=
  let (s, pend) := match d with
    | some d => let (s, i) := s.newPend k lane n d g
                (s, some i)
    | none => (s, none)
  let done := fun (s : State) (r : Reg) =>
    match pend with
    | some i => s.pendBytes i 0 (replyBytes n r)
    | none => s.partDone g
  match p.at_.home with
  | .window => s.bankRequest k op p.at_ n v c va lane pend g
  | .cached =>
    match (s.l1Line (unitOf k) (p.at_.loc / 128)).filter fun l => l.st == .owned && !isWave k with
    | some l =>
      let (s, r) := s.ownedAtomic k l op (p.at_.loc % 128) n v c p.at_.under
      done s r
    | none =>
      let s := s.flushForHome k p.at_.loc
      if isHost p.at_.loc then s.bankRequest k op p.at_ n v c va lane pend g
      else s.tagRequest k op p.at_ n v c va lane pend g 0
  | _ =>
    if isHost p.at_.loc then s.bankRequest k op p.at_ n v c va lane pend g
    else s.tagRequest k op p.at_ n v c va lane pend g 0

/-- The operations that the host's AtomicOps perform (19 R389): add, swap and compare-and-swap. -/
def hostOp : TagOp → Bool
  | .amo o => o = 0 || o = 8
  | .cas => true
  | _ => false

/-- An operation that reduction pages, sealed buffers and the host refuse with cause 7 (11 R225, R227; 05 R96). -/
def State.atomicCheck (s : State) (op : TagOp) (red : Bool) (r : LaneReq) (ps : List Piece) : Option (Nat × Word) :=
  if ps.any fun p =>
      (p.at_.home == .reduction && !red) || (red && (p.at_.home == .window || p.at_.home == .future))
      || p.at_.home == .device || s.sealed p.at_.loc p.n || (isHost p.at_.loc && !hostOp op) then some (7, r.va)
  else none

/-- One lane's atomic: its address, value, comparand and destination. -/
structure LaneAt where
  req : LaneReq
  v : Reg
  c : Reg
  dst : Option Dst
  deriving DecidableEq, Repr

/-- The atomics of an instruction start: it retires, writes at once what `pre` says, and its lanes' atomics are counted on the
path as one (11 R217); `acq` is the scope of the acquire after them. -/
def State.startAtomics (s : State) (k : Nat) (ls : List Nat) (op : TagOp) (n : Nat) (path : Path) (ats : List LaneAt)
    (acq : Option Nat) (t : LaneXl) (pre : Ctx → Ctx) : State :=
  let s := s.modCtx k fun c => (pre c).retire ls
  if t.ok.isEmpty then s
  else
    let (s, g) := s.newGroup k path t.ok.length acq
    let s := if acq.isSome then s.modCtx k fun c => { c with block := some g } else s
    t.ok.foldl (fun s e =>
      match ats.find? fun a => a.req == e.1, e.2 with
      | some a, p :: _ => s.atomicLane k op n a.v a.c a.req.va a.req.lane a.dst g p
      | _, _ => s.partDone g) s

/-- Issue the atomics of an instruction on a path (11 R216, R224). -/
def State.atomicAll (s : State) (k : Nat) (c : Ctx) (ls : List Nat) (op : TagOp) (n : Nat) (path : Path)
    (ats : List LaneAt) (acq : Option Nat) (t : LaneXl) (pre : Ctx → Ctx) : State :=
  let ps := t.ok.foldr (fun e l => e.2 ++ l) []
  if s.queuedOverlap k ps || s.leasedAway k ps || c.counterFull path || c.tagsFull ps.length then s
  else s.startAtomics k ls op n path ats acq t pre

/-- The covering scope of an address (11 R215). -/
def State.coverScope (s : State) (loc : Nat) : Nat :=
  if isWindowLoc loc then 1 else if isPod loc then 4 else if isHost loc then 5
  else if isHbm s.dies loc || isCoreSram s.dies loc then 3 else 3

/-- The widest covering scope of the executing lanes' addresses. -/
def State.coverAll (s : State) (t : LaneXl) : Nat :=
  t.ok.foldl (fun m e => match e.2 with
    | p :: _ => max m (s.coverScope p.at_.loc)
    | [] => m) 1

/-! ## The lanes of a memory instruction -/

/-- A lane's request of a base + offset access. -/
def Lane.request (x : Lane) (lane a : Nat) (off : Word) (n align : Nat) : LaneReq :=
  { lane := lane, va := (x.rx a).v + off, n := n, align := align, poison := x.firstPoison [a] }

/-- The lane requests of a base + offset access. -/
def Ctx.requests (c : Ctx) (ls : List Nat) (a : Nat) (off : Word) (n align : Nat) : List LaneReq :=
  ls.map fun l => (c.lane l).request l a off n align

/-- One poison bit for each of `n` bytes. -/
def bytePoisons (p : Bool) (n : Nat) : Nat := if p then 2 ^ n - 1 else 0

/-- The stores of an instruction whose data come from a register of each worker; a helper lane stores nothing
(10 R211). -/
def Ctx.stores (c : Ctx) (ls : List Nat) (a : Nat) (off : Word) (n file reg : Nat) (val : Lane → Reg) : List LaneSt' :=
  (c.workers ls).map fun l =>
    { req := (c.lane l).request l a off n n, data := (val (c.lane l)).v.toNat % 256 ^ n,
      poison := bytePoisons (val (c.lane l)).p n, file := file, reg := reg }

end Sys2Proof.Machine
end

