-- ==== Sys2Proof/Machine/Base.lean ====
section
/-! DEFINITION. The meanings of the base integer instructions: RV64I, M, Zba, Zbb (10 R194 to R206, R210 to R213). -/
namespace Sys2Proof.Machine

/-- An instruction that computes in each executing lane, from that lane's registers alone (10 R210). -/
def laneOp (i : Instr) (s : State) (f : Lane → Lane) : Out :=
  gated i s fun s k _ ls => s.modCtx k fun c => (c.modLanes ls fun _ l => f l).retire ls

/-- A result of one source register. -/
def unaryX (i : Instr) (s : State) (a d : BitVec 5) (f : Word → Word) : Out :=
  laneOp i s fun l => l.wx d.toNat (Reg.of (f (l.rx a.toNat).v) (l.rx a.toNat).p)

/-- A result of two source registers; it is poisoned when either is (07 R129). -/
def binaryX (i : Instr) (s : State) (a b d : BitVec 5) (f : Word → Word → Word) : Out :=
  laneOp i s fun l =>
    l.wx d.toNat (Reg.of (f (l.rx a.toNat).v (l.rx b.toNat).v) ((l.rx a.toNat).p || (l.rx b.toNat).p))

def execLui (i : BitVec 20) (d : BitVec 5) (s : State) : Out :=
  laneOp (.lui i d) s fun l => l.wx d.toNat (Reg.of (upperImm i) false)

def execAuipc (i : BitVec 20) (d : BitVec 5) (s : State) : Out :=
  laneOp (.auipc i d) s fun l => l.wx d.toNat (Reg.of (l.pc + upperImm i) false)

/-! ## Jumps and branches -/

/-- Where a lane goes: its target, whether it goes there, and the first of its sources that is poisoned. -/
structure Jump where
  lane : Nat
  target : Word
  taken : Bool
  poison : Option Nat
  deriving DecidableEq, Repr

/-- The fault of a lane's jump: POISON, or a taken target that is not 4-byte aligned, which raises cause 0 precisely (07 R130; 09 R163;
10 R212). -/
def Jump.fault (j : Jump) : Option (Nat × Nat × Word) :=
  match j.poison with
  | some r => some (j.lane, 26, poisonTval 0 r)
  | none => if j.taken && j.target.toNat % 4 ≠ 0 then some (j.lane, 0, j.target) else none

/-- Set each lane's PC. The faults of the workers trap together, with the cause and `tval` of the lowest lane (18 R366); a helper lane
with a fault continues at PC + 4 (10 R213). -/
def State.jumpTo (s : State) (k : Nat) (c : Ctx) (ls : List Nat) (js : List Jump) (link : Option Nat) : State :=
  let bad := (js.filter fun j => !(c.lane j.lane).helper).filterMap Jump.fault
  match bad with
  | (_, cause, va) :: _ => s.trap k cause va c.nextPc (bad.map (·.1))
  | [] => s.modCtx k fun c => (c.modLanes ls fun i l =>
      let next := l.pc + 4
      let l := match link with
        | some r => l.wx r (Reg.of next false)
        | none => l
      match js.find? fun j => j.lane == i with
      | some j => { l with pc := if j.taken && j.fault.isNone then j.target else next }
      | none => { l with pc := next }).retireAt

def execJal (i : BitVec 20) (d : BitVec 5) (s : State) : Out :=
  gated (.jal i d) s fun s k c ls =>
    s.jumpTo k c ls (ls.map fun n => { lane := n, target := (c.lane n).pc + jumpOff i, taken := true, poison := none }) (some d.toNat)

/-- A poisoned target raises POISON (07 R130). -/
def execJalr (i : BitVec 12) (a : BitVec 5) (d : BitVec 5) (s : State) : Out :=
  gated (.jalr i a d) s fun s k c ls =>
    s.jumpTo k c ls (ls.map fun n =>
      { lane := n, target := (((c.lane n).rx a.toNat).v + sext i) &&& ~~~1#64, taken := true,
        poison := (c.lane n).firstPoison [a.toNat] }) (some d.toNat)

/-- A poisoned source raises POISON (07 R130). -/
def execBranch (j : BitVec 7) (b : BitVec 5) (a : BitVec 5) (f : BitVec 3) (k : BitVec 5) (s : State) : Out :=
  gated (.branch j b a f k) s fun s p c ls =>
    s.jumpTo p c ls (ls.map fun n =>
      { lane := n, target := (c.lane n).pc + branchOff j k,
        taken := branchTaken f ((c.lane n).rx a.toNat).v ((c.lane n).rx b.toNat).v,
        poison := (c.lane n).firstPoison [a.toNat, b.toNat] }) none

/-! ## Loads and stores -/

def execLoad (i : BitVec 12) (a : BitVec 5) (f : BitVec 3) (d : BitVec 5) (s : State) : Out :=
  gated (.load i a f d) s fun s k c ls =>
    let n := (loadSize f).1
    s.loadBase k c ls (c.requests ls a.toNat (sext i) n n) fun _ => .x d.toNat n (loadSize f).2

def execStore (j : BitVec 7) (b : BitVec 5) (a : BitVec 5) (f : BitVec 3) (k : BitVec 5) (s : State) : Out :=
  gated (.store j b a f k) s fun s p c ls =>
    s.storeBase p c ls (c.stores ls a.toNat (storeOff j k) (2 ^ f.toNat) 0 b.toNat fun l => l.rx b.toNat)

/-! ## Computation -/

def execOpImm (i : BitVec 12) (a : BitVec 5) (f : BitVec 3) (d : BitVec 5) (s : State) : Out :=
  unaryX (.opImm i a f d) s a d fun x => aluOp f x (sext i)

def execSlli (h : BitVec 6) (a d : BitVec 5) (s : State) : Out := unaryX (.slli h a d) s a d fun x => x <<< h.toNat
def execSrli (h : BitVec 6) (a d : BitVec 5) (s : State) : Out := unaryX (.srli h a d) s a d fun x => x >>> h.toNat
def execSrai (h : BitVec 6) (a d : BitVec 5) (s : State) : Out := unaryX (.srai h a d) s a d fun x => x.sshiftRight h.toNat

def execAddiw (i : BitVec 12) (a d : BitVec 5) (s : State) : Out :=
  unaryX (.addiw i a d) s a d fun x => wResult (x + sext i)

def execSlliw (h : BitVec 5) (a d : BitVec 5) (s : State) : Out := unaryX (.slliw h a d) s a d fun x => sllwOp x (zext h)
def execSrliw (h : BitVec 5) (a d : BitVec 5) (s : State) : Out := unaryX (.srliw h a d) s a d fun x => srlwOp x (zext h)
def execSraiw (h : BitVec 5) (a d : BitVec 5) (s : State) : Out := unaryX (.sraiw h a d) s a d fun x => srawOp x (zext h)

def execOp (b a : BitVec 5) (f : BitVec 3) (d : BitVec 5) (s : State) : Out := binaryX (.op b a f d) s a b d (aluOp f)
def execSub (b a d : BitVec 5) (s : State) : Out := binaryX (.sub b a d) s a b d fun x y => x - y
def execSra (b a d : BitVec 5) (s : State) : Out := binaryX (.sra b a d) s a b d sraOp
def execOp32 (b a : BitVec 5) (f : BitVec 3) (d : BitVec 5) (s : State) : Out := binaryX (.op32 b a f d) s a b d (aluOpW f)
def execSubw (b a d : BitVec 5) (s : State) : Out := binaryX (.subw b a d) s a b d fun x y => wResult (x - y)
def execSraw (b a d : BitVec 5) (s : State) : Out := binaryX (.sraw b a d) s a b d srawOp

def execMul (b a : BitVec 5) (f : BitVec 2) (d : BitVec 5) (s : State) : Out := binaryX (.mul b a f d) s a b d (mulOp f)
def execDiv (b a : BitVec 5) (f : BitVec 2) (d : BitVec 5) (s : State) : Out := binaryX (.div b a f d) s a b d (divOp f)
def execMulw (b a d : BitVec 5) (s : State) : Out := binaryX (.mulw b a d) s a b d fun x y => wResult (x * y)

def execDivw (b a : BitVec 5) (f : BitVec 2) (d : BitVec 5) (s : State) : Out :=
  binaryX (.divw b a f d) s a b d fun x y => sext (divOp f (lo32 x) (lo32 y))

/-- The shift amount of `sh1add` to `sh3add` is the selector (10 R199). -/
def execShadd (b a : BitVec 5) (f : BitVec 2) (d : BitVec 5) (s : State) : Out :=
  binaryX (.shadd b a f d) s a b d fun x y => y + (x <<< f.toNat)

def execAddUw (b a d : BitVec 5) (s : State) : Out := binaryX (.addUw b a d) s a b d fun x y => y + zext (lo32 x)

def execShaddUw (b a : BitVec 5) (f : BitVec 2) (d : BitVec 5) (s : State) : Out :=
  binaryX (.shaddUw b a f d) s a b d fun x y => y + (zext (lo32 x) <<< f.toNat)

def execSlliUw (h : BitVec 6) (a d : BitVec 5) (s : State) : Out :=
  unaryX (.slliUw h a d) s a d fun x => zext (lo32 x) <<< h.toNat

def execAndnOrnXnor (b a : BitVec 5) (f : BitVec 3) (d : BitVec 5) (s : State) : Out :=
  binaryX (.andnOrnXnor b a f d) s a b d (logicNotOp f)

def execMinMax (b a : BitVec 5) (f : BitVec 2) (d : BitVec 5) (s : State) : Out :=
  binaryX (.minMax b a f d) s a b d (minMaxOp f)

def execRolRor (b a : BitVec 5) (f : BitVec 1) (d : BitVec 5) (s : State) : Out :=
  binaryX (.rolRor b a f d) s a b d fun x y => rotOp (f = 1#1) x (y.toNat % 64)

def execRolwRorw (b a : BitVec 5) (f : BitVec 1) (d : BitVec 5) (s : State) : Out :=
  binaryX (.rolwRorw b a f d) s a b d fun x y => sext (rotOp (f = 1#1) (lo32 x) (y.toNat % 32))

def execRori (h : BitVec 6) (a d : BitVec 5) (s : State) : Out := unaryX (.rori h a d) s a d fun x => rotOp true x h.toNat

def execRoriw (h : BitVec 5) (a d : BitVec 5) (s : State) : Out :=
  unaryX (.roriw h a d) s a d fun x => sext (rotOp true (lo32 x) h.toNat)

def execClzCtzCpopSext (f : BitVec 3) (a d : BitVec 5) (s : State) : Out :=
  unaryX (.clzCtzCpopSext f a d) s a d (countOp f)

def execClzwCtzwCpopw (f : BitVec 3) (a d : BitVec 5) (s : State) : Out :=
  unaryX (.clzwCtzwCpopw f a d) s a d (countOpW f)

def execOrcB (a d : BitVec 5) (s : State) : Out := unaryX (.orcB a d) s a d orcB
def execRev8 (a d : BitVec 5) (s : State) : Out := unaryX (.rev8 a d) s a d rev8
def execZextH (a d : BitVec 5) (s : State) : Out := unaryX (.zextH a d) s a d fun x => zext (bits 0 16 x)

/-! ## Fences and environment calls -/

/-- A full fence at system scope: earlier loads return, a release at `.sys`, an acquire at `.sys` (10 R204). A fence whose
pred or succ is 0 is a hint (09 R168). -/
def execFence (f p q : BitVec 4) (a d : BitVec 5) (s : State) : Out :=
  gated (.fence f p q a d) s fun s k _ ls =>
    if p = 0#4 || q = 0#4 then s.retire k ls
    else releasing s k 5 ((s.acquire (unitOf k) 5).retire k ls)

/-- `fence.i` drops every line of the unit's L1I (10 R205; 05 R104). -/
def execFenceI (i : BitVec 12) (a d : BitVec 5) (s : State) : Out :=
  gated (.fenceI i a d) s fun s k _ ls => { s with l1i := Tbl.set [] s.l1i (unitOf k) [] }.retire k ls

/-- `ecall` raises the environment call of the mode, with `tval` 0; the mask names the workers (10 R206). -/
def execEcall (s : State) : Out :=
  gated .ecall s fun s k c ls =>
    leading s k c ls fun _ => s.trap k (8 + c.mode.code) 0 c.nextPc (c.workers ls)

/-- `ebreak` raises breakpoint with its PC in `tval`. -/
def execEbreak (s : State) : Out :=
  gated .ebreak s fun s k c ls => leading s k c ls fun _ => s.trap k 3 c.nextPc c.nextPc (c.workers ls)

end Sys2Proof.Machine
end

