-- ==== Sys2Proof/Machine/Copy.lean ====
section
/-! DEFINITION. Mailbox channels (07 R132 to R137), and the Drays: launch, the units of each mode, faults, completion and
status (04 R73 to R93). -/
namespace Sys2Proof.Machine

/-! ## Channels -/

/-- The packets of a channel, oldest first. -/
def Ctx.chan (c : Ctx) (q : Nat) : List (List Reg) := Tbl.get [] c.chans q

def Ctx.setChan (c : Ctx) (q : Nat) (ps : List (List Reg)) : Ctx := { c with chans := Tbl.set [] c.chans q ps }

/-- The doubles that a channel holds; it has room for 32 (07 R132). -/
def Ctx.chanFill (c : Ctx) (q : Nat) : Nat := (c.chan q).foldl (fun n p => n + p.length) 0

/-- Put a whole packet in the tail; `none` where fewer doubles are free. -/
def Ctx.push (c : Ctx) (q : Nat) (p : List Reg) : Option Ctx :=
  if 32 < c.chanFill q + p.length then none else some (c.setChan q (c.chan q ++ [p]))

/-! ## The parameters of a transfer -/

def CopyCsrs.modeOf (p : CopyCsrs) : Nat := (bits 0 3 p.mode).toNat
def CopyCsrs.esize (p : CopyCsrs) : Nat := (bits 3 3 p.mode).toNat
def CopyCsrs.dir (p : CopyCsrs) : Bool := p.mode.getLsbD 6
def CopyCsrs.int (p : CopyCsrs) : Bool := p.mode.getLsbD 7
def CopyCsrs.barOn (p : CopyCsrs) : Bool := p.mode.getLsbD 8
def CopyCsrs.clipMsg (p : CopyCsrs) : Bool := p.mode.getLsbD 9
def CopyCsrs.fill (p : CopyCsrs) : Bool := p.mode.getLsbD 10
def CopyCsrs.idxBytes (p : CopyCsrs) : Nat := if p.mode.getLsbD 11 then 8 else 4
def CopyCsrs.nlist (p : CopyCsrs) : Bool := p.mode.getLsbD 12
def CopyCsrs.xnote (p : CopyCsrs) : Bool := p.mode.getLsbD 13
def CopyCsrs.start (p : CopyCsrs) : Nat := (bits 28 36 p.mode).toNat

/-- The extent of dimension `d` of the box, and its clip limit (04 R79). -/
def CopyCsrs.boxN (p : CopyCsrs) (d : Nat) : Nat := p.box.toNat / 2 ^ (12 * d) % 4096
def CopyCsrs.clipL (p : CopyCsrs) (d : Nat) : Nat := p.dim.toNat / 2 ^ (12 * d) % 4096

/-- A stride M × 2^E from its 16 bits (04 R79). -/
def strideOf (v : Nat) : Nat := v % 1024 * 2 ^ (v / 1024 % 64)

def CopyCsrs.strideD (p : CopyCsrs) (d : Nat) : Nat := strideOf (p.stride.toNat / 2 ^ (16 * (d - 1)) % 65536)

/-- The index stride and LIMIT of modes 1 to 3 (04 R82, R83). -/
def CopyCsrs.idxStride (p : CopyCsrs) : Nat := strideOf (p.stride.toNat % 65536)
def CopyCsrs.limit (p : CopyCsrs) : Nat := (bits 16 36 p.stride).toNat

/-- P and p of mode 4 (04 R84). -/
def CopyCsrs.parts (p : CopyCsrs) : Nat := (bits 36 12 p.box).toNat + 1
def CopyCsrs.own (p : CopyCsrs) : Nat := (bits 48 12 p.box).toNat

/-- The bytes of a unit. -/
def CopyCsrs.unitBytes (p : CopyCsrs) : Nat :=
  match p.modeOf with
  | 3 => (bits 0 24 p.box).toNat
  | 4 => (bits 0 36 p.box).toNat
  | _ => 2 ^ p.esize

/-- The number of units. -/
def CopyCsrs.unitCount (p : CopyCsrs) : Nat :=
  match p.modeOf with
  | 0 => [0, 1, 2, 3, 4].foldl (fun n d => n * (p.boxN d + 1)) 1
  | 3 => (bits 24 32 p.box).toNat
  | 4 => p.parts
  | _ => (bits 0 36 p.box).toNat

/-- T, the byte total. -/
def CopyCsrs.total (p : CopyCsrs) : Nat := p.unitBytes * p.unitCount

/-- A reserved field of the mode is set (04 R75, R79, R82 to R84). -/
def CopyCsrs.reserved (p : CopyCsrs) : Bool :=
  match p.modeOf with
  | 0 => bits 60 4 p.box != 0#4 || bits 60 4 p.dim != 0#4
  | 3 => bits 56 8 p.box != 0#8 || bits 52 12 p.stride != 0#12
  | 4 => bits 60 4 p.box != 0#4
  | _ => bits 36 28 p.box != 0#28 || bits 52 12 p.stride != 0#12

/-- An address or size is not aligned as the mode requires (04 R79, R82 to R84). -/
def CopyCsrs.misaligned (p : CopyCsrs) : Bool :=
  let off := fun (v : Word) n => v.toNat % n != 0
  match p.modeOf with
  | 3 => off p.src 16 || off p.dst 16 || p.idxStride % 16 != 0 || p.unitBytes % 16 != 0 || off p.dim p.idxBytes
  | 4 => off p.src 16 || p.unitBytes % 16 != 0
  | 0 => off p.src p.unitBytes || off p.dst p.unitBytes
  | _ => off p.src p.unitBytes || off p.dst p.unitBytes || off p.dim p.idxBytes

/-! ## Launch -/

/-- A window offset of an address with VA[40] = 0. -/
def windowOff (va : Word) : Option Nat := if inWindow va && !va.getLsbD 40 then some (va.toNat % 2 ^ 40) else none

/-- The offset in cluster SRAM storage of a window offset of a context. -/
def windowLoc (cluster base off : Nat) : Nat := 2 ^ 52 + cluster * 2 ^ 23 + base + off

/-- The reason code of a launch that its parameters end, or 0 (04 R76). Where several conditions hold, the lowest-numbered reason is
returned (DESIGN CHOICE, L55: R76 orders the checks, not the reasons within the first). -/
def State.launchReason (s : State) (k : Nat) (c : Ctx) : Nat :=
  let p := c.copy
  if 4 < p.modeOf || p.reserved || 4 < p.esize || (3 ≤ p.modeOf && p.esize ≠ 0) || (p.modeOf ≠ 0 && p.dir) then 1
  else if p.misaligned then 2
  else if p.total = 0 || 2 ^ 36 ≤ p.total || p.unitCount ≤ p.start then 3
  else if p.int && (p.hdl = 0 || p.hdl.toNat % 4 ≠ 0 || isHandler k) then 4
  else if p.barOn && (p.bar.toNat % 16 ≠ 0 || (windowOff p.bar).isNone) then 5
  else if p.barOn && (match windowOff p.bar with
      | some o => o + 16 ≤ c.allocSize && 2 ^ 36 ≤ field (s.value (windowLoc (clusterOf k) c.allocBase o + 8) 8) 0 36 + p.total
      | none => false) then 6
  else if p.modeOf = 4 && p.parts ≤ p.own then 7
  else 0

/-- The ranges of a transfer whose extent is known at launch (04 R76 step 2). With NLIST = 1 that of the list is its count double
alone, since the count is not known (DESIGN CHOICE, L55). -/
def CopyCsrs.ranges (p : CopyCsrs) : List (Word × Nat) :=
  let u := p.unitBytes
  let n := p.unitCount
  let bar := if p.barOn then [(p.bar, 16)] else []
  let span := [1, 2, 3, 4].foldl (fun t d => t + min (p.boxN d) (p.clipL d) * p.strideD d)
    (min (p.boxN 0) (p.clipL 0) * u + u)
  (match p.modeOf with
   | 0 => if p.dir then [(p.src, n * u), (p.dst, span)] else [(p.src, span), (p.dst, n * u)]
   | 1 => [(p.dst, n * u), (p.dim, n * p.idxBytes)]
   | 2 => [(p.src, n * u), (p.dim, n * p.idxBytes)]
   | 3 => [(p.dst, n * u), (p.dim, if p.nlist then 8 else n * p.idxBytes)]
   | _ => [(p.src, n * u)]) ++ bar

/-- The first out-of-range address of the window ranges of a launch. -/
def Ctx.launchBounds (c : Ctx) (p : CopyCsrs) : Option Word :=
  p.ranges.findSome? fun r =>
    match windowOff r.1 with
    | none => none
    | some o =>
      if o + r.2 ≤ c.allocSize then none
      else some (if c.allocSize ≤ o then r.1 else 0xFFFFFE0000000000#64 + BitVec.ofNat 64 c.allocSize)

/-- A wave of the crew of a launch is resident. -/
def State.crewResident (s : State) (launch : Option Nat) (crew : Nat) : Bool :=
  s.ctxs.any fun e => e.2.status != .vacant && e.2.launch == launch && e.2.crew == some crew

/-- The allocation of a resident crew of a launch: its cluster, base and size (04 R78). -/
def State.crewAlloc (s : State) (launch : Option Nat) (crew : Nat) : Option (Nat × Nat × Nat) :=
  if !s.crewResident launch crew then none
  else s.clusters.findSome? fun e =>
    (e.2.allocs.find? fun a => some a.launch == launch && a.crew == some crew).map fun a => (e.1, a.base, a.size)

/-- The seal entries, by location, of the sealed ranges that meet a range of the allocation that an address names; the
whole allocation where the length is `none` (04 R86). -/
def State.sealsMet (s : State) (t : Xfer) (va : Word) (n : Option Nat) : List Nat :=
  let al := if !inWindow va then none
    else if va.getLsbD 40 then
      (s.crewAlloc t.launch (bits 24 16 va).toNat).map fun a => (a.1, a.2.1, a.2.2, (bits 0 23 va).toNat)
    else some (t.cluster, t.allocBase, t.allocSize, va.toNat % 2 ^ 40)
  match al with
  | none => []
  | some (cl, base, size, off) =>
    let lo := match n with
      | some _ => off
      | none => 0
    let hi := match n with
      | some n => off + n
      | none => size
    ((s.cluster cl).seals.filter fun e => e.alloc == base && e.base < hi && lo < e.base + e.size).map fun e =>
      windowLoc cl e.alloc e.base

/-- Every seal entry that a transfer counts on as it starts (04 R86). -/
def State.launchSeals (s : State) (t : Xfer) : List Nat :=
  let p := t.par
  let n := p.unitCount
  let idx := fun (extra : Nat) => s.sealsMet t p.dim (some (extra + n * p.idxBytes))
  let span := [1, 2, 3, 4].foldl (fun t d => t + min (p.boxN d) (p.clipL d) * p.strideD d)
    (min (p.boxN 0) (p.clipL 0) * p.unitBytes + p.unitBytes)
  let far := if p.limit = 0 then none else some ((p.limit - 1) * p.idxStride + p.unitBytes)
  (match p.modeOf with
   | 0 => s.sealsMet t p.src (some (if p.dir then n * p.unitBytes else span))
   | 1 => s.sealsMet t p.src far ++ idx 0
   | 2 => s.sealsMet t p.src (some (n * p.unitBytes)) ++ idx 0
   | 3 => s.sealsMet t p.src far ++ idx (if p.nlist then 8 else 0)
   | _ => s.sealsMet t p.src (some (n * p.unitBytes)) ++ s.sealsMet t p.dim (some (8 * n))).eraseDups

/-- Add to, or take from, the copy count of a seal entry (05 R98). -/
def State.sealCount (s : State) (loc : Nat) (up : Bool) : State :=
  let cl := (loc - 2 ^ 52) / 2 ^ 23
  let o := (loc - 2 ^ 52) % 2 ^ 23
  let c := s.cluster cl
  s.setCluster cl { c with seals := c.seals.map fun e =>
    if e.alloc + e.base == o then { e with count := if up then e.count + 1 else e.count - 1 } else e }

/-- The Dray numbers of a cluster, as units; the Dray of a transfer is one of them. -/
def drayUnit (cl n : Nat) : Nat := cl * 128 + 68 + n

def State.dray (s : State) (d : Nat) : Dray := Tbl.get Dray.reset s.drays d
def State.setDray (s : State) (d : Nat) (v : Dray) : State := { s with drays := Tbl.set Dray.reset s.drays d v }

/-- The Dray with fewer queued transfers, or Dray 0 (04 R77). -/
def State.pickDray (s : State) (cl : Nat) : Nat :=
  if (s.dray (drayUnit cl 1)).queue.length < (s.dray (drayUnit cl 0)).queue.length then drayUnit cl 1 else drayUnit cl 0

/-- The launches of a cluster that handlers hold. -/
def State.heldXfers (s : State) (cl : Nat) : Nat :=
  s.xfers.countP fun e =>
    match e.2 with
    | some t => t.held && t.cluster == cl
    | none => false

/-- Each Dray queues 64 transfers (04 R76); a place is kept for every held launch, which takes its Dray at `hend`. -/
def State.draysFull (s : State) (cl : Nat) : Bool :=
  64 ≤ (s.dray (s.pickDray cl)).queue.length
    || 128 ≤ (s.dray (drayUnit cl 0)).queue.length + (s.dray (drayUnit cl 1)).queue.length + s.heldXfers cl

/-- A transfer starts to wait at the Dray with fewer queued transfers, and counts on the seal entries that it can read: at the launch, or
at `hend` for a held one (04 R77, R86; 05 R98). -/
def State.startXfer (s : State) (x : Nat) : State :=
  match s.xfer x with
  | none => s
  | some t =>
    let d := s.pickDray t.cluster
    let seals := s.launchSeals t
    let s := s.setXfer x (some { t with held := false, dray := d, seals := seals })
    let s := seals.foldl (fun s l => s.sealCount l true) s
    s.setDray d { s.dray d with queue := (s.dray d).queue ++ [x] }

/-- The status of a context's 16 most recent transfers is kept (04 R91). -/
def Ctx.remember (c : Ctx) (x : Nat) : Ctx := { c with recent := (x :: c.recent).take 16 }

/-- Snapshot the parameters and create the transfer (04 R77): the number of the transfer and the state. -/
def State.newXfer (s : State) (k : Nat) (c : Ctx) : State × Nat :=
  let p := c.copy
  let x := s.nextId
  let cl := clusterOf k
  let t : Xfer := {
    uid := c.uid, id := c.nextXid, dray := s.pickDray cl, par := p, state := 0, code := 0, cause := 0, clips := 0,
    capped := false, clq := false, wside := false, done := p.start, units := [], issued := [], faultUnit := none,
    faultAddr := 0, count := none, left := if p.barOn then p.total else 0,
    barLoc := windowLoc cl c.allocBase ((windowOff p.bar).getD 0), held := isHandler k, cancelled := false,
    podWrite := false, notice := none, seals := [], satp := c.csr.satp, mode := c.dataMode,
    sum := c.csr.mstatus.getLsbD 18, mxr := c.csr.mstatus.getLsbD 19, launch := c.launch, allocBase := c.allocBase,
    allocSize := c.allocSize, cluster := cl, walkFault := [] }
  let s := { s with nextId := x + 1 }.setXfer x (some t)
  let s := s.modCtx k fun c => { (c.count .cp).remember x with nextXid := c.nextXid + 1 }
  let s := if p.barOn then
      s.setBarrier t.barLoc (s.value t.barLoc 8)
        (s.value (t.barLoc + 8) 8 / 2 ^ 36 * 2 ^ 36 + (field (s.value (t.barLoc + 8) 8) 0 36 + p.total) % 2 ^ 36)
    else s
  (s, x)

/-- A read of `cplaunch` (04 R76, R77); `rd` receives the identifier or the reason. The release of a handler's launch is made at `hend`,
like that of its sends (12 R250, R252). A handler with 16 outstanding transfers, all held, waits by 04 R76 and does not raise the BUDGET of
12 R249 (DESIGN CHOICE, L98). -/
def State.launchCopy (s : State) (k : Nat) (c : Ctx) (ls : List Nat) (rd : Nat) : State :=
  let finish := fun (s : State) (v : Word) => s.modCtx k fun c => (c.writeAll ls rd (Reg.of v false)).retire ls
  let r := s.launchReason k c
  if r ≠ 0 then finish s (BitVec.ofNat 64 (2 ^ 63 + r))
  else match c.launchBounds c.copy with
    | some va => s.trap k 24 va c.nextPc (c.workers ls)
    | none =>
      if 16 ≤ c.cnt.cp || s.draysFull (clusterOf k) then s
      else match c.task with
        | some t =>
          if 16 ≤ t.held.length then s.trap k 28 1 c.nextPc ls
          else
            let (s, x) := s.newXfer k c
            finish (s.modCtx k fun c => { c with task := some { t with held := t.held ++ [.launch x] } }) (zext c.nextXid)
        | none =>
          releasing s k 3 <|
            let (s, x) := s.newXfer k c
            finish (s.startXfer x) (zext c.nextXid)

/-! ## Accesses of a Dray -/

/-- What an access of a Dray comes to: it goes on, it faults with a cause and address, or a line that its owner holds makes it
wait. -/
inductive DrayRes (α : Type) where
  | ok (v : α)
  | fault (cause : Nat) (va : Word)
  | wait

/-- Translate one piece of at most a line for transfer `x` (04 R78; 02 R45). A home whose path has failed raises REMOTE (03 R58;
04 R92). -/
def State.drayXlat (s : State) (x : Nat) (t : Xfer) (acc : Nat) (va : Word) (n : Nat) : State × DrayRes Spot :=
  if inWindow va then
    if va.getLsbD 40 then
      match s.crewAlloc t.launch (bits 24 16 va).toNat with
      | none => (s, .fault 24 va)
      | some (cl, base, size) =>
        let off := (bits 0 23 va).toNat
        if va.getLsbD 23 then (s, .fault 24 va)
        else if size < off + n then
          (s, .fault 24 (if size ≤ off then va else va + BitVec.ofNat 64 (size - off)))
        else (s, .ok (.bare (windowLoc cl base off) .window))
    else
      let off := va.toNat % 2 ^ 40
      if t.allocSize < off + n then
        (s, .fault 24 (if t.allocSize ≤ off then va else va + BitVec.ofNat 64 (t.allocSize - off)))
      else (s, .ok (.bare (windowLoc t.cluster t.allocBase off) .window))
  else
    match s.engineXlat { who := .xfer x, unit := t.dray, tlb := some (drayTlb t.dray), satp := t.satp, mode := t.mode, sum := t.sum,
                         mxr := t.mxr } acc va with
    | (s, .wait) => (s, .wait)
    | (s, .fault c) => (s, .fault c va)
    | (s, .ok p) =>
      if p.home = .device then (s, .fault (accessFault acc) va)
      else if p.home != .core && !isHost p.loc && s.mgmt.failedHomes.contains (s.homeOf p.loc) then (s, .fault 30 va)
      else (s, .ok p)

/-- The pieces of a range, each within a line, translated in order. -/
def State.drayPieces (s : State) (x : Nat) (t : Xfer) (acc : Nat) (va : Word) (n : Nat) : Nat → State × DrayRes (List Piece)
  | 0 => (s, .ok [])
  | fuel + 1 =>
    if n = 0 then (s, .ok [])
    else
      let len := min n (128 - va.toNat % 128)
      match s.drayXlat x t acc va len with
      | (s, .fault c v) => (s, .fault c v)
      | (s, .wait) => (s, .wait)
      | (s, .ok p) =>
        if acc = 1 && s.sealed p.loc len then (s, .fault 7 va)
        else match s.drayPieces x t acc (va + BitVec.ofNat 64 len) (n - len) fuel with
          | (s, .ok ps) => (s, .ok ({ off := 0, n := len, at_ := p } :: ps))
          | r => r

/-- The pieces of a range with the fuel that it needs. -/
def State.drayRange (s : State) (x : Nat) (t : Xfer) (acc : Nat) (va : Word) (n : Nat) : State × DrayRes (List Piece) :=
  s.drayPieces x t acc va n (n / 128 + 2)

/-- The lines of the pieces that a home slice serves: an L1 may own one whatever the page through which the Dray reaches it (03 R54;
04 R72). -/
def State.homeLines (s : State) (ps : List Piece) : List Nat :=
  (ps.filter fun p => p.at_.home != .window && isHbm s.dies (s.canon p.at_.loc)).map fun p => s.canon p.at_.loc / 128

/-- Some pieces lie in a core's page whose owner atomics wait: an access comes after them (05 R99). -/
def State.ownersBusy (s : State) (ps : List Piece) : Bool :=
  ps.any fun p => p.at_.home == .core && !(s.core (coreOf p.at_.loc)).owners.isEmpty

/-- Go on once the pieces are where a Dray reaches them: no L1 owns their lines, or it is the transfer's turn there (03 R54), and no owner
atomic of their cores waits. -/
def State.drayReach (s : State) (x : Nat) (forRead : Bool) (ps : List Piece) : State × Bool :=
  if s.ownersBusy ps then (s, false)
  else if s.mayActAll (.xfer x) (s.homeLines ps) then (s, true)
  else (s.askLines (.xfer x) (s.homeLines ps) forRead, false)

/-- Read a range: its bytes with their poison. -/
def State.drayRead (s : State) (x : Nat) (t : Xfer) (va : Word) (n : Nat) : State × DrayRes (List (Nat × Bool)) :=
  match s.drayRange x t 0 va n with
  | (s, .fault c v) => (s, .fault c v)
  | (s, .wait) => (s, .wait)
  | (s, .ok ps) =>
    match s.drayReach x true ps with
    | (s, false) => (s, .wait)
    | (s, true) => (s, .ok (ps.flatMap fun p => s.readAt p.at_.loc p.n p.at_.home))

/-- Write the bytes of one piece at the place where they live. -/
def State.writePiece (s : State) (p : Piece) (bs : List (Nat × Bool)) : State :=
  if p.at_.home = .window then
    bs.zipIdx.foldl (fun s e => s.putByte (p.at_.loc + e.2) (BitVec.ofNat 8 e.1.1) e.1.2) s
  else
    let o := p.at_.loc % 128
    let f := bs.zipIdx.foldl (fun (f : LineBits × BitVec 128 × BitVec 128) e =>
      (setLineByte f.1 (o + e.2) e.1.1, setBit f.2.1 (o + e.2) true, setBit f.2.2 (o + e.2) e.1.2)) (0, 0, 0)
    s.mergeLine (p.at_.loc / 128) f.1 f.2.1 f.2.2 p.at_.home

def State.writePieces (s : State) (bs : List (Nat × Bool)) : List Piece → State
  | [] => s
  | p :: ps => (s.writePiece p (bs.take p.n)).writePieces (bs.drop p.n) ps

/-- Poisoned bytes of a write would go to the host memory window (04 R86). -/
def poisonToHost (bs : List (Nat × Bool)) : List Piece → Bool
  | [] => false
  | p :: ps => (isHost p.at_.loc && (bs.take p.n).any (·.2)) || poisonToHost (bs.drop p.n) ps

/-- Write a range, unless it meets pieces that lower units have still to read or to write (04 R85); poisoned bytes may not go to the host memory
window (04 R86). The second part tells whether a write went through the pod window. -/
def State.drayWrite (s : State) (x : Nat) (t : Xfer) (va : Word) (bs : List (Nat × Bool)) (before : List Piece) :
    State × DrayRes Bool :=
  match s.drayRange x t 1 va bs.length with
  | (s, .fault c v) => (s, .fault c v)
  | (s, .wait) => (s, .wait)
  | (s, .ok ps) =>
    let meets := fun (p q : Piece) => s.canon p.at_.loc < s.canon q.at_.loc + q.n && s.canon q.at_.loc < s.canon p.at_.loc + p.n
    if poisonToHost bs ps then (s, .fault 26 va)
    else if ps.any fun p => before.any (meets p) then (s, .wait)
    else match s.drayReach x false ps with
      | (s, false) => (s, .wait)
      | (s, true) => (s.writePieces bs ps, .ok (ps.any fun p => isPod p.at_.loc))

/-! ## Units -/

/-- Leading performed units: `done` moves over the units performed out of order. -/
def advance (done : Nat) (us : List Nat) : Nat → Nat × List Nat
  | 0 => (done, us)
  | fuel + 1 => if us.contains done then advance (done + 1) (us.filter (· != done)) fuel else (done, us)

/-- Unit `u` of a transfer is performed: its bytes are settled, but one byte of T stays pending (04 R88); with NLIST, the
rows past the count are performed with the last one (R83). -/
def State.unitDone (s : State) (x : Nat) (t : Xfer) (u : Nat) (clipped pod : Bool) : State :=
  let n := if t.par.barOn then min t.par.unitBytes (t.left - 1) else 0
  let s := if n = 0 then s else s.settle t.barLoc n
  let (d, us) := advance t.done (u :: t.units) (t.units.length + 1)
  let d := match t.count with
    | some c => if c ≤ d then t.par.unitCount else d
    | none => d
  (s.setXfer x (some { t with done := d, units := us, left := t.left - n, podWrite := t.podWrite || pod, notice := none,
                              clips := t.clips + if clipped then 1 else 0 })).passAll (.xfer x)

/-- A fault in unit `u`: the lowest such unit is the one at which the transfer stops (04 R92). -/
def State.unitFault (s : State) (x : Nat) (t : Xfer) (u cause : Nat) (va : Word) (w : Bool) : State :=
  let stop := s.setXfer x (some { t with faultUnit := some u, cause := cause, faultAddr := va, wside := w })
  (match t.faultUnit with
   | some m => if m ≤ u then s else stop
   | none => stop).passAll (.xfer x)

/-- The index of a unit in dimension `d` of the box (04 R80). -/
def CopyCsrs.tileIndex (p : CopyCsrs) (u d : Nat) : Nat :=
  (match d with
   | 0 => u
   | 1 => u / (p.boxN 0 + 1)
   | 2 => u / ((p.boxN 0 + 1) * (p.boxN 1 + 1))
   | 3 => u / ((p.boxN 0 + 1) * (p.boxN 1 + 1) * (p.boxN 2 + 1))
   | _ => u / ((p.boxN 0 + 1) * (p.boxN 1 + 1) * (p.boxN 2 + 1) * (p.boxN 3 + 1))) % (p.boxN d + 1)

/-- The strided and the dense address of a unit of tile mode (04 R80). -/
def CopyCsrs.tileStrided (p : CopyCsrs) (u : Nat) : Word :=
  (if p.dir then p.dst else p.src)
    + BitVec.ofNat 64 (p.tileIndex u 0 * p.unitBytes + [1, 2, 3, 4].foldl (fun o d => o + p.tileIndex u d * p.strideD d) 0)

def CopyCsrs.tileDense (p : CopyCsrs) (u : Nat) : Word :=
  (if p.dir then p.src else p.dst) + BitVec.ofNat 64 (p.unitBytes * u)

/-- A unit of tile mode is clipped (04 R80). -/
def CopyCsrs.tileClipped (p : CopyCsrs) (u : Nat) : Bool := [0, 1, 2, 3, 4].any fun d => p.clipL d < p.tileIndex u d

/-- The address of index `u` of the list of modes 1 to 3 (04 R82, R83). -/
def CopyCsrs.indexVa (p : CopyCsrs) (u : Nat) : Word :=
  p.dim + BitVec.ofNat 64 ((if p.modeOf = 3 && p.nlist then 8 else 0) + u * p.idxBytes)

/-- An index outside LIMIT clips its unit (04 R82). -/
def CopyCsrs.outside (p : CopyCsrs) (k : Int) : Bool := p.limit ≠ 0 && (k < 0 || (p.limit : Int) ≤ k)

def indexAddr (base : Word) (k : Int) (stride : Nat) : Word := base + BitVec.ofInt 64 (k * stride)

/-- Units above `done` have been issued up to this one: a cancel and a fault leave them to be performed (04 R91, R92). -/
def Xfer.issuedTo (t : Xfer) : Nat :=
  t.units.foldl (fun n u => max n (u + 1)) (max (t.faultUnit.getD 0) ((t.notice.map fun n => n.unit + 1).getD 0))

/-- A transfer that runs may perform unit `u` now: it is at or above START, not performed, below a unit that faulted and
below the count; a cancelled one performs what it has issued. A transfer that may write one byte twice performs its units in
order, so only tile mode with a dense destination, gathers and row gathers run ahead, within the 512 line requests of
04 R72. -/
def Xfer.mayPerform (t : Xfer) (u : Nat) : Bool :=
  let n := match t.count with
    | some c => c
    | none => t.par.unitCount
  let ahead := (t.par.modeOf = 0 && !t.par.dir) || t.par.modeOf = 1 || t.par.modeOf = 3
  t.state = 1 && (!t.cancelled || u < t.issuedTo) && t.code = 0 && t.done ≤ u && u < n && !t.units.contains u
    && (match t.faultUnit with
        | some m => u < m
        | none => true)
    && (if ahead then u < t.done + 512 else u = t.done)

/-- The pieces that unit `v` of a transfer that runs ahead reads: its index, and its source unless it is clipped. -/
def State.unitReads (s : State) (x : Nat) (t : Xfer) (v : Nat) : State × DrayRes (List Piece) :=
  let p := t.par
  if p.modeOf = 0 then
    if p.tileClipped v then (s, .ok []) else s.drayRange x t 0 (p.tileStrided v) p.unitBytes
  else
    match s.drayRange x t 0 (p.indexVa v) p.idxBytes with
    | (s, .ok idx) =>
      (match s.drayRead x t (p.indexVa v) p.idxBytes with
       | (s, .ok bs) =>
         let k := toSigned (8 * p.idxBytes) (ofBytes (bs.map (·.1)))
         if bs.any (·.2) || p.outside k then (s, .ok idx)
         else match s.drayRange x t 0 (indexAddr p.src k p.idxStride) p.unitBytes with
           | (s, .ok ps) => (s, .ok (idx ++ ps))
           | r => r
       | (s, .fault c va) => (s, .fault c va)
       | (s, .wait) => (s, .wait))
    | r => r

/-- The dense place that unit `v` of a transfer that runs ahead writes. -/
def CopyCsrs.denseAt (p : CopyCsrs) (v : Nat) : Word := p.dst + BitVec.ofNat 64 (p.unitBytes * v)

/-- The pieces that some units have still to read and to write: `none` where they are not known yet, or one of the units faults. -/
def State.allPieces (s : State) (x : Nat) (t : Xfer) : List Nat → State × Option (List Piece)
  | [] => (s, some [])
  | v :: vs =>
    match s.unitReads x t v with
    | (s, .ok ps) =>
      (match s.drayRange x t 1 (t.par.denseAt v) t.par.unitBytes with
       | (s, .ok ws) =>
         (match s.allPieces x t vs with
          | (s, some qs) => (s, some (ps ++ ws ++ qs))
          | r => r)
       | (s, _) => (s, none))
    | (s, _) => (s, none)

/-- The units below `u` that are not performed. -/
def Xfer.lower (t : Xfer) (u : Nat) : List Nat :=
  ((List.range (u - t.done)).map (t.done + ·)).filter fun v => !t.units.contains v

/-- Write for unit `u`, behind the reads of every lower unit and its writes to the same bytes (04 R85), and go on. -/
def State.unitWrite (s : State) (x : Nat) (t : Xfer) (u : Nat) (dst : Word) (bs : List (Nat × Bool)) (go : State → Bool → State) :
    State :=
  match s.allPieces x t (t.lower u) with
  | (s, none) => s
  | (s, some before) =>
    match s.drayWrite x t dst bs before with
    | (s, .fault c v) => s.unitFault x t u c v true
    | (s, .wait) => s
    | (s, .ok pod) => go s pod

/-- Copy `n` bytes for unit `u`, reading before any byte is written. -/
def State.copyUnit (s : State) (x : Nat) (t : Xfer) (u : Nat) (src dst : Word) (n : Nat) : State :=
  match s.drayRead x t src n with
  | (s, .fault c v) => s.unitFault x t u c v false
  | (s, .wait) => s
  | (s, .ok bs) => s.unitWrite x t u dst bs fun s pod => s.unitDone x t u false pod

/-- A clipped unit: its dense bytes are zeros, unless FILL keeps them (04 R80). -/
def State.clipUnit (s : State) (x : Nat) (t : Xfer) (u : Nat) (dense : Option Word) (n : Nat) : State :=
  match dense with
  | none => s.unitDone x t u true false
  | some d => s.unitWrite x t u d (List.replicate n (0, false)) fun s pod => s.unitDone x t u true pod

/-- A unit of a transfer in a mode. -/
def State.withUnit (s : State) (x u mode : Nat) (f : Xfer → State) : State :=
  match s.xfer x with
  | some t => if t.par.modeOf = mode && t.mayPerform u then f t else s
  | none => s

/-- `DRAY_TILE_UNIT` (04 R80). -/
def State.tileUnit (s : State) (x u : Nat) : State :=
  s.withUnit x u 0 fun t =>
    let p := t.par
    let n := p.unitBytes
    if p.tileClipped u then s.clipUnit x t u (if p.dir || p.fill then none else some (p.tileDense u)) n
    else if p.dir then s.copyUnit x t u (p.tileDense u) (p.tileStrided u) n
    else s.copyUnit x t u (p.tileStrided u) (p.tileDense u) n

/-- Read index `u` of the list of a transfer, and go on with it where it lies within LIMIT (04 R82). -/
def State.withIndex (s : State) (x : Nat) (t : Xfer) (u : Nat) (clip : State → State) (go : State → Int → State) : State :=
  let va := t.par.indexVa u
  match s.drayRead x t va t.par.idxBytes with
  | (s, .fault c v) => s.unitFault x t u c v false
  | (s, .wait) => s
  | (s, .ok bs) =>
    if bs.any (·.2) then s.unitFault x t u 26 va false
    else
      let k := toSigned (8 * t.par.idxBytes) (ofBytes (bs.map (·.1)))
      if t.par.outside k then clip s else go s k

/-- A unit of a gather or a row gather (04 R82, R83). -/
def State.gatherFrom (s : State) (x : Nat) (t : Xfer) (u : Nat) : State :=
  let n := t.par.unitBytes
  let dense := t.par.dst + BitVec.ofNat 64 (u * n)
  s.withIndex x t u (fun s => s.clipUnit x t u (if t.par.fill then none else some dense) n) fun s k =>
    s.copyUnit x t u (indexAddr t.par.src k t.par.idxStride) dense n

/-- `DRAY_GATHER_UNIT` (04 R82). -/
def State.gatherUnit (s : State) (x u : Nat) : State := s.withUnit x u 1 fun t => s.gatherFrom x t u

/-- `DRAY_SCATTER_UNIT` (04 R82): a clipped unit writes nothing. -/
def State.scatterUnit (s : State) (x u : Nat) : State :=
  s.withUnit x u 2 fun t =>
    let n := t.par.unitBytes
    s.withIndex x t u (fun s => s.clipUnit x t u none n) fun s k =>
      s.copyUnit x t u (t.par.src + BitVec.ofNat 64 (u * n)) (indexAddr t.par.dst k t.par.idxStride) n

/-- `DRAY_ROW_GATHER_UNIT` (04 R83). -/
def State.rowGatherUnit (s : State) (x u : Nat) : State := s.withUnit x u 3 fun t => s.gatherFrom x t u

/-- The notice's request (04 R84; 19 R397). 03 R56 numbers the CTX and SEQ of thread sets and wave slots, and says nothing of a Dray's:
the tag has the Dray's place with CTX 0, the transfer's own number beside it, and the unit's number as SEQ and ACKSEQ (DESIGN CHOICE,
L97). -/
def State.noticeTag (s : State) (x : Nat) (t : Xfer) (n : Notice) (p : Spot) : TagReq :=
  { place := t.dray * 32, uid := x, seq := BitVec.ofNat 16 n.unit, ack := BitVec.ofNat 16 n.unit, op := .amo 0, loc := p.loc, n := 8,
    v := { v := BitVec.ofNat 64 t.par.unitBytes, p := false }, c := Reg.zero, va := n.va, lane := 0, pend := none, grp := 0,
    home := p.home, age := 0, launch := 0, sent := s.clk, cargo := .none }

/-- The notice of a block that is written: an atomic add of B to the double behind the receive buffer (04 R84). It is a tagged request
to the home slice, or to the core that owns the place, whose reply performs the unit; cluster SRAM and the host perform it
untagged (11 R225; 19 R389). -/
def State.notify (s : State) (x : Nat) (t : Xfer) (n : Notice) : State :=
  match s.drayXlat x t 1 n.va 8 with
  | (s, .fault c v) => s.unitFault x t n.unit c v true
  | (s, .wait) => s
  | (s, .ok p) =>
    if n.va.toNat % 8 ≠ 0 then s.unitFault x t n.unit 6 n.va true
    else if p.home = .reduction || s.sealed p.loc 8 then s.unitFault x t n.unit 7 n.va true
    else
      let r := s.noticeTag x t n p
      if p.home = .window || isHost p.loc then (s.atomicAt r.op p.loc 8 r.v r.c).1.unitDone x t n.unit false n.pod
      else (s.setXfer x (some { t with notice := some { n with pod := n.pod || isPod p.loc, sent := true } })).send
        (laneOut t.dray) p.loc (.tagged r)

/-- The reply to a notice performs its unit. -/
def State.noticed (s : State) (x : Nat) (seq : BitVec 16) : State :=
  match s.xfer x with
  | none => s
  | some t =>
    match t.notice with
    | some n => if n.sent && BitVec.ofNat 16 n.unit == seq then s.unitDone x t n.unit false n.pod else s
    | none => s

/-- `DRAY_POD_EXCHANGE_UNIT` (04 R84). A poisoned D_k stops the transfer on the read side with CAUSE 26, as a poisoned index does,
and a D_k that is no multiple of 16 is used as it is (DESIGN CHOICE, L56: R84 gives neither case an outcome). A block that is written
waits only for its notice. -/
def State.podUnit (s : State) (x u : Nat) : State :=
  s.withUnit x u 4 fun t =>
    match t.notice with
    | some n => if n.sent then s else s.notify x t n
    | none =>
      let p := t.par
      let n := p.unitBytes
      let k := (p.own + 1 + u) % p.parts
      let entry := p.dim + BitVec.ofNat 64 (8 * k)
      match s.drayRead x t entry 8 with
      | (s, .fault c v) => s.unitFault x t u c v false
      | (s, .wait) => s
      | (s, .ok bs) =>
        if bs.any (·.2) then s.unitFault x t u 26 entry false
        else
          let d := BitVec.ofNat 64 (ofBytes (bs.map (·.1)))
          match s.drayRead x t (p.src + BitVec.ofNat 64 (k * n)) n with
          | (s, .fault c v) => s.unitFault x t u c v false
          | (s, .wait) => s
          | (s, .ok blk) =>
            s.unitWrite x t u (d + BitVec.ofNat 64 (p.own * n)) blk fun s pod =>
              if p.xnote then
                s.setXfer x (some { t with notice := some { unit := u, va := d + BitVec.ofNat 64 (p.parts * n), pod := pod, sent := false } })
              else s.unitDone x t u false pod

/-! ## Start, stop and completion -/

/-- `DRAY_TRANSFER_START`: a Dray takes the head of its queue; with NLIST it reads the count (04 R83, R85). -/
def State.drayStart (s : State) (d : Nat) : State :=
  let v := s.dray d
  match v.running, v.queue with
  | none, x :: rest =>
    (match s.xfer x with
     | none => s.setDray d { v with queue := rest }
     | some t =>
       let go := fun (s : State) (t : Xfer) =>
         (s.setXfer x (some { t with state := 1 })).setDray d { v with queue := rest, running := some x }
       if t.par.modeOf = 3 && t.par.nlist && !t.cancelled then
         match s.drayRead x t t.par.dim 8 with
         | (s, .fault c va) => go s { t with faultUnit := some t.par.start, cause := c, faultAddr := va }
         | (s, .wait) => s
         | (s, .ok bs) =>
           let s := s.passAll (.xfer x)
           if bs.any (·.2) then go s { t with faultUnit := some t.par.start, cause := 26, faultAddr := t.par.dim }
           else
             let n := ofBytes (bs.map (·.1)) % 2 ^ 32
             let c := min n t.par.unitCount
             go s { t with count := some c, capped := t.par.unitCount < n,
                           done := if c ≤ t.done then t.par.unitCount else t.done }
       else go s t)
  | _, _ => s

/-- `DRAY_FAULT_STOP`: every unit below the faulting one is performed; the transfer stops (04 R92). -/
def State.drayStop (s : State) (x : Nat) : State :=
  match s.xfer x with
  | some t => if t.state = 1 && t.code = 0 && t.faultUnit == some t.done then s.setXfer x (some { t with code := 1 }) else s
  | none => s

/-- A transfer is ready to complete: every unit is performed, it has stopped, or it was cancelled and every unit that was issued is
performed (04 R91). -/
def Xfer.ended (t : Xfer) : Bool :=
  t.state = 1 && (t.code = 1 || (t.faultUnit.isNone && t.par.unitCount ≤ t.done)
    || (t.cancelled && t.faultUnit.isNone && t.units.isEmpty && t.notice.isNone))

/-- Post the clip message (04 R81): the transfer as it then stands. -/
def State.clipPost (s : State) (t : Xfer) : State × Xfer :=
  if t.par.clipMsg && t.clips ≠ 0 then
    let p : List Reg := [{ v := BitVec.ofNat 64 (t.id.toNat + (t.dray % 128 - 68) * 65536), p := false },
                         { v := BitVec.ofNat 64 t.clips, p := false }]
    match (s.byUid t.uid).bind fun c => c.push 15 p with
    | some _ => ((s.modUid t.uid fun c => (c.push 15 p).getD c).syncArea t.uid, t)
    | none => (s, { t with clq := true })
  else (s, t)

/-- The addresses that the parameters of a transfer name. -/
def CopyCsrs.operands (p : CopyCsrs) : List Word :=
  [p.src] ++ (if p.modeOf = 4 then [] else [p.dst]) ++ (if p.modeOf = 0 then [] else [p.dim]) ++ (if p.barOn then [p.bar] else [])

/-- An address of a transfer lies in an allocation: in that of its context, or in that of the crew that it names (04 R78). -/
def Xfer.names (t : Xfer) (a : Alloc) (cl : Nat) (va : Word) : Bool :=
  inWindow va && (if va.getLsbD 40 then some (bits 24 16 va).toNat == a.crew
                  else t.cluster == cl && t.allocBase == a.base && t.allocSize ≠ 0)

/-- A range meets the allocation with its first or its last byte. -/
def Xfer.touches (t : Xfer) (a : Alloc) (cl : Nat) (va : Word) (n : Nat) : Bool :=
  t.names a cl va || t.names a cl (va + BitVec.ofNat 64 (n - 1))

/-- What unit `v` of a transfer reads or writes lies in an allocation, as far as its index or its table entry can be read now; one that
cannot keeps the allocation. -/
def State.unitUses (s : State) (x : Nat) (t : Xfer) (a : Alloc) (cl v : Nat) : Bool :=
  let p := t.par
  let n := p.unitBytes
  let near := fun (va : Word) => t.touches a cl va n
  let through := fun (va : Word) (w : Nat) (f : Nat → Bool) =>
    t.touches a cl va w || (match (s.drayRead x t va w).2 with
      | .ok bs => f (ofBytes (bs.map (·.1)))
      | .fault _ _ => false
      | .wait => true)
  match p.modeOf with
  | 0 => near (p.tileStrided v) || near (p.tileDense v)
  | 4 =>
    let k := (p.own + 1 + v) % p.parts
    near (p.src + BitVec.ofNat 64 (k * n)) || through (p.dim + BitVec.ofNat 64 (8 * k)) 8 fun d =>
      near (BitVec.ofNat 64 d + BitVec.ofNat 64 (p.own * n)) || t.touches a cl (BitVec.ofNat 64 d + BitVec.ofNat 64 (p.parts * n)) 8
  | 2 =>
    near (p.src + BitVec.ofNat 64 (v * n)) || through (p.indexVa v) p.idxBytes fun d =>
      near (indexAddr p.dst (toSigned (8 * p.idxBytes) d) p.idxStride)
  | _ =>
    near (p.dst + BitVec.ofNat 64 (v * n)) || through (p.indexVa v) p.idxBytes fun d =>
      near (indexAddr p.src (toSigned (8 * p.idxBytes) d) p.idxStride)

/-- A transfer that has not ended reads or writes a crew's allocation with its barrier object or a unit that it has still to perform
(05 R95). -/
def State.xferUses (s : State) (x : Nat) (t : Xfer) (a : Alloc) (cl : Nat) : Bool :=
  t.state < 2 && t.launch == some a.launch &&
    (t.par.operands.any (t.names a cl) || (List.range (t.par.unitCount - t.done)).any fun j => s.unitUses x t a cl (t.done + j))

/-- The crew of an allocation still has a wave, resident or saved. -/
def State.crewLives (s : State) (a : Alloc) : Bool :=
  let mine := fun (e : Nat × Ctx) => e.2.status != .vacant && e.2.launch == some a.launch && a.crew.isSome && e.2.crew == a.crew
  s.ctxs.any mine || s.saved.any mine

/-- Free the allocations of crews whose last wave has retired and that no transfer uses, with their seal entries (05 R95,
R98). -/
def State.freeCrews (s : State) : State :=
  { s with clusters := s.clusters.map fun (e : Nat × Cluster) =>
      let keep := fun (a : Alloc) => a.crew.isNone || s.crewLives a ||
        s.xfers.any fun x => match x.2 with
          | some t => s.xferUses x.1 t a e.1
          | none => false
      let gone := e.2.allocs.filter fun a => !keep a
      (e.1, { e.2 with allocs := e.2.allocs.filter keep,
                       seals := e.2.seals.filter fun v => !(gone.any fun a => a.base == v.alloc) }) }

/-- `DRAY_COMPLETION`: the steps of 04 R87 in order. The release of step 2 needs no action, since every write of a Dray has
been performed at its home. -/
def State.drayDone (s : State) (x : Nat) : State :=
  match s.xfer x with
  | none => s
  | some t =>
    if !t.ended then s
    else
      let (s, t) := s.clipPost t
      let t := { t with state := 2, code := if t.code = 1 then 1 else if t.cancelled then 2 else 0 }
      let s := s.setXfer x (some { t with left := 0 })
      let s := s.modUid t.uid fun c => c.uncount .cp
      let s := if t.par.barOn then s.settle t.barLoc t.left else s
      let s := if t.par.int then s.modUid t.uid fun c => { c with uPend := c.uPend ++ [(t.id, t.par.hdl)] } else s
      let s := t.seals.foldl (fun s l => s.sealCount l false) s
      (s.setDray t.dray { s.dray t.dray with running := none }).freeCrews

/-! ## Status -/

/-- The transfer that `cpstat` selects (04 R91). -/
def State.selected (s : State) (c : Ctx) : Option (Nat × Xfer) :=
  let id := bits 0 16 c.cpSel
  c.recent.findSome? fun x =>
    match s.xfer x with
    | some t => if t.id == id then some (x, t) else none
    | none => none

/-- The scope at which the completions of a context's transfers are acquired: pod scope where one has written through the pod
window (04 R87). -/
def State.copyScope (s : State) (uid : Nat) : Nat :=
  if s.xfers.any fun e =>
      match e.2 with
      | some t => t.uid == uid && t.state = 2 && t.podWrite
      | none => false then 4 else 3

/-- The same for the transfers accounted on a barrier object. -/
def State.barScope (s : State) (loc : Nat) : Nat :=
  if s.xfers.any fun e =>
      match e.2 with
      | some t => t.par.barOn && t.barLoc == loc && t.state = 2 && t.podWrite
      | none => false then 4 else 3

/-- The status word of a transfer. -/
def Xfer.status (t : Xfer) : Word :=
  BitVec.ofNat 64 (t.state + (if t.state = 2 then t.code * 4 else 0) + (if t.code = 1 then t.cause % 64 * 16 else 0)
    + (if t.clips ≠ 0 || t.capped then 2 ^ 10 else 0) + (if t.clq then 2 ^ 11 else 0)
    + (if t.code = 1 && t.wside then 2 ^ 12 else 0) + (t.dray % 128 - 68) * 2 ^ 13 + t.done * 2 ^ 28)

/-- What `cpstat` reads. -/
def State.readCpstat (s : State) (c : Ctx) : Word :=
  match s.selected c with
  | none => if c.cpSel.getLsbD 16 then 0 else 3
  | some (_, t) => if c.cpSel.getLsbD 16 then (if t.code = 1 then t.faultAddr else 0) else t.status

/-- A read that returns STATE done acquires the transfer's completion (04 R87). -/
def State.acquireCpstat (s : State) (k : Nat) (c : Ctx) : State :=
  match s.selected c with
  | some (_, t) => if t.state = 2 && !c.cpSel.getLsbD 16 then s.acquire (unitOf k) (if t.podWrite then 4 else 3) else s
  | none => s

/-- Cancel the selected transfer if it is outstanding. -/
def State.cancelCopy (s : State) (c : Ctx) : State :=
  match s.selected c with
  | some (x, t) => if t.state < 2 then s.setXfer x (some { t with cancelled := true }) else s
  | none => s

/-- A write of `cpstat` (04 R91). -/
def State.writeCpstat (s : State) (k : Nat) (v : Word) : State :=
  let s := s.modCtx k fun c => { c with cpSel := bits 0 17 v }
  if v.getLsbD 17 then s.cancelCopy (s.ctx k) else s

/-- A transfer that ends has been cancelled by the supervisor that destroys its context; no interrupt is raised (04 R90). -/
def State.cancelAll (s : State) (uid : Nat) : State :=
  { s with xfers := s.xfers.map fun (e : Nat × Option Xfer) => (e.1, e.2.map fun t =>
      if t.uid == uid && t.state < 2 then { t with cancelled := true, par := { t.par with mode := t.par.mode &&& ~~~0x80#64 } }
      else t) }

/-! ## The events -/

def execDrayTransferStart (dray : Nat) (s : State) : Out := .next (s.drayStart dray)
def execDrayTileUnit (x u : Nat) (s : State) : Out := .next (s.tileUnit x u)
def execDrayGatherUnit (x u : Nat) (s : State) : Out := .next (s.gatherUnit x u)
def execDrayScatterUnit (x u : Nat) (s : State) : Out := .next (s.scatterUnit x u)
def execDrayRowGatherUnit (x u : Nat) (s : State) : Out := .next (s.rowGatherUnit x u)
def execDrayPodExchangeUnit (x u : Nat) (s : State) : Out := .next (s.podUnit x u)
def execDrayFaultStop (x : Nat) (s : State) : Out := .next (s.drayStop x)
def execDrayCompletion (x : Nat) (s : State) : Out := .next (s.drayDone x)

/-- The read of `cplaunch` by the current context. -/
def execCplaunch (d : BitVec 5) (s : State) : Out :=
  gated (.cplaunch d) s fun s k c ls => leading s k c ls fun _ => s.launchCopy k c ls d.toNat

/-- The write of `cpstat` that selects a transfer. -/
def execCpstatSelect (v : BitVec 64) (s : State) : Out :=
  gated (.cpstatSelect v) s fun s k c ls => leading s k c ls fun _ => (s.writeCpstat k (v &&& ~~~0x20000#64)).retire k ls

/-- The write of `cpstat` with CANCEL. -/
def execCpstatCancel (v : BitVec 64) (s : State) : Out :=
  gated (.cpstatCancel v) s fun s k c ls => leading s k c ls fun _ => (s.writeCpstat k (v ||| 0x20000#64)).retire k ls

/-- The read of `cpstat`. -/
def execCpstatRead (d : BitVec 5) (s : State) : Out :=
  gated (.cpstatRead d) s fun s k c ls =>
    (s.acquireCpstat k c).modCtx k fun x => (x.writeAll ls d.toNat (Reg.of (s.readCpstat c) false)).retire ls

end Sys2Proof.Machine
end

