-- ==== Sys2Proof/Machine/Csr.lean ====
section
/-! DEFINITION. The control and status registers (10 R207 to R209; 15 R313 to R318, R447; 07 R126, R143; 04 R73; 18 R370,
R374, R381), and the Zicsr instructions. -/
namespace Sys2Proof.Machine

/-! ## Values -/

/-- The fields of `mstatus` that a write changes: SIE, MIE, SPIE, MPIE, SPP, MPP, MPRV, SUM, MXR, TVM, TW, TSR. -/
def mstatusMask : Word := 0x7E19AA#64

/-- The fixed fields of `mstatus`: FS 3, UXL 2, SXL 2, SD 1 (15 R313). -/
def mstatusFixed : Word := 0x8000000A00006000#64

/-- The fields of `mstatus` that `sstatus` shows and writes: SIE, SPIE, SPP, SUM, MXR. -/
def sstatusMask : Word := 0xC0122#64

/-- FS, UXL and SD. -/
def sstatusFixed : Word := 0x8000000200006000#64

/-- Write `mstatus`; MPP 2 names no mode and leaves MPP (DESIGN CHOICE, L9). -/
def writeMstatus (old v : Word) : Word :=
  let n := v &&& mstatusMask
  if bits 11 2 v = 2#2 then (n &&& ~~~0x1800#64) ||| (old &&& 0x1800#64) else n

/-- The bits of `mie`: the standard interrupts, machine check and pre-emption. -/
def mieMask : Word := 0x300AAA#64

/-- The bits that S mode sees of `mie` and `mip`. -/
def Ctx.sMask (c : Ctx) : Word := c.csr.mideleg ||| 0x200000#64

/-- `mip`: the standard bits, 20 for a machine check, 21 for a pre-emption request (18 R367). -/
def Ctx.mipValue (c : Ctx) : Word :=
  c.csr.mip ||| (if c.mcPend.isSome then 0x100000#64 else 0) ||| (if c.preempt then 0x200000#64 else 0)

/-- `medeleg` implements bits 0 to 9, 12, 13, 15, 24 to 30 and 48 (15 R315). -/
def medelegMask : Word := 0x100007F00B3FF#64

/-- `mideleg` implements the supervisor bits; bit 20 reads 0 and bit 21 reads 1 (15 R315; 18 R367). -/
def midelegMask : Word := 0x222#64

/-- `shabort` (18 R370). -/
def Ctx.shabort (c : Ctx) : Word :=
  match c.aborted with
  | none => 0
  | some a => BitVec.ofNat 64 ((match a.work with
      | .message m => m.id.toNat
      | .codelet _ => 65536) + a.aborts % 256 * 2 ^ 17 + if a.drop then 2 ^ 63 else 0)

/-- `sdwq` (18 R374). -/
def Ctx.sdwq (c : Ctx) : Word :=
  match c.faultQ with
  | [] => 0
  | r :: _ => r.double c.faultNext

/-- The next double of the head record is read; after D4 the record goes. -/
def Ctx.sdwqNext (c : Ctx) : Ctx :=
  match c.faultQ with
  | [] => c
  | _ :: rs => if c.faultNext = 4 then { c with faultQ := rs, faultNext := 0 } else { c with faultNext := c.faultNext + 1 }

/-- Every fault record is discarded. -/
def Ctx.sdwnClear (c : Ctx) : Ctx := { c with faultQ := [], faultNext := 0 }

def Ctx.sdwn (c : Ctx) : Word :=
  BitVec.ofNat 64 (c.faultQ.length + c.faultNext * 8 + c.faultLost.toNat * 256)

/-- The code of a slot's tag (15 R321). -/
def SlotTag.code : SlotTag → Nat
  | .none => 0
  | .fp32 => 1
  | .int32 => 2
  | .pair => 3

/-- `saccst` (18 R381); a scalar context reads 0. -/
def State.saccst (s : State) (k : Nat) (c : Ctx) : Word :=
  if !isWave k then 0
  else BitVec.ofNat 64 ((List.range 4).foldl (fun n i =>
    let v := Tbl.get Slot.free (s.engine (unitOf k)).slots i
    n + (if v.holder == some c.uid then 2 ^ i else 0) + v.tag.code * 2 ^ (2 * i + 4)) 0)

/-- `laneid`, `waveid`, `crewid` and `myrank` (07 R143, R144). -/
def laneIdCsr (k : Nat) (c : Ctx) (lane : Nat) : Word :=
  if !isWave k then BitVec.allOnes 64
  else BitVec.ofNat 64 ((if c.ganged then lane % 32 else lane) + if (c.lane lane).helper then 64 else 0)

def waveIdCsr (k : Nat) (c : Ctx) (lane : Nat) : Word :=
  if !isWave k then BitVec.allOnes 64 else BitVec.ofNat 64 (waveIdOf k c lane)

def crewIdCsr (k : Nat) (c : Ctx) : Word :=
  match c.crew with
  | some n => if isWave k && !c.gath then BitVec.ofNat 64 (n % 65536) else BitVec.allOnes 64
  | none => BitVec.allOnes 64

def rankCsr (k : Nat) (c : Ctx) (lane : Nat) : Word :=
  let r := if isWave k then (if (c.lane lane).helper then none else (c.lane lane).rank) else c.rank
  match r with
  | some v => zext v
  | none => BitVec.allOnes 64

/-- `mhartid`: the place of the context (15 R447). -/
def hartId (k : Nat) : Word :=
  BitVec.ofNat 64 (k % 32 % 16 + k / 32 % 128 * 2 ^ 4 + k / 4096 % 16 * 2 ^ 11 + k / 65536 % 4 * 2 ^ 15)

/-- The value that a CSR reads in a lane. `mtime` (15 R318) has no number in the spec; the model gives it 0xB01, between `mcycle`
and `minstret` (PRESUMED, L54). -/
def State.readCsr (s : State) (k : Nat) (c : Ctx) (lane n : Nat) : Word :=
  let r := c.csr
  let l := c.lane lane
  match n with
  | 0x001 => BitVec.ofNat 64 l.fflags
  | 0x002 => BitVec.ofNat 64 l.frm
  | 0x003 => zext l.fcsr
  | 0x100 => (r.mstatus &&& sstatusMask) ||| sstatusFixed
  | 0x104 => r.mie &&& c.sMask
  | 0x105 => r.stvec
  | 0x106 => r.scounteren
  | 0x140 => r.sscratch
  | 0x141 => r.sepc
  | 0x142 => r.scause
  | 0x143 => r.stval
  | 0x144 => c.mipValue &&& c.sMask
  | 0x180 => r.satp
  | 0x300 => r.mstatus ||| mstatusFixed
  | 0x302 => r.medeleg
  | 0x303 => r.mideleg ||| 0x200000#64
  | 0x304 => r.mie
  | 0x305 => r.mtvec
  | 0x306 => r.mcounteren
  | 0x340 => r.mscratch
  | 0x341 => r.mepc
  | 0x342 => r.mcause
  | 0x343 => r.mtval
  | 0x344 => c.mipValue
  | 0x5C0 => if isWave k then r.sfmask else 0
  | 0x5C1 => zext (s.core (unitOf k)).shbud
  | 0x5C2 => zext c.ctxid
  | 0x5C3 => c.shabort
  | 0x5C4 => c.sdwq
  | 0x5C5 => c.sdwn
  | 0x5C6 => s.saccst k c
  | 0x7C0 => if isWave k then r.mfmask else 0
  | 0x800 => c.copy.src
  | 0x801 => c.copy.dst
  | 0x802 => c.copy.dim
  | 0x803 => c.copy.stride
  | 0x804 => c.copy.box
  | 0x805 => c.copy.mode
  | 0x806 => c.copy.bar
  | 0x807 => c.copy.hdl
  | 0x808 => s.readCpstat c
  | 0x809 => r.srseed
  | 0x840 => r.uepc
  | 0x841 => r.ucause
  | 0x842 => r.uxid
  | 0xCC1 => laneIdCsr k c lane
  | 0xCC2 => waveIdCsr k c lane
  | 0xCC3 => crewIdCsr k c
  | 0xCC4 => rankCsr k c lane
  | 0xF14 => hartId k
  | 0xB00 => BitVec.ofNat 64 s.clk
  | 0xC00 => BitVec.ofNat 64 s.clk
  | 0xC01 => BitVec.ofNat 64 (s.clk / 19)
  | 0xB01 => BitVec.ofNat 64 (s.clk / 19)
  | 0xB02 => r.instret
  | 0xC02 => r.instret
  | _ => 0

/-! ## Writes -/

/-- A write of a CSR that belongs to the context; read-only CSRs and fields keep their values. -/
def Csrs.write (r : Csrs) (wave : Bool) (sMask : Word) (n : Nat) (v : Word) : Csrs :=
  match n with
  | 0x100 => { r with mstatus := (r.mstatus &&& ~~~sstatusMask) ||| (v &&& sstatusMask) }
  | 0x104 => { r with mie := (r.mie &&& ~~~(sMask &&& mieMask)) ||| (v &&& sMask &&& mieMask) }
  | 0x105 => { r with stvec := v &&& ~~~3#64 }
  | 0x106 => { r with scounteren := v &&& 7#64 }
  | 0x140 => { r with sscratch := v }
  | 0x141 => { r with sepc := v &&& ~~~3#64 }
  | 0x142 => { r with scause := v }
  | 0x143 => { r with stval := v }
  | 0x144 => { r with mip := (r.mip &&& ~~~(r.mideleg &&& 2#64)) ||| (v &&& r.mideleg &&& 2#64) }
  | 0x180 => { r with satp := satpWrite r.satp v }
  | 0x300 => { r with mstatus := writeMstatus r.mstatus v }
  | 0x302 => { r with medeleg := v &&& medelegMask }
  | 0x303 => { r with mideleg := v &&& midelegMask }
  | 0x304 => { r with mie := v &&& mieMask }
  | 0x305 => { r with mtvec := v &&& ~~~3#64 }
  | 0x306 => { r with mcounteren := v &&& 7#64 }
  | 0x340 => { r with mscratch := v }
  | 0x341 => { r with mepc := v &&& ~~~3#64 }
  | 0x342 => { r with mcause := v }
  | 0x343 => { r with mtval := v }
  | 0x344 => { r with mip := (r.mip &&& ~~~midelegMask) ||| (v &&& midelegMask) }
  | 0x5C0 => if wave then { r with sfmask := v } else r
  | 0x7C0 => if wave then { r with mfmask := v } else r
  | 0x809 => { r with srseed := v }
  | 0x840 => { r with uepc := v &&& ~~~3#64 }
  | 0x841 => { r with ucause := v &&& 0xFF#64 }
  | 0x842 => { r with uxid := v }
  | 0xB02 => { r with instret := v }
  | _ => r

/-- A write of a parameter copy CSR (04 R73, R75). -/
def CopyCsrs.write (p : CopyCsrs) (n : Nat) (v : Word) : CopyCsrs :=
  match n with
  | 0x800 => { p with src := v }
  | 0x801 => { p with dst := v }
  | 0x802 => { p with dim := v }
  | 0x803 => { p with stride := v }
  | 0x804 => { p with box := v }
  | 0x805 => { p with mode := v &&& ~~~0xFFFC000#64 }
  | 0x806 => { p with bar := v }
  | 0x807 => { p with hdl := v }
  | _ => p

/-- A write of `sdwn`: RECS 0 discards the records; LOST is written (18 R374). -/
def Ctx.writeSdwn (c : Ctx) (v : Word) : Ctx :=
  let c := if bits 0 3 v = 0#3 then c.sdwnClear else c
  { c with faultLost := bits 8 32 v }

/-- A write of a CSR other than `fcsr` and its parts. -/
def State.writeCsr (s : State) (k n : Nat) (v : Word) : State :=
  match n with
  | 0x5C1 => s.setCore (unitOf k) { s.core (unitOf k) with shbud := bits 0 32 v }
  | 0x5C3 => s.modCtx k fun c => { c with aborted := c.aborted.map fun a => { a with drop := v.getLsbD 63 } }
  | 0x5C5 => s.modCtx k fun c => c.writeSdwn v
  | 0x808 => s.writeCpstat k v
  | _ => s.modCtx k fun c => { c with csr := c.csr.write (isWave k) c.sMask n v, copy := c.copy.write n v }

/-- A write of `fflags`, `frm` or `fcsr` in a lane. -/
def Lane.writeFcsr (l : Lane) (n : Nat) (v : Word) : Lane :=
  match n with
  | 1 => { l with fcsr := (l.fcsr &&& 0xE0#8) ||| (bits 0 8 v &&& 0x1F#8) }
  | 2 => { l with fcsr := (l.fcsr &&& 0x1F#8) ||| (bits 0 8 v <<< 5) }
  | _ => { l with fcsr := bits 0 8 v }

/-! ## The Zicsr instructions -/

/-- The source of a Zicsr instruction: a register, or an immediate. -/
inductive CsrSrc where
  | reg (a : BitVec 5)
  | imm (u : BitVec 5)
  deriving DecidableEq, Repr

def CsrSrc.val (x : CsrSrc) (l : Lane) : Reg :=
  match x with
  | .reg a => l.rx a.toNat
  | .imm u => Reg.of (zext u) false

def CsrSrc.regNo : CsrSrc → Nat
  | .reg a => a.toNat
  | .imm _ => 0

/-- The new value: kind 0 write, 1 set, 2 clear. -/
def csrNew (kind : Nat) (old v : Word) : Word :=
  match kind with
  | 0 => v
  | 1 => old ||| v
  | _ => old &&& ~~~v

/-- `fcsr`, `frm` and `fflags` act per lane (07 R126); a poisoned worker's source raises POISON, and a helper lane's
poisoned source does not reach its copy (10 R213). -/
def State.fcsrAccess (s : State) (k : Nat) (c : Ctx) (ls : List Nat) (n kind : Nat) (x : CsrSrc) (write : Bool) (d : Nat) :
    State :=
  let go := s.modCtx k fun c => (c.modLanes ls fun i l =>
    let old := s.readCsr k c i n
    let v := x.val l
    let l := if write && !v.p then l.writeFcsr n (csrNew kind old v.v) else l
    l.wx d (Reg.of old false)).retire ls
  if write then unpoisoned s k c ls x.regNo go else go

/-- A CSR access of any other CSR: it acts once, on the lead lane's value, and every executing lane receives the value read. -/
def State.csrAccess (s : State) (k : Nat) (c : Ctx) (ls : List Nat) (n kind : Nat) (x : CsrSrc) (write : Bool) (d : Nat) :
    State :=
  let read := !(kind = 0 && d = 0)
  let go := fun (v : Word) =>
    let vals := ls.map fun i => (i, s.readCsr k c i n)
    let s1 := if read && n = 0x808 then s.acquireCpstat k c else s
    let s1 := if read && n = 0x5C4 then s1.modCtx k Ctx.sdwqNext else s1
    let s1 := s1.modCtx k fun c => (vals.foldl (fun (c : Ctx) e => c.modLane e.1 fun l => l.wx d (Reg.of e.2 false)) c).retire ls
    if write then s1.writeCsr k n (csrNew kind (s.readCsr k c ((c.lead ls).getD 0) n) v) else s1
  if write || (read && n = 0x5C4) then
    leading s k c ls fun l => if write && (x.val (c.lane l)).p then s.poisonTrap k x.regNo [l] else go (x.val (c.lane l)).v
  else go 0

/-- A Zicsr instruction (10 R207). -/
def csrOp (i : Instr) (n : BitVec 12) (kind : Nat) (x : CsrSrc) (write : Bool) (d : BitVec 5) (s : State) : Out :=
  gated i s fun s k c ls =>
    if n.toNat = 0xCC0 then leading s k c ls fun _ => s.launchCopy k c ls d.toNat
    else if n.toNat ≤ 3 then s.fcsrAccess k c ls n.toNat kind x write d.toNat
    else s.csrAccess k c ls n.toNat kind x write d.toNat

def execCsrrw (c : BitVec 12) (a d : BitVec 5) (s : State) : Out := csrOp (.csrrw c a d) c 0 (.reg a) true d s
def execCsrrs (c : BitVec 12) (a d : BitVec 5) (s : State) : Out := csrOp (.csrrs c a d) c 1 (.reg a) (a != 0#5) d s
def execCsrrc (c : BitVec 12) (a d : BitVec 5) (s : State) : Out := csrOp (.csrrc c a d) c 2 (.reg a) (a != 0#5) d s
def execCsrrwi (c : BitVec 12) (u d : BitVec 5) (s : State) : Out := csrOp (.csrrwi c u d) c 0 (.imm u) true d s
def execCsrrsi (c : BitVec 12) (u d : BitVec 5) (s : State) : Out := csrOp (.csrrsi c u d) c 1 (.imm u) (u != 0#5) d s
def execCsrrci (c : BitVec 12) (u d : BitVec 5) (s : State) : Out := csrOp (.csrrci c u d) c 2 (.imm u) (u != 0#5) d s

/-! ## The register steps of the table -/

/-- The read of `sdwq` by the current context (18 R374). -/
def execSdwqRead (d : BitVec 5) (s : State) : Out :=
  gated (.sdwqRead d) s fun s k c ls => s.csrAccess k c ls 0x5C4 1 (.imm 0) false d.toNat

/-- The write of 0 to RECS of `sdwn`; LOST is written as it reads. -/
def execSdwnDiscard (s : State) : Out :=
  gated .sdwnDiscard s fun s k c ls => leading s k c ls fun _ => s.modCtx k fun c => c.sdwnClear.retire ls

def execWendWrite (cl : Nat) (v : BitVec 64) (s : State) : Out := .next (s.writeDev (.wend cl) v)
def execCqDoorbell (q : Nat) (v : BitVec 64) (s : State) : Out := .next (s.writeDev (.cqtail q) v)
def execSlpinWrite (sl n : Nat) (v : BitVec 64) (s : State) : Out := .next (s.writeDev (.slpin sl n) v)
def execTunctlWrite (cl : Nat) (v : BitVec 64) (s : State) : Out := .next (s.writeDev (.tunctl cl) v)

/-- A write to a register of the device region; an address that no block lays out is left. -/
def execRegisterWrite (pa : Nat) (v : BitVec 64) (s : State) : Out :=
  .next (match s.devReg pa with
    | some r => s.writeDev r v
    | none => s)

end Sys2Proof.Machine
end

