-- ==== Sys2Proof/Machine/HostPort.lean ====
section
/-! DEFINITION. The host port: accesses of the host to the device (19 R387, R388, R390), lines of the device that the host caches, and
snoops of host lines (R393). -/
namespace Sys2Proof.Machine

/-! ## What a host address reaches -/

/-- What a host address reaches: HBM4 through BAR2 or the HDM decoder, or a register of BAR0, which the events place at
2^40 (19 R388). A register is a double, and an access of it that is none completes as an unsupported request (DESIGN CHOICE, L59). -/
inductive HostTo where
  | hbm (pa : Nat)
  | reg (r : DevReg)
  | zero
  | unsupported
  deriving DecidableEq, Repr

def State.hostTo (s : State) (a n : Nat) : HostTo :=
  if a + n ≤ (if s.dies = 1 then 2 ^ 38 else 2 ^ 40) then .hbm a
  else if a < 2 ^ 40 || 2 ^ 40 + 65536 < a + n then .unsupported
  else
    let o := a - 2 ^ 40
    match if o < 0x4000 then queueReg (o / 8 * 8) else if 0x8000 ≤ o then mgmtReg (o / 8 * 8 - 0x8000) else none with
    | some r => if o % 8 = 0 && n = 8 then .reg r else .unsupported
    | none => .zero

/-- The lines of a range. -/
def lineRange (a n : Nat) : List Nat := (List.range ((a % 128 + n + 127) / 128)).map fun i => a / 128 + i

/-! ## Lines that the host caches -/

/-- The lines of a range that the host may not reach yet: an L1 owns them, or other requests wait there. A line that the host owns keeps
no access of the host waiting (19 R393). -/
def State.l1Owned (s : State) (lines : List Nat) : List Nat := lines.filter fun l =>
  match s.dirFind l with
  | some e => e.owner != hostUnit && !s.heldFor .host (l * 128)
  | none => !s.atHome (l * 128)

/-- In CXL mode the host may cache a line that it reads: the home records it as the line's owner (19 R387, R393). Whether it does is the
host's choice; where the line's directory set is full the host gets no right to cache it (DESIGN CHOICE, L73). -/
def State.hostCaches (s : State) (line : Nat) : State :=
  let (s, n) := s.draw
  let a := s.canon (line * 128) / 128
  let inSet := s.dirSetOf line
  if !s.mgmt.cxl || !Config.hostCaches n || (s.dirFind line).isSome || 16 ≤ inSet.length || s.inRedWindow (line * 128) then s
  else { s.dirSet line (some { line := a, owner := hostUnit, recalled := false, granted := s.nextId, queue := [] }) with
         nextId := s.nextId + 1 }

/-! ## Accesses of the host -/

/-- The home treatment of a host access: a load or a store of a reduction window, or a plain one (19 R388). -/
def State.hostHome (s : State) (a : Nat) : Home := if s.inRedWindow a then .reduction else .uncached

/-- The bytes of a range by lines, each with its place and length. -/
def linePieces (a n : Nat) : List (Nat × Nat) := (lineRange a n).map fun l =>
  let lo := max a (l * 128)
  (lo, min (a + n) (l * 128 + 128) - lo)

/-- What a host read returns, with CXL poison where the bytes are poisoned or their line is marked (03 R63, R70; 19 R393). -/
def State.hostBytes (s : State) (a n : Nat) : List (Nat × Bool) :=
  (linePieces a n).flatMap fun p => s.readAt p.1 p.2 (s.hostHome p.1)

/-- The bytes of a host write at their homes: a store inside a reduction window resets accumulators, and one to a future line is
a plain store (19 R388). CXL.mem carries poison, PCIe none (R387). -/
def State.hostStore (s : State) (a n v : Nat) (poison : Bool) : State :=
  (linePieces a n).foldl (fun s p =>
    let data := BitVec.ofNat 1024 (v / 256 ^ (p.1 - a) * 256 ^ (p.1 % 128))
    let mask := BitVec.ofNat 128 ((2 ^ p.2 - 1) * 2 ^ (p.1 % 128))
    s.mergeLine (p.1 / 128) data mask (if poison && s.mgmt.cxl then mask else 0) (s.hostHome p.1)) s

/-- An answer of the port. -/
def State.tellHost (s : State) (a : HostAns) : State := { s with port := { s.port with sent := s.port.sent ++ [a] } }

/-- An AtomicOp by its number. -/
def hostAtomicOp (op : Nat) : TagOp := if op = 0 then .amo 0 else if op = 1 then .amo 8 else .cas

/-- A request to HBM4 whose lines are at their homes is performed. -/
def State.hostAccess (s : State) (a n : Nat) : HostOp → State
  | .read => ((lineRange a n).foldl (fun s l => s.hostCaches l) s).tellHost (.data (s.hostBytes a n))
  | .write d => s.hostStore a n d.v d.poison
  | .atomic op v c =>
    let (s, r) := s.atomicAt (hostAtomicOp op) a n (Reg.of v false) (Reg.of c false)
    s.tellHost (.data ((List.range n).map fun i => (r.v.toNat / 256 ^ i % 256, r.p)))

/-- An AtomicOp of 32 or 64 bits, aligned, outside the reduction windows; any other completes as an unsupported request (19 R387). -/
def State.hostTakes (s : State) (r : HostReq) (a : Nat) : Bool :=
  match r.op with
  | .atomic op _ _ => op ≤ 2 && (r.size == 4 || r.size == 8) && a % r.size == 0 && !s.inRedWindow a
  | _ => true

/-- Perform a request at the home slices of its lines, or at a register; `false` where it waits behind recalls (19 R388, R393). -/
def State.serveReq (s : State) (r : HostReq) : State × Bool :=
  match s.hostTo r.addr r.size with
  | .hbm a =>
    if !s.hostTakes r a then (s.tellHost .unsupported, true)
    else
      let owned := s.l1Owned (lineRange a r.size)
      if owned.isEmpty then
        let t := s.hostAccess a r.size r.op
        (if (s.heldLines .host).isEmpty then t else t.passAll .host, true)
      else (s.askLines .host owned (r.op == .read), false)
  | .reg d =>
    (match r.op with
     | .read => s.tellHost (.data ((List.range 8).map fun i => ((s.readDev d).toNat / 256 ^ i % 256, false)))
     | .write w => s.writeDev d (BitVec.ofNat 64 w.v)
     | .atomic _ _ _ => s.tellHost .unsupported, true)
  | .zero =>
    (match r.op with
     | .read => s.tellHost (.data ((List.range r.size).map fun _ => (0, false)))
     | .write _ => s
     | .atomic _ _ _ => s.tellHost .unsupported, true)
  | .unsupported => (s.tellHost .unsupported, true)

/-- Perform requests in the order of arrival, until one waits (19 R390). Those behind it wait too (DESIGN CHOICE, L43). -/
def State.serveFrom (s : State) : List HostReq → State
  | [] => { s with port := { s.port with queue := [] } }
  | r :: q =>
    match s.serveReq r with
    | (t, true) => t.serveFrom q
    | (t, false) => { t with port := { t.port with queue := r :: q } }

/-- The port goes on with what it holds. -/
def State.serveHost (s : State) : State := s.serveFrom s.port.queue

/-- It is the host's turn at a line. -/
def State.hostTurn (s : State) : Bool := !(s.heldLines .host).isEmpty

/-- A request reaches the port. -/
def State.hostAsks (s : State) (r : HostReq) : State := s.serveFrom (s.port.queue ++ [r])

/-- `HOST_READ`: performed at the home slices, after the recall of an Owned line, which a lease may hold, and after every write
received before it (19 R388, R390, R393). -/
def execHostRead (addr size : Nat) (s : State) : Out := .next (s.hostAsks { addr := addr, size := size, op := .read })

/-- `HOST_WRITE`: a posted write is performed at the home slices, or at a register, in the order of arrival (19 R390). -/
def execHostWrite (addr size : Nat) (v : HostData) (s : State) : Out :=
  .next (s.hostAsks { addr := addr, size := size, op := .write v })

/-- `HOST_ATOMIC`: FetchAdd, Swap or CAS of 32 or 64 bits, performed once at the home slice (19 R387). An AtomicOp to a register
or inside a reduction window completes as an unsupported request (DESIGN CHOICE, L59). -/
def execHostAtomic (op size addr : Nat) (v c : BitVec 64) (s : State) : Out :=
  .next (s.hostAsks { addr := addr, size := size, op := .atomic op v c })

/-! ## Snoops -/

/-- A snoop of a host line that an L1 holds: Dirty bytes are written back, and the line is Invalid or Valid after it; a Valid
line is dropped (19 R393). -/
def State.snoopLine (s : State) (u line : Nat) (inval : Bool) : State :=
  match s.l1Line u line with
  | none => s
  | some l =>
    match l.st with
    | .dirty =>
      let s := s.sendBack u l 0 none
      if inval then s.delLine u line else s.afterWriteBack u l
    | .valid => s.delLine u line
    | .owned => s

/-- `HOST_SNOOP`: a snoop of a line of the host memory window reaches every L1, and is answered, with CXL poison where modified bytes of
the line have been lost (19 R393). -/
def execHostSnoop (line : Nat) (inval : Bool) (s : State) : Out :=
  .next (
    if !isHost (line * 128) then s
    else
      let lost := s.port.lost.contains line || s.mark line == .lost
      ((s.l1d.map (·.1)).foldl (fun s u => s.snoopLine u line inval) s).tellHost (.snooped line lost))

end Sys2Proof.Machine
end

