-- ==== Sys2Proof/Machine/System.lean ====
section
/-! DEFINITION. The system instructions: `sfence.vma` with its broadcast (02 R46), `mret`, `sret`, `wfi` (15 R316, R317),
`rtab.set`, `ctx.tag` and `island.req` with the events that end its requests (15 R322 to R325). -/
namespace Sys2Proof.Machine

/-! ## sfence.vma -/

/-- The part of a message that an `sfence.vma` waits for: an access that is not yet performed. A future load counts on its way, and not
while it is deferred at its home (L16). -/
def Body.accesses : Body → Bool
  | .read _ _ => true
  | .tagged r => r.op != .msg && r.op != .arrival
  | .bankAtomic _ => true
  | .bankWrite _ _ _ _ _ _ _ _ => true
  | .coreWrite _ _ _ _ _ _ _ _ => true
  | .write _ _ _ _ _ _ home _ _ => home != .cached
  | _ => false

/-- An instruction of an engine's queue that keeps translations. -/
def MxWork.keepsPages : MxWork → Bool
  | .msave _ ps => !ps.isEmpty
  | .mrest _ ps => !ps.isEmpty
  | _ => false

/-- An access that was issued before a message was sent is not yet performed (02 R46 step 4): loads that wait for a line, stores in
the queues, requests on their way, owner atomics, held decrements, and the operands of queued matrix and predictor
instructions, which keep their translations. -/
def State.olderAccess (s : State) (id : Nat) : Bool :=
  s.pends.any (fun e => e.1 < id && (match e.2 with
    | some p => !p.waits.isEmpty
    | none => false))
  || s.storeQ.any (fun e => e.2.any fun q => q.ins < id)
  || s.inFlight.any (fun m => m.id < id && m.body.accesses)
  || s.cores.any (fun e => !e.2.owners.isEmpty)
  || s.clusters.any (fun e => e.2.preds.any fun o => !o.pages.isEmpty)
  || s.engines.any (fun e => e.2.queue.any fun o => o.work.keepsPages)
  || s.ctxs.any fun e => ((e.2.task.map (·.held)).getD []).any fun h => match h with
    | .cdec _ _ _ => true
    | _ => false

/-- A translation under which a line was stored is matched by an `sfence.vma` of an address and an ASID. -/
def Under.fenced (n : Under) (va asid : Option Nat) : Bool :=
  n.bits ≠ 0 &&
  (match asid with
   | some a => !n.glob && n.asid == a
   | .none => true) &&
  (match va with
   | some x => x % 2 ^ 57 / 2 ^ n.bits == n.vline * 128 % 2 ^ 57 / 2 ^ n.bits
   | .none => true)

/-- A set that acquires a line under a matched translation begins again. -/
def Ctx.refence (c : Ctx) (va asid : Option Nat) : Ctx :=
  match c.lease with
  | .acquiring _ _ ws => if ws.any fun w => w.under.fenced va asid then { c with lease := .idle } else c
  | _ => c

/-- An armed region of a unit holds a line under a matched translation: its stores will count as made under it (06 R116). -/
def State.leaseFenced (s : State) (u line : Nat) (va asid : Option Nat) : Bool :=
  [0, 1, 2, 3].any fun i =>
    match (s.ctx (u * 32 + i)).region with
    | some r => r.lines.any fun w => w.line == line && w.under.fenced va asid
    | none => false

/-- Step 5: the L1s mark the dirty lines that were stored under an invalidated translation. -/
def State.markLines (s : State) (va asid : Option Nat) : State :=
  { s with
    l1d := s.l1d.map fun (e : Nat × List L1Line) =>
      (e.1, e.2.map fun l =>
        if l.st != .valid && (l.under.fenced va asid || s.leaseFenced e.1 l.line va asid) then { l with marked := true } else l),
    ctxs := s.ctxs.map fun (e : Nat × Ctx) => (e.1, e.2.refence va asid) }

/-- Walks in flight finish without installing a result; their requesters walk again. Walk caches are cleared whole. -/
def State.killWalks (s : State) : State :=
  { s with walkCache := [], walks := s.walks.map fun (w : Walk) => { w with dead := true } }

/-- The broadcast of a context. -/
def State.shootOf (s : State) (uid : Nat) : Option (NetMsg × Option Nat × Option Nat × List Nat × Nat) :=
  s.net.findSome? fun m =>
    match m.body with
    | .shoot b va asid ts n => if b == uid then some (m, va, asid, ts, n) else none
    | _ => none

/-- The last steps of an `sfence.vma` whose broadcast is under way: once every TLB has answered and no access issued before is left, the
stored lines are marked and it retires. Nothing else happens to its context before (02 R46). -/
def State.endFence (s : State) (k : Nat) : State :=
  match s.shootOf (s.ctx k).uid with
  | some (m, va, asid, ts, n) =>
    if ts.isEmpty && !s.olderAccess n then ((s.dropMsg m.id).markLines va asid).retire k (s.ctx k).executing else s
  | none => s

/-- `sfence.vma` (02 R46). -/
def execSfenceVma (b a : BitVec 5) (s : State) : Out :=
  gated (.sfenceVma b a) s fun s k c ls =>
    leading s k c ls fun l =>
      if (s.shootOf c.uid).isSome then s.endFence k
      else releasing s k 3 <|
          let va := if a = 0#5 then none else some ((c.lane l).rx a.toNat).v.toNat
          let asid := if b = 0#5 then none else some (((c.lane l).rx b.toNat).v.toNat % 65536)
          s.killWalks.send (laneOut (unitOf k)) 0 (.shoot c.uid va asid (s.tlbs.map (·.1)) s.nextId)

/-- `TLB_SHOOTDOWN`: the broadcast reaches a TLB, which invalidates its matching entries. Accesses issued until the last TLB is reached
may have used one. -/
def execTlbShootdown (k tlb : Nat) (s : State) : Out :=
  .next (match s.msg k with
    | some m =>
      (match m.body with
       | .shoot b va asid ts _ =>
         if ts.contains tlb then
           let s := { s with tlbs := Tbl.set [] s.tlbs tlb ((s.tlb tlb).filter fun e => !e.fenced va asid) }
           s.setMsg { m with body := .shoot b va asid (ts.filter (· != tlb)) s.nextId }
         else s
       | _ => s)
    | none => s)

/-! ## Returns and waits -/

def execMret (s : State) : Out := gated .mret s fun s k _ _ => s.trapReturn k false

def execSret (s : State) : Out := gated .sret s fun s k _ _ => s.trapReturn k true

/-- `wfi` retires and the context leaves issue until an interrupt is pending; in the handler set it is a no-op
(15 R317). -/
def execWfi (s : State) : Out :=
  gated .wfi s fun s k _ ls =>
    (s.retire k ls).modCtx k fun c => if isHandler k then c else { c with wfi := true }

/-- A context that waits wakes without a cause. -/
def execWfiWakeWithoutCause (p : Place) (s : State) : Out :=
  .next (s.modCtx p.key fun c => { c with wfi := false })

/-! ## Rank tables and tags -/

/-- A store, a write-back, an atomic or a request for ownership of a context is still in a unit's queue or on its way from it (16 R341;
05 R107). -/
def State.uidWriting (s : State) (u uid : Nat) : Bool :=
  (Tbl.get [] s.storeQ u).any (fun e => e.uid == uid) || s.inFlight.any fun m =>
    match m.body with
    | .write w v _ _ _ _ _ _ _ => w == uid && v == u
    | .writeAck w v _ _ _ => w == uid && v == u
    | .giveUp w v _ _ _ _ _ => w == uid && v == u
    | .marked w v _ _ _ _ => w == uid && v == u
    | .recallRep v _ _ _ _ => v == u
    | .own v _ t => v == u && s.tagUid u t == uid
    | .lineFill v _ _ _ (some t) => v == u && s.tagUid u t == uid
    | .bankWrite w v _ _ _ _ _ _ => w == uid && v == u
    | .coreWrite w v _ _ _ _ _ _ => w == uid && v == u
    | .tagged r => r.uid == uid && unitOf r.place == u && r.op != .msg && r.op != .arrival
    | .bankAtomic r => r.uid == uid && unitOf r.place == u
    | _ => false

/-- The writes of a unit that wait in its store queue, or that its homes have not acknowledged. -/
def State.unitWriting (s : State) (u : Nat) : Bool :=
  !(Tbl.get [] s.storeQ u).isEmpty || s.inFlight.any fun m =>
    match m.body with
    | .write _ v _ _ _ _ _ rel _ => v == u && rel
    | .writeAck _ v _ rel _ => v == u && rel
    | .giveUp _ v _ _ _ _ _ => v == u
    | .marked _ v _ _ _ _ => v == u
    | _ => false

def tagCount (u : Nat) : Nat := if u % 128 < 64 then 16 else 32

/-- The Departed entry with the fewest tagged lines. -/
def State.fewestLines (s : State) (u : Nat) : List TagEnt → Option TagEnt
  | [] => none
  | [t] => some t
  | t :: ts =>
    match s.fewestLines u ts with
    | none => some t
    | some b =>
      let n := fun (e : TagEnt) => ((s.l1 u).filter fun l => l.taggedBy e.idx).length
      some (if n b < n t then b else t)

/-- Write back the Dirty lines of a tag entry and give up its Owned lines (05 R106). -/
def State.flushTag (s : State) (u idx : Nat) : State :=
  ((s.l1 u).filter fun l => l.taggedBy idx).foldl (fun s l =>
    if l.st == .owned then s.surrender u l 0 none
    else (s.sendBack u l 0 none).afterWriteBack u l) s

/-- An entry is Live for a context. -/
def State.putTag (s : State) (u uid : Nat) (ctxid : BitVec 48) (i : Nat) : State :=
  (s.setTags u (((s.tagEnts u).filter fun t => t.idx != i) ++ [{ idx := i, ctxid := ctxid, uid := uid, live := true, area := none }])).modUid
    uid fun c => { c with tagEnt := i }

/-- Give a context that starts or resumes on a unit a Live entry: its own or a Free one. With none, the Departed entry with the fewest
lines is drained, and the context waits for the drain (05 R106). -/
def State.claimTag (s : State) (u uid : Nat) (ctxid : BitVec 48) : State :=
  let ts := s.tagEnts u
  match ts.find? fun t => t.uid == uid with
  | some t => s.putTag u uid ctxid t.idx
  | none =>
    match (List.range (tagCount u)).find? fun i => !(ts.any fun t => t.idx == i) with
    | some i => s.putTag u uid ctxid i
    | none =>
      match s.fewestLines u (ts.filter fun t => !t.live) with
      | some t =>
        ((s.flushTag u t.idx).modUid uid fun c => { c with flushWait := true }).send (2 ^ 50 + s.nextId) 0
          (.tagFlush u t.idx t.ctxid t.uid uid)
      | none => s

/-- A lookup of a launch's rank entry is in flight. -/
def State.lookingUp (s : State) (l : Nat) : Bool := s.net.any fun m =>
  match m.body with
  | .lookup _ x _ => x == l
  | _ => false

/-- Every cached rank entry of a launch is invalid (15 R322 step 2). -/
def State.dropRanks (s : State) (l : Nat) : State :=
  { s with clusters := s.clusters.map fun (e : Nat × Cluster) =>
      (e.1, { e.2 with rankCache := e.2.rankCache.filter fun r => r.1 != l }) }

/-- What the checks of an instruction find: a trap, a walk under way, or nothing against it. -/
inductive Checked where
  | trap (cause : Nat) (va : Word)
  | wait
  | go
  deriving DecidableEq, Repr

/-- The checks of `rtab.set` beyond the mode and poison. -/
def State.rtabCheck (s : State) (u : Nat) (c : Ctx) (base count : Word) : State × Checked :=
  if base.toNat % 128 ≠ 0 then (s, .trap 6 base)
  else match s.engineXlat { who := .ctx c.uid, unit := u, tlb := some (dtlb u), satp := c.csr.satp, mode := .s, sum := true,
                            mxr := false } 0 base with
    | (s, .wait) => (s, .wait)
    | (s, .fault e) => (s, .trap e base)
    | (s, .ok p) =>
      if !isHbm s.dies p.loc || p.home = .future || p.home = .reduction || 2 ^ 32 < count.toNat then (s, .trap 7 base)
      else (s, .go)

/-- `rtab.set` (15 R322). -/
def execRtabSet (b a : BitVec 5) (s : State) : Out :=
  gated (.rtabSet b a) s fun s k c ls =>
    leading s k c ls fun l =>
      leadUnpoisoned s k c ls a.toNat <| leadUnpoisoned s k c ls b.toNat <|
        let base := ((c.lane l).rx a.toNat).v
        let count := ((c.lane l).rx b.toNat).v
        if c.phase = 1 then (if s.lookingUp (c.launch.getD 0) then s else s.retire k ls)
        else match s.rtabCheck (unitOf k) c base count with
        | (s, .trap e va) => s.trap k e va c.nextPc (c.workers ls)
        | (s, .wait) => s
        | (s, .go) =>
          match c.launch with
          | none => s.retire k ls
          | some n => releasing s k 3 <|
              let s := s.dropRanks n
              let s := match s.launch n with
                | some v => s.setLaunch n (some { v with rtBase := base, rtCount := count.toNat })
                | none => s
              s.modCtx k fun c => { c with phase := 1 }

/-- `ctx.tag` (15 R323). -/
def execCtxTag (a : BitVec 5) (s : State) : Out :=
  gated (.ctxTag a) s fun s k c ls =>
    leading s k c ls fun l =>
      leadUnpoisoned s k c ls a.toNat <|
        let v := ((c.lane l).rx a.toNat).v
        let u := unitOf k
        if bits 47 17 v != 0#17 then s.illegalTrap k (encode (.ctxTag a)) 1 ls
        else
          let id := bits 0 48 v
          let record := (s.setTags u ((s.tagEnts u).map fun t =>
            if t.idx == c.tagEnt && t.uid == c.uid then { t with ctxid := id } else t)).modCtx k fun c =>
              { c with ctxid := id }.retire ls
          if s.tagCtxid u c.tagEnt = id.toNat then record
          else if (s.l1 u).any fun x => x.taggedBy c.tagEnt then s.flushTag u c.tagEnt
          else if s.inFlight.any fun m => s.relMsg c.uid (dieOf k) 5 m then s
          else record

/-! ## Power islands -/

def State.setIsland (s : State) (i : Nat) (v : Island) : State := { s with islands := Tbl.set Island.reset s.islands i v }

/-- The units of an island: the cores of a cluster, or two of its engines (15 R325). -/
def islandUnits (isl : Nat) : List Nat :=
  let cl := isl / 64 * 16 + isl % 64 / 3
  if 48 ≤ isl % 64 then []
  else match isl % 64 % 3 with
    | 0 => (List.range 64).map (cl * 128 + ·)
    | 1 => [cl * 128 + 64, cl * 128 + 65]
    | _ => [cl * 128 + 66, cl * 128 + 67]

/-- The places of a unit that hold a context; a handler set counts while it runs a task. -/
def State.unitHolds (s : State) (u : Nat) : Bool :=
  s.ctxs.any (fun e => unitOf e.1 == u && e.2.status != .vacant && (!isHandler e.1 || e.2.task.isSome))
    || (Tbl.get Engine.reset s.engines u).slots.any fun e => e.2.holder.isSome

/-- X[rd] of a request (15 R325). -/
def Island.word (v : Island) (res : Nat) : Word := BitVec.ofNat 64 (v.point.toNat + (if v.gated then 16 else 0) + res * 32)

/-- Contents that a gated core or engine loses: its caches, queues, registers, those of an idle handler set among them, and core SRAM
(15 R325; 05 R100). -/
def State.powerDown (s : State) (u : Nat) : State :=
  let s := { s with l1d := Tbl.set [] s.l1d u [], l1i := Tbl.set [] s.l1i u [], tags := Tbl.set [] s.tags u [],
                    tlbs := Tbl.set [] (Tbl.set [] s.tlbs (itlb u) []) (dtlb u) [],
                    trapCsrs := s.trapCsrs.filter (fun e => unitOf e.1 != u), ctxs := s.ctxs.filter fun e => unitOf e.1 != u }
  if u % 128 < 64 then
    (s.setCore u Core.reset).clearBytes
      (0x8000000000000 + dieOfUnit u * 2 ^ 26 + clusterOfUnit u % 16 * 2 ^ 22 + u % 128 * 2 ^ 16) 65536
  else s.setEngine u Engine.reset

/-- Write back or give up every Dirty and Owned line of a unit. -/
def State.flushUnit (s : State) (u : Nat) : State :=
  ((s.l1 u).filter fun l => l.st != .valid).foldl (fun s l =>
    if l.st == .owned then s.surrender u l 0 none
    else (s.sendBack u l 0 none).afterWriteBack u l) s

/-- The number of a request for an island that waits. OP 1 and OP 3 wait for the power manager; a request that its context itself goes
on with counts while that context waits at it. -/
def State.islandWait (s : State) (isl : Nat) (m : NetMsg) : Option Nat :=
  match m.body with
  | .island u i op _ _ _ _ =>
    if i == isl && (op % 2 = 1 || ((s.byUid u).map (·.phase)).getD 0 = 2) then some m.id else none
  | _ => none

/-- An earlier request for the island is not served yet (15 R325). -/
def State.islandBusy (s : State) (isl id : Nat) : Bool := (s.net.filterMap (s.islandWait isl)).any fun i => i < id

/-- The request of a context. -/
def State.islandReq (s : State) (uid : Nat) : Option Nat := s.net.findSome? fun m =>
  match m.body with
  | .island u _ _ _ _ _ _ => if u == uid then some m.id else none
  | _ => none

/-- The end of a request: rd is written in the executing lanes. -/
def State.islandDone (s : State) (k : Nat) (ls : List Nat) (d : Nat) (v : Word) : State :=
  s.modCtx k fun c => (c.writeAll ls d (Reg.of v false)).retire ls

/-- Gate an island (OP 2; 15 R325; 06 R123): it waits for every armed region of the island, and then for the write-backs. What X[rd]
receives, once the request is served. -/
def State.gateIsland (s : State) (k isl : Nat) : State × Option Word :=
  let us := islandUnits isl
  let v := s.island isl
  if 48 ≤ isl % 64 then (s, some (v.word 2))
  else if us.any fun u => (unitPlaces u).any fun p => (s.ctx p).region.isSome then (s, none)
  else if isl = unitIsland (unitOf k) || us.any s.unitHolds then (s, some (v.word 1))
  else if us.any fun u => (s.l1 u).any fun l => l.st != .valid then (us.foldl (fun s u => s.flushUnit u) s, none)
  else if us.any s.unitWriting then (s, none)
  else
    let w := { v with gated := true }
    ((us.foldl (fun s u => s.powerDown u) s).setIsland isl w, some (w.word 0))

/-- A request that the context goes on with itself, OP 0 or OP 2, in its place among the requests for the island. -/
def State.islandServe (s : State) (k op isl : Nat) : State × Option Word :=
  if op = 0 then (s, some ((s.island isl).word 0))
  else if s.islandBusy isl ((s.islandReq (s.ctx k).uid).getD s.nextId) then (s, none)
  else s.gateIsland k isl

/-- `island.req` with an operation; the checks of 15 R325 come first. A request that waits takes its place in the order of arrival. -/
def islandOp (i : Instr) (op : Nat) (b a d : BitVec 5) (s : State) : Out :=
  gated i s fun s k c ls =>
    leading s k c ls fun l =>
      leadUnpoisoned s k c ls a.toNat <| leadUnpoisoned s k c ls b.toNat <|
        let isl := ((c.lane l).rx a.toNat).v.toNat
        let req := ((c.lane l).rx b.toNat).v
        let ask := fun (s : State) =>
          if (s.islandReq c.uid).isSome then s
          else (s.send (laneOut (unitOf k)) 0 (.island c.uid isl op ls d.toNat (bits 2 4 req) false)).modCtx k fun c =>
            { c with phase := 2 }
        if 255 < isl || s.dies ≤ isl / 64 || bits 6 58 req != 0#58 then s.illegalTrap k (encode i) 1 ls
        else if op % 2 = 1 then ask s
        else
          let s := if c.phase = 2 then s else { s with net := s.net.filter fun m => s.islandReq c.uid != some m.id }
          match s.islandServe k op isl with
          | (s, some v) =>
            ({ s with net := s.net.filter fun m => s.islandReq c.uid != some m.id }).islandDone k ls d.toNat v
          | (s, none) => ask s

def execIslandQuery (b a d : BitVec 5) (s : State) : Out := islandOp (.islandQuery b a d) 0 b a d s
def execIslandSetPoint (b a d : BitVec 5) (s : State) : Out := islandOp (.islandSetPoint b a d) 1 b a d s
def execIslandGate (b a d : BitVec 5) (s : State) : Out := islandOp (.islandGate b a d) 2 b a d s
def execIslandUngate (b a d : BitVec 5) (s : State) : Out := islandOp (.islandUngate b a d) 3 b a d s

/-- The power manager answers a request of operation `op`: the island changes where it grants, and the instruction that
waits retires; RES 3 is a refusal (20 R404). -/
def State.islandAnswer (s : State) (k op : Nat) (granted : Bool) (f : Island → BitVec 4 → Island) : State :=
  match s.msg k with
  | none => s
  | some m =>
    match m.body with
    | .island uid isl o ls d point _ =>
      if o != op || s.islandBusy isl m.id then s
      else
        let v := if granted then f (s.island isl) point else s.island isl
        let s := (s.dropMsg m.id).setIsland isl v
        (match s.keyOf uid with
         | some p =>
           if (s.ctx p).phase = 2 then s.islandDone p ls d (v.word (if granted then 0 else 3)) else s
         | none => s)
    | _ => s

def execOperatingPointChange (k : Nat) (granted : Bool) (s : State) : Out :=
  .next (s.islandAnswer k 1 granted fun v p => v.setPoint s.clk p)

def execIslandPowerUp (k : Nat) (granted : Bool) (s : State) : Out :=
  .next (s.islandAnswer k 3 granted fun v _ => { v with gated := false })

end Sys2Proof.Machine
end

