-- ==== Sys2Proof/Machine/Mem.lean ====
section
/-! DEFINITION. The memory and synchronisation instructions, KZ-Mem (11 R215 to R238), and line leases (06 R109 to R118). -/
namespace Sys2Proof.Machine

/-- The lane requests of an access to X[rs1]. -/
def Ctx.requestsAt (c : Ctx) (ls : List Nat) (a : BitVec 5) (n : Nat) : List LaneReq := c.requests ls a.toNat 0 n n

/-! ## Acquire loads and release stores -/

def execLdAcq (z : BitVec 2) (sc : BitVec 3) (a d : BitVec 5) (s : State) : Out :=
  gated (.ldAcq z sc a d) s fun s k c ls =>
    let n := 2 ^ z.toNat
    s.loadWith k c ls (s.xlatAligned k 0 4 c (c.requestsAt ls a n)) (fun _ => .x d.toNat n true) true (some sc.toNat)

def execStRel (z : BitVec 2) (sc : BitVec 3) (b a : BitVec 5) (s : State) : Out :=
  gated (.stRel z sc b a) s fun s k c ls =>
    let n := 2 ^ z.toNat
    let sts := c.stores ls a.toNat 0 n 0 b.toNat fun l => l.rx b.toNat
    let t := s.storeFaults k sts (s.xlatAligned k 1 6 c (sts.map (·.req))) true
    s.faultOr k 1 t <| releasing s k sc.toNat <| s.storeChecked k c ls sts t true true

/-! ## waitcnt and fences -/

def pathOf (p : Nat) : Path :=
  match p with
  | 0 => .ld
  | 1 => .st
  | 2 => .ms
  | 3 => .cp
  | _ => .mx

/-- The value of a register in the lead lane, or in the lowest executing lane where all are helpers: 11 R220 does not say which lane's
value a wave's `waitcnt` takes, and R449 does not list it (DESIGN CHOICE, L95). -/
def Ctx.firstX (c : Ctx) (ls : List Nat) (r : Nat) : Word :=
  match c.lead ls with
  | some l => ((c.lane l).rx r).v
  | none => ((c.lane (ls.headD 0)).rx r).v

/-- The completion releases that a `waitcnt` of the path acquires (11 R220). -/
def State.acquireDone (s : State) (k : Nat) (c : Ctx) (p : Path) : State :=
  match p with
  | .cp => s.acquire (unitOf k) (s.copyScope c.uid)
  | .mx => s.acquire (unitOf k) 3
  | _ => s

/-- `waitcnt` (11 R220). -/
def execWaitcnt (a p : BitVec 5) (s : State) : Out :=
  gated (.waitcnt a p) s fun s k c ls =>
    unpoisoned s k c ls a.toNat <|
      if min (c.firstX ls a.toNat).toNat 255 < c.cnt.get (pathOf p.toNat) then s
      else (s.acquireDone k c (pathOf p.toNat)).retire k ls

/-- `fence.own` holds the context until its earlier stores have left the store queue (11 R221). -/
def execFenceOwn (s : State) : Out :=
  gated .fenceOwn s fun s k c ls =>
    if (Tbl.get [] s.storeQ (unitOf k)).any fun e => e.uid == c.uid then s else s.retire k ls

/-- The unit that an operand of `fence.force` names (11 R222). -/
def forceUnit (v : Word) : Nat :=
  ((bits 10 2 v).toNat * 16 + (bits 6 4 v).toNat) * 128 + (bits 0 6 v).toNat + if v.getLsbD 12 then 64 else 0

/-- Send the force: every context of the unit owes a full fence at its next boundary, and the lines of Departed tag entries
are written back or given up. -/
def State.startForce (s : State) (u by_ : Nat) : State :=
  let s := (unitPlaces u).foldl (fun s p =>
    if (s.ctx p).status = .resident then s.modCtx p fun c => { c with forced := c.forced ++ [by_] } else s) s
  ((s.tagEnts u).filter fun t => !t.live).foldl (fun s t => s.flushTag u t.idx) s

/-- The forced full fence of a context at its boundary (11 R222): released, it acquires at `.sys` and the force is answered. -/
def State.forcedFence (s : State) (k : Nat) : State :=
  releasing s k 5 <| (s.acquire (unitOf k) 5).modCtx k fun c => { c with forced := [] }

/-- `fence.force` (11 R222): phase 1 has made the issuer's own fence, phase 2 has sent the force. In a wave it acts once, with the lead
lane's X[rs1], and an issue of helper lanes alone is a no-op (DESIGN CHOICE, L95: 11 R449 does not list it). -/
def execFenceForce (a : BitVec 5) (s : State) : Out :=
  gated (.fenceForce a) s fun s k c ls =>
    leading s k c ls fun l =>
      leadUnpoisoned s k c ls a.toNat <|
        let v := ((c.lane l).rx a.toNat).v
        let u := forceUnit v
        if bits 13 51 v != 0#51 || (v.getLsbD 12 && 3 < (bits 0 6 v).toNat) || (s.dies = 1 && bits 10 2 v != 0#2) then
          s.illegalTrap k (encode (.fenceForce a)) 1 ls
        else if c.phase = 0 then
          releasing s k 5 <| (s.acquire (unitOf k) 5).modCtx k fun c => { c with phase := 1 }
        else if c.phase = 1 then
          if (unitPlaces u).any fun p => (s.ctx p).region.isSome then s
          else (s.startForce u c.uid).modCtx k fun c => { c with phase := 2, forced := c.forced.filter (· != c.uid) }
        else if (unitPlaces u).any fun p => (s.ctx p).status == .resident && (s.ctx p).forced.contains c.uid then s
        else if s.inFlight.any fun m => (s.tagEnts u).any fun t => !t.live && s.relMsg t.uid (dieOfUnit u) 5 m then s
        else (s.acquire (unitOf k) 5).retire k ls

/-! ## Atomics -/

/-- The atomics of the workers of an issue. -/
def Ctx.atomics (c : Ctx) (ls : List Nat) (a : BitVec 5) (n : Nat) (v w : Lane → Reg) (d : Option Dst) : List LaneAt :=
  (c.workers ls).map fun l =>
    { req := (c.lane l).request l a.toNat 0 n n, v := v (c.lane l), c := w (c.lane l), dst := d }

/-- The helper lanes of an issue receive 0. -/
def Ctx.zeroHelpers (c : Ctx) (ls : List Nat) (d : Option Dst) : Ctx :=
  match d with
  | some d => (ls.filter fun l => (c.lane l).helper).foldl (fun c l => c.zeroDst l d) c
  | none => c

/-- POISON of an atomic whose operand, of register `rv`, or comparand, of `rc`, would leave for the host (07 R130). -/
def hostPoisoned (ats : List LaneAt) (rv rc : BitVec 5) (r : LaneReq) (ps : List Piece) : Option (Nat × Word) :=
  if ps.any fun p => isHost p.at_.loc then
    (ats.find? fun a => a.req == r && (a.v.p || a.c.p)).map fun a => (26, poisonTval 0 (if a.c.p then rc.toNat else rv.toNat))
  else none

/-- An atomic in every worker (11 R216, R224, R225): `rl` and `aq` are the release before it and the acquire after it, at the covering
scope; `rv` and `rc` are the x registers of its operand and comparand. -/
def atomicOp (s : State) (k : Nat) (c : Ctx) (ls : List Nat) (a : BitVec 5) (op : TagOp) (n : Nat) (v w : Lane → Reg)
    (rv rc : BitVec 5) (d : Option Dst) (rl aq : Bool) : State :=
  let ats := c.atomics ls a n v w d
  let t := ((s.xlatAligned k 1 6 c (ats.map (·.req))).check (s.atomicCheck op false) fun _ => false).check
    (hostPoisoned ats rv rc) fun _ => false
  s.faultOr k 1 t <|
    let go := s.atomicAll k c ls op n .ld ats (if aq then some (s.coverAll t) else none) t fun c => c.zeroHelpers ls d
    if rl && !t.ok.isEmpty then releasing s k (s.coverAll t) go else go

def execAmoW (o : BitVec 5) (q l : BitVec 1) (b a d : BitVec 5) (s : State) : Out :=
  gated (.amoW o q l b a d) s fun s k c ls =>
    atomicOp s k c ls a (.amo o.toNat) 4 (fun x => x.rx b.toNat) (fun _ => Reg.zero) b b (some (.x d.toNat 4 true)) (l = 1#1)
      (q = 1#1)

def execAmoD (o : BitVec 5) (q l : BitVec 1) (b a d : BitVec 5) (s : State) : Out :=
  gated (.amoD o q l b a d) s fun s k c ls =>
    atomicOp s k c ls a (.amo o.toNat) 8 (fun x => x.rx b.toNat) (fun _ => Reg.zero) b b (some (.x d.toNat 8 true)) (l = 1#1)
      (q = 1#1)

/-- The FP32 operand of an f register: NaN-boxed, or the canonical NaN (10 R201). -/
def Lane.f32Reg (l : Lane) (r : BitVec 5) : Reg := { v := BitVec.ofNat 64 (unbox (l.rf r.toNat).v), p := (l.rf r.toNat).p }

def execAmoFaddF32 (q l : BitVec 1) (b a d : BitVec 5) (s : State) : Out :=
  gated (.amoFaddF32 q l b a d) s fun s k c ls =>
    atomicOp s k c ls a (.fadd false) 4 (fun x => x.f32Reg b) (fun _ => Reg.zero) b b (some (.f d.toNat 4)) (l = 1#1) (q = 1#1)

def execAmoFaddBf16 (q l : BitVec 1) (b a d : BitVec 5) (s : State) : Out :=
  gated (.amoFaddBf16 q l b a d) s fun s k c ls =>
    atomicOp s k c ls a (.fadd true) 2 (fun x => x.rf b.toNat) (fun _ => Reg.zero) b b (some (.f d.toNat 2)) (l = 1#1) (q = 1#1)

/-- Compare with X[rs2], swap in X[rs3]; always a release and an acquire (11 R226). -/
def execAmoCasW (c : BitVec 5) (b a d : BitVec 5) (s : State) : Out :=
  gated (.amoCasW c b a d) s fun s k x ls =>
    atomicOp s k x ls a .cas 4 (fun l => l.rx c.toNat) (fun l => l.rx b.toNat) c b (some (.x d.toNat 4 true)) true true

def execAmoCasD (c : BitVec 5) (b a d : BitVec 5) (s : State) : Out :=
  gated (.amoCasD c b a d) s fun s k x ls =>
    atomicOp s k x ls a .cas 8 (fun l => l.rx c.toNat) (fun l => l.rx b.toNat) c b (some (.x d.toNat 8 true)) true true

/-! ## Reductions -/

/-- The value of a contribution by its type (11 R227). -/
def Lane.redValue (l : Lane) (t : Nat) (b : BitVec 5) : Reg :=
  if t < 2 then l.rx b.toNat else if t = 2 then l.f32Reg b else l.rf b.toNat

/-- On a reduction page an element has 4 bytes, or 8 for `.d`. -/
def redAlign (t : Nat) (r : LaneReq) (ps : List Piece) : Option (Nat × Word) :=
  if ps.any fun p => p.at_.home == .reduction && r.va.toNat % (if t = 1 then 8 else 4) ≠ 0 then some (6, r.va) else none

/-- `red` (11 R227). -/
def execRed (o : BitVec 2) (t : BitVec 3) (b a : BitVec 5) (s : State) : Out :=
  gated (.red o t b a) s fun s k c ls =>
    let op : TagOp := .red o.toNat t.toNat
    let n := redBytes t.toNat
    let ats := c.atomics ls a n (fun l => l.redValue t.toNat b) (fun _ => Reg.zero) none
    let x := ((s.xlatAligned k 1 6 c (ats.map (·.req))).check (redAlign t.toNat) fun _ => false).check
      (s.atomicCheck op true) fun _ => false
    s.faultOr k 1 x <| s.atomicAll k c ls op n .st ats none x id

/-! ## Future words -/

/-- The page of a future operation: not KIND future raises the access fault; the cluster window raises cause 7 (11 R228). -/
def futureCheck (load : Bool) (r : LaneReq) (ps : List Piece) : Option (Nat × Word) :=
  if ps.any fun p => p.at_.home == .window then some (7, r.va)
  else if ps.all fun p => p.at_.home == .future then none
  else some (if load then 5 else 7, r.va)

/-- The future loads of an instruction are sent, under one count of `ld`, and the context waits for them. -/
def State.startFuture (s : State) (k : Nat) (ls : List Nat) (t : LaneXl) (d n : Nat) : State :=
  let dst : Dst := .x d n true
  let s := s.modCtx k fun c => t.helperBad.foldl (fun c l => c.zeroDst l dst) c
  if t.ok.isEmpty then s.retire k ls
  else
    let (s, g) := s.newGroup k .ld t.ok.length (some (s.coverAll t))
    let s := s.modCtx k fun c => { c with block := some g, phase := 1 }
    t.ok.foldl (fun s e =>
      match e.2 with
      | p :: _ =>
        let (s, i) := s.newPend k e.1.lane n dst g
        s.tagRequest k .fld p.at_ n Reg.zero Reg.zero e.1.va e.1.lane (some i) g 0
      | [] => s.partDone g) s

/-- `fld` waits at the home, and retires when every lane's load has been satisfied: phase 1 has sent the requests. -/
def futureLoad (s : State) (k : Nat) (c : Ctx) (ls : List Nat) (a d : BitVec 5) (n : Nat) : State :=
  if c.phase = 1 then (if c.block.isNone then s.retire k ls else s)
  else
    let t := (s.xlatAligned k 0 4 c (c.requestsAt ls a n)).check (futureCheck true) fun l => (c.lane l).helper
    s.faultOr k 0 t <|
      if s.queuedOverlap k (t.ok.flatMap (·.2)) || c.counterFull .ld || c.tagsFull t.ok.length then s
      else s.startFuture k ls t d.toNat n

/-- `fst` releases at the covering scope; `fst` and `frst` are posted and counted on `st`. -/
def futureStore (s : State) (k : Nat) (c : Ctx) (ls : List Nat) (a : BitVec 5) (op : TagOp) (n : Nat) (v : Lane → Reg)
    (rl : Bool) : State :=
  let ats := c.atomics ls a n v (fun _ => Reg.zero) none
  let t := (s.xlatAligned k 1 6 c (ats.map (·.req))).check (futureCheck false) fun _ => false
  s.faultOr k 1 t <|
    let go := s.atomicAll k c ls op n .st ats none t id
    if rl && !t.ok.isEmpty then releasing s k (s.coverAll t) go else go

def execFld (a d : BitVec 5) (s : State) : Out := gated (.fld a d) s fun s k c ls => futureLoad s k c ls a d 4
def execFldD (a d : BitVec 5) (s : State) : Out := gated (.fldD a d) s fun s k c ls => futureLoad s k c ls a d 8

def execFst (b a : BitVec 5) (s : State) : Out :=
  gated (.fst b a) s fun s k c ls => futureStore s k c ls a .fst 4 (fun l => l.rx b.toNat) true

def execFstD (b a : BitVec 5) (s : State) : Out :=
  gated (.fstD b a) s fun s k c ls => futureStore s k c ls a .fst 8 (fun l => l.rx b.toNat) true

def execFrst (a : BitVec 5) (s : State) : Out :=
  gated (.frst a) s fun s k c ls => futureStore s k c ls a .frst 4 (fun _ => Reg.zero) false

def execFrstD (a : BitVec 5) (s : State) : Out :=
  gated (.frstD a) s fun s k c ls => futureStore s k c ls a .frst 8 (fun _ => Reg.zero) false

/-! ## Leases -/

/-- The budget of a lease, `none` above 255 (06 R109). -/
def leaseBudget (v : Word) : Option Nat :=
  if v.toNat = 0 then some 64 else if v.toNat < 16 then some 16 else if v.toNat ≤ 255 then some v.toNat else none

/-- A line with an empty shadow. -/
def emptyShadow (p : Spot) : Shadow :=
  { line := p.loc / 128, under := p.under, data := 0, mask := 0, poison := 0 }

/-- Every line of a lease is Owned by the unit and free of other sets' armed regions, and a region slot is free (06 R112, R121). -/
def State.leaseReady (s : State) (k : Nat) (ws : List Shadow) : Bool :=
  let u := unitOf k
  (ws.all fun w =>
    (match s.l1Line u w.line with
     | some l => l.st == .owned
     | none => false) && (s.leasedBy u w.line).isNone)
  && ([0, 1, 2, 3].filter fun i => (s.ctx (u * 32 + i)).region.isSome).length < 2

/-- Tag a leased line with the context and the translation of the operand that named it: dirty bytes of another context, or that keep
another translation, leave first (05 R105; 06 R116). -/
def State.tagLine (s : State) (k : Nat) (w : Shadow) : State :=
  let u := unitOf k
  match s.l1Line u w.line with
  | none => s
  | some l =>
    let tag := (s.ctx k).tagEnt
    if l.mask = 0 then s.putLine u { l with tag := tag, under := w.under, marked := false }
    else if l.tag = tag && l.under == w.under then s
    else
      let s := s.sendBack u l 0 none
      s.putLine u { s.cleaned l with tag := tag, under := w.under }

/-- The context's own stores to a leased line, issued before the region and still in the unit's queue, are merged into the Owned line as
the region arms (DESIGN CHOICE, L57: 06 R112 and R115 say nothing of them). -/
def State.takeQueued (s : State) (k line : Nat) : State :=
  let u := unitOf k
  let c := s.ctx k
  let q := Tbl.get [] s.storeQ u
  let mine := fun (e : SqEnt) => e.uid == c.uid && e.home == .cached && e.loc / 128 == line
  let s := { s with storeQ := Tbl.set [] s.storeQ u (q.filter fun e => !mine e) }
  (q.filter mine).foldl (fun s e =>
    match s.l1Line u line with
    | some l => (s.putLine u (l.store (.of e [e]) c.tagEnt)).partDone? e.grp
    | none => s) s

/-- The recalls of a unit that were deferred while a set acquired, and whose lines a region now holds, take entries of its queue of 4,
or are refused (06 R119). -/
def State.queueDeferred (s : State) (u : Nat) : State :=
  s.net.foldl (fun s m =>
    match m.body with
    | .recall v line forRead =>
      if v == u && m.stale && (s.leasedBy u line).isSome then
        (if (s.core u).recalls.length < 4 then
          (s.dropMsg m.id).setCore u { s.core u with recalls := (s.core u).recalls ++ [(line, forRead)] }
         else s.setMsg { m with stale := false, refused := m.refused + 1, due := s.msgClk m + 64 })
      else s
    | _ => s) s

/-- Arm the region (06 R112): the checkpoint is taken before rd receives LRC, and the lease retires. -/
def State.arm (s : State) (k rd budget : Nat) (ws : List Shadow) : State :=
  let s := ws.foldl (fun s w => (s.tagLine k w).takeQueued k w.line) s
  (s.modCtx k fun c =>
    let l := c.lane 0
    let r : Region := { pc := l.pc, lines := ws, ckpt := l.x, deadline := s.now k + budget, armedAt := s.clk,
                        since := s.nextId }
    { (c.modLane 0 fun l => l.wx rd (Reg.of (BitVec.ofNat 64 c.lrc) false)).retire [0] with lease := .armed r }).queueDeferred
      (unitOf k)

/-- A line that the unit must request to lease: it does not hold it Owned, and no request for it is on its way (06 R111). -/
def State.mustRequest (s : State) (u line : Nat) : Bool :=
  let held := match s.l1Line u line with
    | some l => l.st == .owned
    | none => false
  let asked := s.inFlight.any fun m =>
    match m.body with
    | .own v l _ => v == u && l == line
    | .lineFill v l _ _ o => v == u && l == line && o.isSome
    | _ => false
  !(held || asked || (s.leasedBy u line).isSome)

/-- Request ownership of the lines that the unit does not hold Owned, all at once, where its misses leave room (06 R111; 05 R102;
01 R16). -/
def State.requestLines (s : State) (k : Nat) (ws : List Shadow) : State :=
  let u := unitOf k
  let need := ws.filter fun w => s.mustRequest u w.line
  if missLimit u < s.lineMisses u + need.length then s
  else need.foldl (fun s w =>
    let s := match s.l1Line u w.line with
      | some l => if l.st == LineSt.dirty then (s.sendBack u l 0 none).afterWriteBack u l else s
      | none => s
    s.send (laneOut u) (w.line * 128) (.own u w.line (s.ctx k).tagEnt)) s

/-- The line of a lease operand, translated and checked as a store (06 R110). -/
inductive LeaseLine where
  | ok (w : Shadow)
  | fault (cause : Nat) (va : Word)
  | miss (va : Nat)
  deriving DecidableEq, Repr

def State.leaseLine (s : State) (k : Nat) (va : Word) : LeaseLine :=
  match s.xlat k 1 va with
  | .fault c v => .fault c v
  | .miss v => .miss v
  | .ok p => if p.home = .cached && isHbm s.dies p.loc then .ok (emptyShadow p) else .fault 7 va

/-- The lines of a lease's operands in order. -/
def State.leaseLines (s : State) (k : Nat) : List Word → Except LeaseLine (List Shadow)
  | [] => .ok []
  | va :: vs =>
    match s.leaseLine k va with
    | .ok w =>
      (match s.leaseLines k vs with
       | .ok ws => .ok (w :: ws)
       | .error e => .error e)
    | e => .error e

/-- `lease` and `lease2` (06 R109 to R112). Of several faults the first in the order handler set, POISON, budget, translation or page,
one line twice is raised (DESIGN CHOICE, L96: R110 gives no order). -/
def leaseOp (s : State) (k : Nat) (c : Ctx) (ls : List Nat) (as : List (BitVec 5)) (budget d : BitVec 5) : State :=
  if c.region.isSome then s.leaseTrap k 1 0
  else if isHandler k then s.leaseTrap k 6 0
  else match (as ++ [budget]).find? fun r => ((c.lane 0).rx r.toNat).p with
    | some r => s.poisonTrap k r.toNat ls
    | none =>
      match leaseBudget ((c.lane 0).rx budget.toNat).v with
      | none => s.leaseTrap k 7 0
      | some b =>
        match s.leaseLines k (as.map fun r => ((c.lane 0).rx r.toNat).v) with
        | .error (.fault cause va) => s.trap k cause va c.nextPc ls
        | .error (.miss va) => s.startWalk k 1 va
        | .error (.ok _) => s
        | .ok ws =>
          if ((ws.map (·.line)).eraseDups).length ≠ ws.length then s.leaseTrap k 2 0
          else if s.leaseReady k ws then s.arm k d.toNat b ws
          else (s.modCtx k fun c => { c with lease := .acquiring d.toNat b ws }).requestLines k ws

def execLease (b a d : BitVec 5) (s : State) : Out :=
  gated (.lease b a d) s fun s k c ls => leaseOp s k c ls [a] b d

def execLease2 (c b a d : BitVec 5) (s : State) : Out :=
  gated (.lease2 c b a d) s fun s k x ls => leaseOp s k x ls [a, b] c d

/-- Merge a shadow into its Owned line (06 R116). -/
def State.mergeShadow (s : State) (u tag : Nat) (w : Shadow) : State :=
  match s.l1Line u w.line with
  | none => s
  | some l =>
    let l := (List.range 128).foldl (fun (l : L1Line) i =>
      if w.mask.getLsbD i then
        { l with data := setLineByte l.data i (lineByte w.data i), mask := setBit l.mask i true,
                 poison := setBit l.poison i (w.poison.getLsbD i) }
      else l) l
    s.putLine u (if w.mask = 0 then l else { l with tag := tag, under := w.under })

/-- `lclose` commits (06 R116). -/
def execLclose (s : State) : Out :=
  gated .lclose s fun s k c ls =>
    match c.region with
    | none => s.leaseTrap k 8 0
    | some r =>
      let s := r.lines.foldl (fun s w => s.mergeShadow (unitOf k) c.tagEnt w) s
      (s.modCtx k fun c => { c.retire ls with lrc := 0 }).endRegion k

/-- `labort` abandons the region (06 R117). -/
def execLabort (s : State) : Out :=
  gated .labort s fun s k c ls =>
    match c.region with
    | none => s.leaseTrap k 8 0
    | some _ => (s.modCtx k fun c => { c.retire ls with lrc := 0 }).endRegion k

/-! ## Write-once buffers -/

/-- The first check of `bseal` that fails (11 R230). -/
def State.bsealFault (s : State) (k : Nat) (c : Ctx) (base size : Word) : Option (Nat × Word) :=
  if base.toNat % 128 ≠ 0 || size.toNat % 128 ≠ 0 || size = 0 then some (6, base)
  else match windowOff base with
    | none => some (7, base)
    | some o =>
      if c.allocSize < o + size.toNat then
        some (24, if c.allocSize ≤ o then base else 0xFFFFFE0000000000#64 + BitVec.ofNat 64 c.allocSize)
      else if (s.cluster (clusterOf k)).seals.any fun e =>
          e.alloc == c.allocBase && e.base < o + size.toNat && o < e.base + e.size then some (7, base)
      else none

/-- `bseal` (11 R230). -/
def execBseal (b a : BitVec 5) (s : State) : Out :=
  gated (.bseal b a) s fun s k c ls =>
    leading s k c ls fun l =>
      leadUnpoisoned s k c ls a.toNat <| leadUnpoisoned s k c ls b.toNat <|
        let base := ((c.lane l).rx a.toNat).v
        let size := ((c.lane l).rx b.toNat).v
        match s.bsealFault k c base size with
        | some (cause, va) => s.trap k cause va c.nextPc (c.workers ls)
        | none =>
          releasing s k 1 <|
            let v := s.cluster (clusterOf k)
            if 32 ≤ v.seals.length then s
            else (s.setCluster (clusterOf k) { v with seals := v.seals ++
              [{ base := base.toNat % 2 ^ 40, size := size.toNat, count := 0, alloc := c.allocBase }] }).retire k ls

/-- `bopen` (11 R231). No L1D keeps a copy of a sealed range in this model, so nothing is dropped. -/
def execBopen (a : BitVec 5) (s : State) : Out :=
  gated (.bopen a) s fun s k c ls =>
    leading s k c ls fun l =>
      leadUnpoisoned s k c ls a.toNat <|
        let base := ((c.lane l).rx a.toNat).v
        let v := s.cluster (clusterOf k)
        match v.seals.find? fun e => e.alloc == c.allocBase && windowOff base == some e.base with
        | none => s.trap k 7 base c.nextPc (c.workers ls)
        | some e =>
          if e.count ≠ 0 then s
          else (s.setCluster (clusterOf k) { v with seals := v.seals.filter fun f => !(f == e) }).retire k ls

/-! ## Write-back, invalidation, prefetch -/

/-- Write back, or give up, one line as `cwb` does; `drop` leaves it Invalid (11 R232). -/
def State.cleanLine (s : State) (u : Nat) (l : L1Line) (drop : Bool) (pc : Word) (g : Nat) : State :=
  match l.st with
  | .owned => s.surrender u l pc (some g)
  | .dirty =>
    let s := s.sendBack u l pc (some g)
    if drop then s.delLine u l.line else s.afterWriteBack u l
  | .valid => if drop then (s.delLine u l.line).staleReqs u l.line else s

/-- Clean some lines of a unit under one count of `st`. -/
def State.cleanLines (s : State) (k : Nat) (ls : List Nat) (lines : List Nat) (drop : Bool) : State :=
  let u := unitOf k
  let c := s.ctx k
  if c.counterFull .st || (lines.any fun n => (s.leasedBy u n).isSome) then s
  else
    let (s, g) := s.newGroup k .st 1 none
    let s := lines.foldl (fun s n =>
      match s.l1Line u n with
      | some l => s.cleanLine u l drop c.nextPc g
      | none => s) s
    (s.partDone g).retire k ls

/-- The check of a load of the register block that an address names, whatever its size and alignment: the access fault in a mode that may
not read it (03 R49; 11 R232). -/
def State.reachCheck (s : State) (k : Nat) (r : LaneReq) (ps : List Piece) : Option (Nat × Word) :=
  if ps.any fun p => s.devDenied (s.ctx k).dataMode 8
      { p with n := 8, at_ := { p.at_ with loc := p.at_.loc / 8 * 8 } } then some (5, r.va) else none

/-- `cwb` and `cinv`: the address is translated and checked as a load, with no access made. -/
def cleanOp (s : State) (k : Nat) (c : Ctx) (ls : List Nat) (a : BitVec 5) (drop : Bool) : State :=
  let t := (s.xlatLanes k 0 c (c.requests ls a.toNat 0 1 1)).check (s.reachCheck k) fun l => (c.lane l).helper
  s.faultOr k 0 t <|
    let ps := (t.ok.flatMap (·.2)).filter fun p => p.at_.home == .cached
    if s.queuedOverlap k (ps.map fun p => { p with at_ := { p.at_ with loc := p.at_.loc / 128 * 128 }, n := 128 }) then s
    else s.cleanLines k ls ((ps.map fun p => p.at_.loc / 128).eraseDups) drop

def execCwb (a : BitVec 5) (s : State) : Out := gated (.cwb a) s fun s k c ls => cleanOp s k c ls a false
def execCinv (a : BitVec 5) (s : State) : Out := gated (.cinv a) s fun s k c ls => cleanOp s k c ls a true

/-- `cwb.ctx`: every Dirty and Owned line of the context; its queued stores leave first. -/
def execCwbCtx (s : State) : Out :=
  gated .cwbCtx s fun s k c ls =>
    if (Tbl.get [] s.storeQ (unitOf k)).any fun e => e.uid == c.uid then s
    else s.cleanLines k ls (((s.l1 (unitOf k)).filter fun l => l.taggedBy c.tagEnt).map (·.line)) false

/-- Prefetch one line into the L1D: dropped where the page does not allocate or the misses of the unit are at their limit; nothing is
asked where the line is here or on its way. The home drops it where it needs a recall (11 R233). -/
def State.prefetch (s : State) (u : Nat) (p : Piece) : State :=
  let line := p.at_.loc / 128
  if p.at_.home != .cached || (s.l1Line u line).isSome || (s.openRequest u line).isSome || missLimit u ≤ s.lineMisses u then s
  else s.send (laneOut u) (line * 128) (.prefetch u line)

/-- `pf.l1`; rs1 = x0 and the unassigned kinds are hints (11 R233; 09 R168). A fault or a poisoned address drops it. -/
def execPfL1 (i : BitVec 12) (a k : BitVec 5) (s : State) : Out :=
  gated (.pfL1 i a k) s fun s p c ls =>
    if a = 0#5 || k != 0#5 then s.retire p ls
    else
      let t := s.xlatLanes p 0 c (c.requests ls a.toNat (sext i) 1 1)
      if !t.miss.isEmpty then t.miss.foldl (fun s va => s.startWalk p 0 va) s
      else ((t.ok.flatMap (·.2)).foldl (fun s q => s.prefetch (unitOf p) q) s).retire p ls

/-- `pf.l2`: the model's homes hold every line, so it changes nothing but the TLBs. -/
def execPfL2 (i : BitVec 12) (a : BitVec 5) (s : State) : Out :=
  gated (.pfL2 i a) s fun s p c ls =>
    if a = 0#5 then s.retire p ls
    else
      let t := s.xlatLanes p 0 c (c.requests ls a.toNat (sext i) 1 1)
      if !t.miss.isEmpty then t.miss.foldl (fun s va => s.startWalk p 0 va) s
      else s.retire p ls

/-! ## Barrier objects -/

/-- A write or an atomic of the unit to an object is still on its way, or in its store queue. -/
def State.writingTo (s : State) (u loc n : Nat) : Bool :=
  (Tbl.get [] s.storeQ u).any (fun e => e.loc < loc + n && loc < e.loc + e.n)
  || s.inFlight.any fun m =>
    match m.body with
    | .bankWrite _ v line _ _ _ _ _ => v == u && line == loc / 128
    | .bankAtomic r => unitOf r.place == u && r.loc < loc + n && loc < r.loc + r.n
    | .tagged r => unitOf r.place == u && r.loc < loc + n && loc < r.loc + r.n
    | .write _ v line _ _ _ _ _ _ => v == u && line == loc / 128
    | .giveUp _ v line _ _ _ _ => v == u && line == loc / 128
    | .marked _ v l _ _ _ => v == u && l.line == loc / 128
    | _ => false

/-- A load of a context that takes bytes of a range is outstanding. -/
def State.readingFrom (s : State) (uid loc n : Nat) : Bool :=
  let meets := fun (a m : Nat) => a < loc + n && loc < a + m
  s.pends.any (fun e => match e.2 with
    | some p => p.uid == uid && p.waits.any fun w => meets w.2.1 w.2.2.1
    | none => false)
  || s.inFlight.any fun m =>
    match m.body with
    | .read qs _ => qs.any fun q => meets q.loc q.n && ((s.pend q.pend).map (·.uid)) == some uid
    | _ => false

/-- An address of the cluster window with bit 40 set is no place of a barrier object (11 R234). -/
def objectOff (va : Word) : Bool := inWindow va && va.getLsbD 40

/-- The update of an object in memory is a tagged request of a context, performed and answered here in the step that makes it (11 R234;
03 R56, R57). One in cluster SRAM is untagged. -/
def State.barrierTag (s : State) (k loc : Nat) (c : Ctx) : State := if isWindowLoc loc then s else s.homeTag k loc c

/-- Reach a barrier object (11 R234): its address is checked, own earlier loads of it and writes to it are performed first, its line comes back to the
home, and waits for a lease of another set of the core (06 R115). An update of an object whose home cannot be reached raises
REMOTE (03 R58). No `bar` instruction is checked against a seal: 05 R97 does not list them (DESIGN CHOICE, L81). -/
def State.withBarrier (s : State) (k : Nat) (c : Ctx) (ls : List Nat) (acc : Nat) (va : Word)
    (go : State → Nat → State) : State :=
  if va.toNat % 16 ≠ 0 then s.trap k 6 va c.nextPc (c.workers ls)
  else if objectOff va then s.trap k 7 va c.nextPc (c.workers ls)
  else match s.pieces k acc va 16 16 with
    | .fault cause v => s.trap k cause v c.nextPc (c.workers ls)
    | .miss v => s.startWalk k acc v
    | .ok (p :: ps) =>
      let loc := p.at_.loc
      if s.readingFrom c.uid loc 16 then s
      else if p.at_.home = .window then (if s.writingTo (unitOf k) loc 16 then s else go (s.meets c.uid loc 16) loc)
      else if isHbm s.dies loc && (p.at_.home = .uncached || (p.at_.home = .cached && p.at_.pinned)) then
        if s.leasedAway k (p :: ps) then s
        else if acc = 1 && s.mgmt.failedHomes.contains (s.homeOf loc) then s.trap k 30 va c.nextPc (c.workers ls)
        else if (s.l1Line (unitOf k) (loc / 128)).isSome then s.flushForHome k loc
        else if s.writingTo (unitOf k) loc 16 || (acc = 1 && (!s.tagRoom loc 1 (c.tag k) || c.tagsFull 1)) then s
        else s.atTurn (.ctx c.uid) loc (acc = 0) (go s loc)
      else s.trap k 7 va c.nextPc (c.workers ls)
    | .ok [] => s

def State.barD0 (s : State) (a : Nat) : Nat := s.value a 8
def State.barD1 (s : State) (a : Nat) : Nat := s.value (a + 8) 8

/-- The object is live and its reserved fields are 0 (11 R236). -/
def State.barOk (s : State) (a : Nat) : Bool :=
  s.barD0 a / 2 ^ 63 = 1 && field (s.barD0 a) 48 15 = 0 && field (s.barD1 a) 36 28 = 0

/-- The lead lane's value of a register, with the poison checks of a barrier instruction's operands. -/
def barOperands (s : State) (k : Nat) (c : Ctx) (ls : List Nat) (rs : List (BitVec 5)) (go : Nat → State) : State :=
  leading s k c ls fun l =>
    match rs.find? fun r => ((c.lane l).rx r.toNat).p with
    | some r => s.poisonTrap k r.toNat (c.poisoned ls r.toNat)
    | none => go l

/-- `bar.init` (11 R236). -/
def execBarInit (b a : BitVec 5) (s : State) : Out :=
  gated (.barInit b a) s fun s k c ls =>
    barOperands s k c ls [a, b] fun l =>
      let n := ((c.lane l).rx b.toNat).v.toNat
      let va := ((c.lane l).rx a.toNat).v
      if n = 0 || 65535 < n then s.illegalTrap k (encode (.barInit b a)) 1 ls
      else s.withBarrier k c ls 1 va fun s at_ =>
        if field (s.barD1 at_) 36 28 ≠ 0 then s.trap k 7 va c.nextPc (c.workers ls)
        else ((s.barrierTag k at_ c).setBarrier at_ (n + n * 2 ^ 16 + 2 ^ 63) (s.barD1 at_)).retire k ls

/-- `bar.arrive` (11 R236). -/
def execBarArrive (a d : BitVec 5) (s : State) : Out :=
  gated (.barArrive a d) s fun s k c ls =>
    barOperands s k c ls [a] fun l =>
      let va := ((c.lane l).rx a.toNat).v
      s.withBarrier k c ls 1 va fun s at_ =>
        if !s.barOk at_ then s.trap k 7 va c.nextPc (c.workers ls)
        else releasing s k 3 <|
          let d0 := s.barD0 at_
          if field d0 16 16 = 0 then s
          else
            let s := (s.barrierTag k at_ c).setBarrier at_ (d0 - 2 ^ 16) (s.barD1 at_)
            s.modCtx k fun c => (c.writeAll ls d.toNat (Reg.of (BitVec.ofNat 64 (field d0 32 16)) false)).retire ls

/-- `bar.expect` (11 R236). -/
def execBarExpect (b a : BitVec 5) (s : State) : Out :=
  gated (.barExpect b a) s fun s k c ls =>
    barOperands s k c ls [a, b] fun l =>
      let va := ((c.lane l).rx a.toNat).v
      let n := ((c.lane l).rx b.toNat).v.toNat
      s.withBarrier k c ls 1 va fun s at_ =>
        let d0 := s.barD0 at_
        if !s.barOk at_ || 65535 < n || 65535 < field d0 16 16 + n then s.trap k 7 va c.nextPc (c.workers ls)
        else if n = 0 then s.retire k ls
        else ((s.barrierTag k at_ c).setBarrier at_ (d0 + n * 2 ^ 16) (s.barD1 at_)).retire k ls

/-- `bar.wait` (11 R236). -/
def execBarWait (b a : BitVec 5) (s : State) : Out :=
  gated (.barWait b a) s fun s k c ls =>
    barOperands s k c ls [a, b] fun l =>
      let va := ((c.lane l).rx a.toNat).v
      s.withBarrier k c ls 0 va fun s at_ =>
        if !s.barOk at_ then s.trap k 7 va c.nextPc (c.workers ls)
        else if field (s.barD0 at_) 32 16 = ((c.lane l).rx b.toNat).v.toNat % 65536 then s
        else (s.acquire (unitOf k) (s.barScope at_)).retire k ls

/-- `bar.try` (11 R236). -/
def execBarTry (b a d : BitVec 5) (s : State) : Out :=
  gated (.barTry b a d) s fun s k c ls =>
    barOperands s k c ls [a, b] fun l =>
      let va := ((c.lane l).rx a.toNat).v
      s.withBarrier k c ls 0 va fun s at_ =>
        if !s.barOk at_ then s.trap k 7 va c.nextPc (c.workers ls)
        else
          let ready := field (s.barD0 at_) 32 16 ≠ ((c.lane l).rx b.toNat).v.toNat % 65536
          let s := if ready then s.acquire (unitOf k) (s.barScope at_) else s
          s.modCtx k fun c => (c.writeAll ls d.toNat (Reg.of (boolWord ready) false)).retire ls

/-! ## Lease events -/

/-- The lease of an acquiring set arms where its conditions hold (06 R112). -/
def State.armIfReady (s : State) (k : Nat) : State :=
  match (s.ctx k).lease with
  | .acquiring rd b ws => if (s.ctx k).status = .resident && s.leaseReady k ws then s.arm k rd b ws else s
  | _ => s

/-- The leases of a core that can arm do so: a lease is armed in the first clk in which its conditions hold, so before any
recall that comes after (06 R112). -/
def State.armReady (s : State) (u : Nat) : State :=
  [0, 1, 2, 3].foldl (fun (s : State) i => s.armIfReady (u * 32 + i)) s

/-- `LEASE_ARM`: the lease of an acquiring set arms in the first clk in which its conditions hold (06 R112). -/
def execLeaseArm (p : Place) (s : State) : Out := .next (s.armIfReady p.key)

/-- `LEASE_EXPIRY`: in the clk after the last of the budget, the region is broken (06 R112, R118). -/
def execLeaseExpiry (p : Place) (s : State) : Out :=
  .next (match (s.ctx p.key).region with
    | some r => if r.deadline ≤ s.now p.key then s.breakRegion p.key else s
    | none => s)

/-- A recall that is not deferred: it is queued while the line is leased, refused where the queue of 4 is full, and served
otherwise (06 R119; 03 R55). -/
def State.takeRecall (s : State) (m : NetMsg) (u line : Nat) (forRead : Bool) : State :=
  if (s.leasedBy u line).isSome then
    if (s.core u).recalls.length < 4 then s.setCore u { s.core u with recalls := (s.core u).recalls ++ [(line, forRead)] }
    else s.refuse { m with stale := false } 64
  else s.serveRecall u line forRead

/-- `RECALL_DEFERRAL_EXPIRY`: a recall that was deferred while a set acquires is served 128 clk after its arrival, or once the set awaits
no higher line (06 R111). -/
def execRecallDeferralExpiry (k : Nat) (s : State) : Out :=
  .next (match s.msg k with
    | some m =>
      (match m.body with
       | .recall u line forRead =>
         let s : State := s.armReady u
         if m.stale && (s.msg k).isSome && (m.due ≤ s.msgClk m || !s.mayDefer u line) then (s.dropMsg k).takeRecall m u line forRead
         else s
       | _ => s)
    | none => s)

end Sys2Proof.Machine
end

