-- ==== Sys2Proof/Machine/Events.lean ====
section
/-! DEFINITION. The events of the memory system: translation walks (02 R41 to R44), the requests that reach a home slice
(03 R53 to R58, R66 to R68), the L1s and store queues (05 R101 to R103; 11 R221), the cluster and core SRAM (05 R96, R99),
and context tags (05 R106, R107). An event that is not enabled changes nothing. -/
namespace Sys2Proof.Machine

/-- A message that was put back keeps its place among the messages of its lane. -/
def putBack (before : List NetMsg) (m : NetMsg) (net : List NetMsg) : List NetMsg :=
  let rest := net.filter fun n => n.id != m.id
  (rest.filter fun n => before.any fun b => b.id == n.id) ++ m :: rest.filter fun n => !(before.any fun b => b.id == n.id)

/-- The message goes back as it was. -/
def State.keep (s : State) (m : NetMsg) : State := { s with net := s.net ++ [m] }

/-- Deliver a message: nothing where it may not be delivered yet; a refused one keeps its place (03 R53). -/
def deliver (s : State) (k : Nat) (f : State → NetMsg → State) : State :=
  match s.msg k with
  | none => s
  | some m =>
    if !s.deliverable m then s
    else
      let t := f (s.dropMsg k) m
      match t.msg k with
      | none => t
      | some n => if n.lane == m.lane then { t with net := putBack (netBefore k s.net) n t.net } else t

/-! ## Translation walks -/

def State.dropWalk (s : State) (id : Nat) : State := { s with walks := s.walks.filter fun w => w.id != id }

/-- A fault of a walk for one of its waiters. -/
def State.waiterFault (s : State) (w : Walk) (x : Waiter) (kind : Nat) : State :=
  s.walkFaulted x.who { kind := kind, page := w.va / 65536, acc := x.acc }

/-- A walk ends with a fault of the table for all its waiters. -/
def State.walkEnds (s : State) (w : Walk) (kind : Nat) : State :=
  if w.dead then s.dropWalk w.id else w.waiters.foldl (fun s x => s.waiterFault w x kind) (s.dropWalk w.id)

/-- A leaf is found: for each waiter whose access it permits it is used, and installed in the waiter's own TLB, in its cluster's and
in the die's (02 R42); the others take the page fault. A dead walk installs nothing (02 R46). -/
def State.walkLeaf (s : State) (w : Walk) (a : Nat) (t : TlbEnt) : State :=
  if w.dead then s.dropWalk w.id
  else w.waiters.foldl (fun s x =>
    if !t.permits x.acc x.mode x.sum x.mxr then s.waiterFault w x 0
    else
      let (s, e) := s.usePte a (s.value a 8) x.acc { t with perm := BitVec.ofNat 9 (s.value a 8) }
      (x.tlb.toList ++ [clusterTlb x.unit, dieTlb (dieOfUnit x.unit)]).foldl (fun s n => s.install n e) s) (s.dropWalk w.id)

/-- A pointer entry in a die's walk cache of 512 entries, named by its address and level (02 R43). -/
def State.walkCached (s : State) (die a level : Nat) : Option Nat :=
  ((Tbl.get [] s.walkCache die).find? fun e => e.1 == 4 * a + level).map (·.2)

/-- Keep a pointer entry; where the cache is full, an entry that the spec does not name goes (L5). -/
def State.keepPointer (s : State) (die a level t : Nat) : State :=
  let old := (Tbl.get [] s.walkCache die).filter fun e => e.1 != 4 * a + level
  let (s, n) := s.draw
  let old := if 512 ≤ old.length then old.eraseIdx (Config.tlbVictim n % old.length) else old
  { s with walkCache := Tbl.set [] s.walkCache die (old ++ [(4 * a + level, t)]) }

/-- The place of a walk's next entry. -/
def Walk.entryAt (w : Walk) : Nat := w.table + 8 * levelIndex w.va w.level

def Walk.die (w : Walk) : Nat := w.clu / 16

/-- A walk goes down to the next table. -/
def State.walkDown (s : State) (w : Walk) (t : Nat) : State :=
  { s with walks := s.walks.map fun x => if x.id == w.id then { x with table := t, level := x.level + 1 } else x }

/-- One level of a walk: the entry's line is read at its home, which recalls it from an owner (02 R41; 03 R54, R55). A dead walk keeps
nothing (02 R46). -/
def State.walkLevel (s : State) (w : Walk) : State :=
  let a := w.entryAt
  if !isHbm s.dies w.table then s.walkEnds w 1
  else s.atTurn (.walk w.id) a true <|
  if s.anyPoison a 8 || s.mark (a / 128) != .clean then s.walkEnds w 1
  else match s.readPte w.level w.va w.asid (s.value a 8) with
    | .page => s.walkEnds w 0
    | .access => s.walkEnds w 1
    | .next t => (if w.dead then s else s.keepPointer w.die a w.level t).walkDown w t
    | .leaf t => s.walkLeaf w a t

/-- A walk goes down through the pointers that its die's walk cache holds. -/
def State.walkSkip (s : State) (id : Nat) : Nat → State
  | 0 => s
  | fuel + 1 =>
    match s.walks.find? fun w => w.id == id with
    | none => s
    | some w =>
      match s.walkCached w.die w.entryAt w.level with
      | some t => (s.walkDown w t).walkSkip id fuel
      | none => s

/-- The walkers of a die that work. -/
def State.busyWalkers (s : State) (die : Nat) : List Nat := (s.walks.filter fun w => w.die == die).map (·.walker)

/-- A request leaves its FIFO: it joins an active walk of its page, or a walker starts it (02 R43). -/
def State.takeWalk (s : State) (die walker : Nat) (w : Walk) : State :=
  if s.walks.any fun x => x.same w.asid w.va && x.die == die then
    { s with walks := s.walks.map fun x =>
        if x.same w.asid w.va && x.die == die then w.waiters.foldl Walk.join x else x }
  else { s with walks := s.walks ++ [{ w with walker := walker }] }.walkSkip w.id 4

/-- `PAGE_WALK`: a free walker of a die takes the head of the next FIFO that is not empty, after the one that it served last (02 R43,
R44). Of several free walkers the lowest-numbered takes it (DESIGN CHOICE, L58). -/
def execPageWalk (die : Nat) (s : State) : Out :=
  .next (
    match (List.range 64).find? fun i => !(s.busyWalkers die).contains i with
    | none => s
    | some walker =>
      let rr := Tbl.get 0 s.walkRr (die * 64 + walker)
      let order := (List.range 16).map fun i => die * 16 + (rr + 1 + i) % 16
      match order.find? fun c => !(Tbl.get [] s.walkQ c).isEmpty with
      | none => s
      | some c =>
        match Tbl.get [] s.walkQ c with
        | [] => s
        | w :: q =>
          { s with walkRr := Tbl.set 0 s.walkRr (die * 64 + walker) (c % 16), walkQ := Tbl.set [] s.walkQ c q }.takeWalk die walker w)

/-- `TABLE_LINE_REPLY`: the line of walk `k`'s next entry is there, for every walk of the die that waits for it (02 R38, R41, R43). -/
def execTableLineReply (k : Nat) (s : State) : Out :=
  .next (match s.walks.find? fun w => w.id == k with
    | some w =>
      (s.walks.filter fun x => x.die == w.die && x.entryAt / 128 == w.entryAt / 128).foldl
        (fun s x => (s.walkLevel x).walkSkip x.id 4) s
    | none => s)

/-! ## Requests at the home slice -/

/-- A request reaches its home slice. One that is being retired refuses requests, but for those of a line's owner, for 64 clk; where the
HBM4 behind it is in copy the request waits there (20 R402). -/
def State.reachHome (s : State) (m : NetMsg) : State :=
  let owners := match s.dirFind (m.loc / 128) with
    | some e => fromOwner e m.body
    | none => false
  if !owners && s.sliceMoving m.loc then s.refuse m 64
  else if !isHost m.loc && s.rowsMoving m.loc then s.keep m
  else s.arrive m

/-- `SLICE_READ`: a read of a line or of bytes reaches its home slice (03 R54). -/
def execSliceRead (k : Nat) (s : State) : Out :=
  .next (deliver s k fun s m =>
    match m.body with
    | .lineRead _ _ => s.reachHome m
    | .prefetch _ _ => s.reachHome m
    | .ask _ _ _ => s.reachHome m
    | .read _ home => if home = .core || home = .window then s.keep m else s.reachHome m
    | _ => s.keep m)

/-- `SLICE_WRITE`: a write-back or a store reaches its home slice (03 R54, R64), or the bytes of a marked line are translated again
(02 R46). -/
def execSliceWrite (k : Nat) (s : State) : Out :=
  .next (deliver s k fun s m =>
    match m.body with
    | .write _ _ _ _ _ _ _ _ _ => s.reachHome m
    | .marked uid u l pc grp as_ => s.unpark m uid u l pc grp as_
    | _ => s.keep m)

/-- `OWNERSHIP_REQUEST`: a request for ownership reaches the directory (03 R54). -/
def execOwnershipRequest (k : Nat) (s : State) : Out :=
  .next (deliver s k fun s m =>
    match m.body with
    | .own _ _ _ => s.reachHome m
    | _ => s.keep m)

/-- `GIVE_UP_OWNERSHIP`: the owner gives a line up: its bytes merge, its entry goes, and the queue is served (03 R54). -/
def execGiveUpOwnership (k : Nat) (s : State) : Out :=
  .next (deliver s k fun s m =>
    match m.body with
    | .giveUp _ u line _ _ _ _ =>
      let t := s.arrive m
      match s.dirFind line with
      | some e => if e.owner = u then (t.serveDir line).serveHost else t
      | none => t
    | _ => s.keep m)

/-- `RECALL`: a recall reaches the owner: it answers at once, or defers it while the line is leased (queued-probe buffer of 4)
or while a set acquires it (03 R55; 06 R111, R119). -/
def execRecall (k : Nat) (s : State) : Out :=
  .next (deliver s k fun s m =>
    match m.body with
    | .recall u line forRead =>
      let s : State := s.armReady u
      if (s.leasedBy u line).isNone && s.mayDefer u line && !m.stale then s.refuse { m with stale := true } 128
      else s.takeRecall m u line forRead
    | _ => s.keep m)

/-- `RECALL_REPLY`: the owner's answer merges at the home, and the queue is served in order (03 R54). -/
def execRecallReply (k : Nat) (s : State) : Out :=
  .next (deliver s k fun s m =>
    match m.body with
    | .recallRep u line data mask poison =>
      match s.dirFind line with
      | some e =>
        if e.recalled && e.owner = u then ((s.mergeLine line data mask poison .cached).serveDir line).serveHost else s
      | none => s
    | _ => s.keep m)

/-! ## Tagged requests -/

/-- A request of the same context to the same line is unanswered: on its way while its SEQ is the earlier, at the home, or with its
reply on its way. Then this one waits at the requester (03 R53). Resends of one tag, and waiting future loads among
themselves, do not. -/
def State.tagBusy (s : State) (r : TagReq) : Bool :=
  let clash := fun (q : TagReq) =>
    !q.carries && q.uid == r.uid && q.loc / 128 == r.loc / 128 && q.seq != r.seq && !(q.op == .fld && r.op == .fld)
  s.net.any (fun m => match m.body with
    | .taggedRep q _ _ => clash q
    | .tagged q => clash q && (r.seq - q.seq).toNat < 32768
    | _ => false)
  || s.slices.any (fun e => e.2.deferred.any clash || e.2.waiting.any fun m =>
    match m.body with
    | .tagged q => clash q
    | _ => false)
  || s.cores.any fun e => e.2.owners.any clash

/-- A request whose path has been declared failed: it is unanswered no more, and the instruction that waits for it raises REMOTE (03 R58);
nothing waits in a context that is gone or ends. The fault of a helper lane's future load is suppressed, and its destination receives 0 (02 R45; 11 R216). A notice stops its
transfer (04 R92). -/
def State.failTag (s : State) (r : TagReq) : State :=
  match s.xfer r.uid with
  | some t => s.unitFault r.uid { t with notice := none } r.seq.toNat 30 r.va true
  | none =>
    let s := s.modUid r.uid fun c => { c with unanswered := c.unanswered.filter fun q => q != r.seq }
    let dst := (r.pend.bind s.pend).map (·.dst)
    let done := fun (s : State) =>
      (match r.pend with
       | some p => s.setPend p none
       | none => s).partDone r.grp
    match s.byUid r.uid with
    | none => done s
    | some c =>
      if c.status = .ending then done s
      else if (c.lane r.lane).helper then (done s).modUid r.uid fun c => c.zeroDst r.lane (dst.getD .none)
      else s.modUid r.uid fun c => { c with remote := c.remote ++ [{ lane := r.lane, va := r.va, pend := r.pend, grp := r.grp }] }

/-- A tagged request reaches a core, whose table of 256 entries answers a duplicate (12 R242): a new one takes an entry, done already
where `now` says so, unless it is `refused` after a delay. -/
def State.coreArrive (s : State) (m : NetMsg) (r : TagReq) (refused : Option Nat) (now : Bool) (go : State → State) : State :=
  let u := r.core
  let dd := (s.core u).dedup.filter fun e => !s.confirmed r.place r.uid r.ack e
  let s := s.setCore u { s.core u with dedup := dd }
  match dd.find? fun e => e.holds r with
  | some e => if e.done then s.reply r e.v e.status else s
  | none =>
    if 256 ≤ dd.length then s.refuse m 64
    else match refused with
      | some d => s.refuse m d
      | none =>
        let e : Dedup := { place := r.place, uid := r.uid, seq := r.seq, done := now, v := Reg.zero, status := 0 }
        go (s.setCore u { s.core u with dedup := dd ++ [e] })

/-- An owner atomic reaches its core: it takes a place of the queue of 32 (12 R243). -/
def State.ownerArrive (s : State) (m : NetMsg) (r : TagReq) : State :=
  s.coreArrive m r (if 32 ≤ (s.core r.core).owners.length then some 64 else none) false fun s =>
    let c := s.core r.core
    s.setCore r.core { c with owners := c.owners ++ [r], since := if c.owners.isEmpty then s.clk else c.since }

/-- The home of a tagged request: a slice, or a core as 2^20 and more. -/
def State.tagHome (s : State) (r : TagReq) : Nat := if r.home = .core then 2 ^ 20 + r.core else s.homeOf r.loc

/-- An untagged atomic is performed where it lives: its result goes to the load, or its part is done. -/
def State.plainAtomic (s : State) (r : TagReq) : State :=
  let (s, v) := s.atomicAt r.op r.loc r.n r.v r.c
  match r.pend with
  | some p => s.pendBytes p 0 (replyBytes r.n v)
  | none => s.partDone r.grp

/-- A request with a tag has its reply: the context that made it, or the vacant handler set at whose place it was made, has it unanswered
no more. -/
def State.answerTag (s : State) (t : Tag) : State :=
  let drop := fun (c : Ctx) => { c with unanswered := c.unanswered.filter fun q => q != t.seq }
  if (s.ctx t.place).uid = t.uid then s.modCtx t.place drop else s.modUid t.uid drop

/-- `TAGGED_REQUEST`: a tagged request reaches its home slice or its owning core, an atomic the host, a change of a rank entry the home
of the entry (03 R57; 12 R241, R257; 19 R389). -/
def execTaggedRequest (k : Nat) (s : State) : Out :=
  .next (deliver s k fun s m =>
    match m.body with
    | .tagged r =>
      if r.carries then s.keep m
      else if s.mgmt.failedHomes.contains (s.tagHome r) then s.failTag r
      else if s.tagBusy r then s.keep m
      else if r.home = .core then s.ownerArrive m r
      else s.reachHome m
    | .bankAtomic r => if isHost r.loc then s.plainAtomic r else s.keep m
    | .entry t u l rank id op =>
      (match s.entryStep (.msg k) (some t) u l rank id op with
       | (s, true) => s.answerTag t
       | (s, false) => s.keep m)
    | _ => s.keep m)

/-- `BARE_ACKNOWLEDGEMENT`: a context without a tagged request for 4,096 clk confirms its replies at a home, a slice or a core (03 R57; 12
R242); at a place that has no context, the place does so for those that have left it (DESIGN CHOICE, L94). -/
def execBareAcknowledgement (p : Place) (home : Nat) (s : State) : Out :=
  .next (
    let c := s.ctx p.key
    if s.now p.key < c.tagAt + 4096 then s
    else
      let ack := c.unanswered.headD c.seq
      let keep := fun (e : Dedup) => !s.confirmed p.key c.uid ack e
      if home < 2 ^ 20 then s.setSlice home { s.slice home with dedup := (s.slice home).dedup.filter keep }
      else s.setCore (home - 2 ^ 20) { s.core (home - 2 ^ 20) with dedup := (s.core (home - 2 ^ 20)).dedup.filter keep })

/-- A refused future load waits at its requester (03 R67). -/
def isFld : Body → Bool
  | .tagged r => r.op == .fld
  | _ => false

def isHeldMsg : Body → Bool
  | .heldMsg _ => true
  | _ => false

/-- A recall that is marked stale is deferred, not refused (06 R111). -/
def isRecall : Body → Bool
  | .recall _ _ _ => true
  | _ => false

def State.resend (s : State) (k : Nat) (ok : NetMsg → Bool) : State :=
  match s.msg k with
  | some m => if m.due ≠ 0 && m.due ≤ s.msgClk m && ok m then s.setMsg { m with due := 0 } else s
  | none => s

/-- `REFUSED_RESEND`: a refused request is sent again after its delay (03 R55, R57; 12 R243). -/
def execRefusedResend (k : Nat) (s : State) : Out :=
  .next (s.resend k fun m => !isFld m.body && !isHeldMsg m.body && !(isRecall m.body && m.stale))

/-- `FLD_RESEND`: a refused future load is sent again after 512 clk (03 R67). -/
def execFldResend (k : Nat) (s : State) : Out := .next (s.resend k fun m => isFld m.body)

/-- The time after which a requester without a reply resends (03 R58). -/
def State.resendAfter (s : State) (r : TagReq) : Nat :=
  if isPod r.loc && podPkg r.loc != s.ownPkg then 65536 else 8192

/-- The lane of the messages of a context, wherever it stands (12 R244). -/
def niLane (uid : Nat) : Nat := 2 ^ 60 + uid

/-- The lane of a tagged request. -/
def TagReq.outLane (r : TagReq) : Nat := if r.carries then niLane r.uid else laneOut (unitOf r.place)

/-- The tagged request of a message. -/
def NetMsg.request (m : NetMsg) : Option TagReq :=
  match m.body with
  | .tagged r => some r
  | .taggedRep r _ _ => some r
  | _ => none

/-- Every tagged request without a reply, wherever it or its reply stands: on its way, behind a recall, deferred, or in the queue of an
owning core. -/
def State.openTags (s : State) : List TagReq :=
  s.inFlight.filterMap NetMsg.request ++ s.slices.flatMap (fun e => e.2.deferred) ++ s.cores.flatMap fun e => e.2.owners

def TagReq.same (r q : TagReq) : Bool := q.uid == r.uid && q.seq == r.seq

/-- The clock of a request's requester: a Dray's, or a saved context's, counts package clk (20 R404; DESIGN CHOICE, L76). -/
def State.reqClk (s : State) (r : TagReq) : Nat := if (s.keyOf r.uid).isSome then s.now r.place else s.clk

/-- A message that a link has lost is one of a request's. -/
def NetMsg.lostOf (m : NetMsg) (r : TagReq) : Bool := m.lost && (m.request.map r.same).getD false

/-- `TAGGED_RESEND_TIMEOUT`: the requester of SEQ `seq` of context `uid`, k = uid × 2^16 + seq, has no reply since it sent the request last,
and sends it again with the same tag (03 R58). -/
def execTaggedResendTimeout (k : Nat) (s : State) : Out :=
  .next (match s.openTags.filter fun r => r.uid == k / 65536 && r.seq.toNat == k % 65536 with
    | [] => s
    | r :: rs =>
      if s.reqClk r < rs.foldl (fun n q => max n q.sent) r.sent + s.resendAfter r then s
      else
        let s := { s with net := s.net.filter fun m => !m.lostOf r }
        let m : NetMsg := { id := s.nextId, lane := r.outLane, loc := r.loc, refused := 0, due := 0, lost := false, stale := false,
                            body := .tagged { r with sent := s.reqClk r } }
        { s with nextId := s.nextId + 1 }.insertMsg m)

/-- The tagged requests of a message, at a home. -/
def State.tagTo (s : State) (home : Nat) (m : NetMsg) : Option TagReq := m.request.filter fun r => s.tagHome r == home

/-- A slice's queues without the tagged requests to a home. -/
def Slice.without (v : Slice) (gone : NetMsg → Bool) (goneReq : TagReq → Bool) : Slice :=
  { v with dir := v.dir.map fun d => { d with queue := d.queue.filter fun m => !gone m },
           stalled := v.stalled.filter fun e => !gone e.2, deferred := v.deferred.filter fun r => !goneReq r }

/-- `PATH_DECLARED_FAILED`: firmware declares the path to a home failed: its unanswered requests raise REMOTE, on their way, queued or
deferred there (03 R58). -/
def execPathDeclaredFailed (home : Nat) (s : State) : Out :=
  .next (
    let here := fun (r : TagReq) => s.tagHome r == home
    let rs := s.inFlight.filterMap (s.tagTo home) ++ s.slices.flatMap (fun e => e.2.deferred.filter here)
      ++ s.cores.flatMap fun e => e.2.owners.filter here
    let rs := rs.foldl (fun (l : List TagReq) r => if l.any fun q => q.uid == r.uid && q.seq == r.seq then l else l ++ [r]) []
    let gone := fun m => (s.tagTo home m).isSome
    let s := { s with mgmt := { s.mgmt with failedHomes := if s.mgmt.failedHomes.contains home then s.mgmt.failedHomes
                                                           else s.mgmt.failedHomes ++ [home] },
                      net := s.net.filter fun m => !gone m,
                      slices := s.slices.map fun (e : Nat × Slice) => (e.1, e.2.without gone here),
                      cores := s.cores.map fun (e : Nat × Core) => (e.1, { e.2 with owners := e.2.owners.filter fun r => !here r }) }
    rs.foldl (fun s r => s.failTag r) s)

/-- A future load whose waiting instruction has left. -/
def State.orphanFld (s : State) (uid : Nat) (r : TagReq) : Bool :=
  r.uid == uid && r.op == .fld && (match r.pend with
    | some p => (s.pend p).isNone
    | none => true)

/-- `FLD_CANCEL`: a cancel frees the deferral entries of the loads that no instruction waits for any more (03 R68). -/
def execFldCancel (k : Nat) (s : State) : Out :=
  .next (deliver s k fun s m =>
    match m.body with
    | .cancel uid =>
      let gone := s.orphanFld uid
      let goneMsg := fun (n : NetMsg) => (n.request.map gone).getD false
      let seqs := (s.openTags.filter gone).map (·.seq)
      let s := { s with
        slices := s.slices.map fun (e : Nat × Slice) =>
          (e.1, { e.2.without goneMsg gone with
            dedup := e.2.dedup.filter fun d => !(d.uid == uid && !d.done && seqs.contains d.seq) }),
        net := s.net.filter fun n => !goneMsg n }
      s.modUid uid fun c => { c with unanswered := c.unanswered.filter fun q => !seqs.contains q }
    | _ => s.keep m)

/-- `TAGGED_REPLY`: a reply reaches the requester, writes its destination, and its counter falls, or it performs the unit of a Dray's
notice (04 R84); a second reply, and one that crossed a cancel, is discarded (03 R57, R68). -/
def execTaggedReply (k : Nat) (s : State) : Out :=
  .next (deliver s k fun s m =>
    match m.body with
    | .taggedRep r v _ =>
      let waits := ((s.byUid r.uid).map fun c => c.unanswered.contains r.seq).getD false
      if !waits then s.noticed r.uid r.seq
      else
        let s := s.modUid r.uid fun c => { c with unanswered := c.unanswered.filter fun q => q != r.seq }
        match r.pend with
        | some p => s.pendBytes p 0 (replyBytes r.n v)
        | none => s.partDone r.grp
    | _ => s.keep m)

/-- A die link of a one-die assembly stays in reset (19 R394; 00 R3). -/
def State.linkInReset (s : State) (link : Nat) : Bool := s.dies = 1 && link < 6

/-- `LINK_RETRAIN`: a link retrains; the replies in flight over it are lost (03 R58; 19 R394). -/
def execLinkRetrain (link : Nat) (s : State) : Out :=
  .next (if s.linkInReset link then s else { s with net := s.net.map fun m =>
      match m.body with
      | .taggedRep r _ _ => if (s.linksOf r).contains link then { m with lost := true } else m
      | _ => m })

/-! ## The L1 -/

/-- Give the bytes of a line to the outstanding loads that wait for a request of a unit. -/
def State.serveWaits (s : State) (u id : Nat) (d : LineBits) (p : BitVec 128) : State :=
  s.pends.foldl (fun s e =>
    match e.2 with
    | some q =>
      if q.unit == u then
        (q.waits.filter fun w => w.2.2.2 == id).foldl (fun s w =>
          s.pendBytes e.1 w.1 ((List.range w.2.2.1).map fun i =>
            (lineByte d (w.2.1 % 128 + i), p.getLsbD (w.2.1 % 128 + i)))) s
      else s
    | none => s) s

/-- The lines of a set, and its ways: 32 sets of 8 in a core's L1D, 64 of 16 in an engine's (05 R101). -/
def State.l1Set (s : State) (u line : Nat) : List L1Line :=
  let n := if u % 128 < 64 then 32 else 64
  (s.l1 u).filter fun l => l.line % n == line % n

def l1Ways (u : Nat) : Nat := if u % 128 < 64 then 8 else 16

/-- Evict a line (05 R102; 03 R54). -/
def State.evict (s : State) (u : Nat) (l : L1Line) : State :=
  match l.st with
  | .valid => s.delLine u l.line
  | .dirty => (s.sendBack u l 0 none).delLine u l.line
  | .owned => s.surrender u l 0 none

/-- Make room for a line in its set: the victim is a Valid line, else a Dirty one, else an Owned one under no lease (05 R101);
`none` where every line is leased. -/
def State.makeRoom (s : State) (u line : Nat) : Option State :=
  let set := (s.l1Set u line).filter fun l => l.line != line
  if set.length < l1Ways u then some s
  else
    let pick := fun (c : List L1Line) (s : State) =>
      let (s, n) := s.draw
      match c.drop (Config.victim n % c.length) with
      | l :: _ => some (s.evict u l)
      | [] => none
    let v := set.filter fun l => l.st == .valid
    let d := set.filter fun l => l.st == LineSt.dirty
    let o := set.filter fun l => l.st == .owned && (s.leasedBy u l.line).isNone
    if !v.isEmpty then pick v s else if !d.isEmpty then pick d s else if !o.isEmpty then pick o s else none

/-- A line reply installs the line Valid, or completes a Dirty line outside M (05 R102). -/
def State.fillValid (s : State) (u line : Nat) (d : LineBits) (p : BitVec 128) : State :=
  match s.l1Line u line with
  | some l =>
    match l.st with
    | .valid => s.putLine u { l with data := d, poison := p }
    | .dirty => s.putLine u { l with data := overlay d l.data l.mask, poison := overlayBits p l.poison l.mask, fill := true }
    | .owned => s
  | none =>
    match s.makeRoom u line with
    | some s => s.putLine u { line := line, st := .valid, data := d, mask := 0, fill := true, poison := p, tag := 0,
                              under := Under.none, marked := false }
    | none => s

/-- A grant installs the line Owned; bytes that the unit has stored meanwhile stay in M (05 R102). -/
def State.fillOwned (s : State) (u line tag : Nat) (d : LineBits) (p : BitVec 128) : State :=
  let fresh : L1Line := { line := line, st := .owned, data := d, mask := 0, fill := true, poison := p, tag := tag,
                          under := Under.none, marked := false }
  match s.l1Line u line with
  | some l =>
    match l.st with
    | .valid => s.putLine u fresh
    | .dirty => s.putLine u { l with st := .owned, fill := true, data := overlay d l.data l.mask,
                                     poison := overlayBits p l.poison l.mask }
    | .owned => s
  | none =>
    match s.makeRoom u line with
    | some s => s.putLine u fresh
    | none => s.giveUp u fresh (some (line, .cached)) 0 none

/-- `L1_FILL`: a line reply reaches an L1D (05 R102, R103). -/
def execL1Fill (k : Nat) (s : State) : Out :=
  .next (deliver s k fun s m =>
    match m.body with
    | .lineFill u line d p own =>
      let s := s.serveWaits u m.id d p
      match own with
      | some tag => s.fillOwned u line tag d p
      | none => if m.stale then s else s.fillValid u line d p
    | _ => s.keep m)

/-- `WRITE_BACK_ACK`: a home has acknowledged a write (05 R103; 11 R217). -/
def execWriteBackAck (k : Nat) (s : State) : Out :=
  .next (deliver s k fun s m =>
    match m.body with
    | .writeAck _ _ _ _ grp => s.partDone? grp
    | _ => s.keep m)

/-! ## The store queue -/

/-- The tag table entry that the unit has for the context that made a store, wherever the context is by now (05 R105 to R107). -/
def State.tagOfStore (s : State) (u : Nat) (e : SqEnt) : Nat :=
  (((s.tagEnts u).find? fun t => t.uid == e.uid).map (·.idx)).getD (((s.byUid e.uid).map (·.tagEnt)).getD 0)

/-- A store to a cached line (05 R102): a line that another context has tagged first writes back its bytes in M (R105). -/
def State.storeLine (s : State) (u : Nat) (e : LineStore) : Option State :=
  let tag := s.tagOfStore u e.ent
  match s.l1Line u e.line with
  | none =>
    (s.makeRoom u e.line).map fun s =>
      s.putLine u { line := e.line, st := .dirty, data := e.data, mask := e.mask, fill := false, poison := e.poison,
                    tag := tag, under := e.ent.under, marked := false }
  | some l =>
    match l.st with
    | .valid => some (s.putLine u ({ l with st := .dirty, mask := 0, fill := true, marked := false }.store e tag))
    | _ =>
      if l.tag = tag then some (s.putLine u (l.store e tag))
      else
        let s := s.sendBack u l 0 none
        some (s.putLine u ((s.cleaned l).store e tag))

/-- A store that writes through (11 R219): into an Owned line, else to the home, with the L1 copy brought up to date. -/
def State.storeThrough (s : State) (u : Nat) (e : LineStore) : Option State :=
  let line := e.line
  let out := fun (s : State) => s.sendWrite e.ent.uid u line e.data e.mask e.poison .uncached true e.ent.grp
  match s.l1Line u line with
  | some l =>
    if l.st == .owned then (s.storeLine u e).map fun s => s.partDone? e.ent.grp
    else
      let l := { l with data := overlay l.data e.data e.mask, mask := l.mask &&& ~~~e.mask,
                        poison := overlayBits l.poison e.poison e.mask }
      let s := if l.mask = 0 && !l.fill then s.delLine u line
               else s.putLine u (if l.mask = 0 then { l with st := .valid } else l)
      some (out s)
  | none => some (out s)

/-- The stores of an instruction to a line leave a queue (11 R221); `none` where they must wait (06 R115). -/
def State.drainLine (s : State) (u : Nat) (e : LineStore) : Option State :=
  match e.ent.home with
  | .cached =>
    if (s.leasedBy u e.line).isSome then none
    else if e.ent.thru then s.storeThrough u e else (s.storeLine u e).map fun s => s.partDone? e.ent.grp
  | .window => some (s.send (laneOut u) (e.line * 128) (.bankWrite e.ent.uid u e.line e.data e.mask e.poison e.ent.thru e.ent.grp))
  | .core => some (s.send (laneOut u) (e.line * 128) (.coreWrite e.ent.uid u e.line e.data e.mask e.poison e.ent.thru e.ent.grp))
  | h => some (s.sendWrite e.ent.uid u e.line e.data e.mask e.poison h e.ent.rel e.ent.grp)

/-- The oldest store of a queue leaves it, with the others of its instruction to its line. Each was counted as a part, and the request
that they make is one. -/
def State.drainStore (s : State) (u : Nat) (e : SqEnt) (q : List SqEnt) : Option State :=
  let more := q.filter e.joins
  let s := { s with storeQ := Tbl.set [] s.storeQ u (q.filter fun f => !e.joins f) }
  (more.foldl (fun (s : State) f => s.partDone? f.grp) s).drainLine u (.of e (e :: more))

/-- `STORE_QUEUE_DRAIN`: the oldest store of a unit leaves its queue (11 R221). -/
def execStoreQueueDrain (unit : Nat) (s : State) : Out :=
  .next (match Tbl.get [] s.storeQ unit with
    | [] => s
    | e :: q => (s.drainStore unit e q).getD s)

/-! ## Cluster SRAM and core SRAM -/

/-- The bytes of posted stores to a line, with their poison. -/
def State.putBytes (s : State) (line : Nat) (data : LineBits) (mask poison : BitVec 128) : State :=
  ((List.range 128).filter mask.getLsbD).foldl (fun s i =>
    s.putByte (line * 128 + i) (BitVec.ofNat 8 (lineByte data i)) (poison.getLsbD i)) s

/-- The bytes of an SRAM read reach their loads. -/
def State.sramRead (s : State) (qs : List ReadPart) (home : Home) : State :=
  qs.foldl (fun s q =>
    let uid := ((s.pend q.pend).map (·.uid)).getD 0
    (s.meets uid q.loc q.n).pendBytes q.pend q.off (s.readAt q.loc q.n home)) s

/-- `BANK_ACCESS`: a bank of the cluster SRAM performs an access (05 R94, R96). -/
def execBankAccess (k : Nat) (s : State) : Out :=
  .next (deliver s k fun s m =>
    match m.body with
    | .bankWrite _ _ line data mask poison _ grp => (s.putBytes line data mask poison).partDone? grp
    | .read qs .window => s.sramRead qs .window
    | .bankAtomic r => if isHost r.loc then s.keep m else (s.meets r.uid r.loc r.n).plainAtomic r
    | _ => s.keep m)

/-- `CORE_SRAM_ACCESS`: the owning core performs a load or a store of its user page; it waits for the owner atomics that came
before it (05 R99). -/
def execCoreSramAccess (k : Nat) (s : State) : Out :=
  .next (deliver s k fun s m =>
    let busy := fun (loc : Nat) => !(s.core (coreOf loc)).owners.isEmpty
    match m.body with
    | .coreWrite _ _ line data mask poison _ grp =>
      if busy (line * 128) then s.keep m else (s.putBytes line data mask poison).partDone? grp
    | .read qs .core => if qs.any fun q => busy q.loc then s.keep m else s.sramRead qs .core
    | _ => s.keep m)

/-! ## Context tags -/

/-- A drained entry goes to the context that waits for it, or is Free, and the reply goes to the context that asked (05 R106, R107). -/
def State.tagDrained (s : State) (u idx uid waiter : Nat) : State :=
  let s := s.setTags u ((s.tagEnts u).filter fun t => t.idx != idx)
  let s := match s.byUid waiter with
    | some c => if waiter = uid then s else s.putTag u waiter c.ctxid idx
    | none => s
  s.send (2 ^ 50 + s.nextId) 0 (.tagFlushRep waiter)

/-- The entry that a flush names is Free or another's: the reply goes at once; a context that waits for an entry claims another. -/
def State.tagMissed (s : State) (u uid waiter : Nat) : State :=
  let s := match s.byUid waiter with
    | some c => if waiter = uid then s else s.claimTag u waiter c.ctxid
    | none => s
  s.send (2 ^ 50 + s.nextId) 0 (.tagFlushRep waiter)

/-- `TAG_FLUSH`: a flush reaches the unit where a context stood: the tagged lines leave, and when the context's queued stores are out
and every home has acknowledged, the entry is Free and the reply goes (05 R106, R107). -/
def execTagFlush (k : Nat) (s : State) : Out :=
  .next (deliver s k fun s m =>
    match m.body with
    | .tagFlush u idx _ uid waiter =>
      match (s.tagEnt u idx).filter fun t => t.uid == uid && !t.live with
      | none => s.tagMissed u uid waiter
      | some _ =>
        if ((s.l1 u).filter fun l => l.taggedBy idx).isEmpty then
          if s.uidWriting u uid then s.keep m else s.tagDrained u idx uid waiter
        else (s.flushTag u idx).keep m
    | _ => s.keep m)

/-- A flush for a context, or the reply to one, is on its way. -/
def State.flushing (s : State) (uid : Nat) : Bool := s.net.any fun m =>
  match m.body with
  | .tagFlush _ _ _ _ w => w == uid
  | .tagFlushRep w => w == uid
  | _ => false

/-- The context goes on at its unit: an L1 that it had left may hold Valid copies that are older than what it has written or read
elsewhere, and they go before its first instruction (16 R330, R341; 05 R107). -/
def State.arrived (s : State) (uid : Nat) : State :=
  let s := match s.keyOf uid with
    | some k => s.acquire (unitOf k) 5
    | none => s
  s.modUid uid fun c => { c with flushWait := false }

/-- `TAG_FLUSH_REPLY`: the context may issue once it waits for no other flush (05 R107). -/
def execTagFlushReply (k : Nat) (s : State) : Out :=
  .next (match s.msg k with
    | some m =>
      (match m.body with
       | .tagFlushRep uid =>
         let s := s.dropMsg k
         if s.flushing uid then s else s.arrived uid
       | _ => s)
    | none => s)

/-- `LAZY_DRAIN`: one line of a Departed entry leaves; an entry with none, whose write-backs are all acknowledged, is Free (05 R106). -/
def execLazyDrain (unit entry : Nat) (s : State) : Out :=
  .next (match (s.tagEnt unit entry).filter fun t => !t.live with
    | none => s
    | some t =>
      match (s.l1 unit).find? fun l => l.taggedBy entry with
      | none => if s.uidWriting unit t.uid then s else s.setTags unit ((s.tagEnts unit).filter fun t => t.idx != entry)
      | some l =>
        if (if unit % 128 < 64 then 8 else 32) ≤ s.lineMisses unit then s
        else if l.st == .owned then s.surrender unit l 0 none
        else (s.sendBack unit l 0 none).afterWriteBack unit l)

end Sys2Proof.Machine
end

