-- ==== Sys2Proof/Machine/Contexts.lean ====
section
/-! DEFINITION. The start and the end of contexts on their units: identifiers (15 R324), tag entries (05 R106), thread sets that
take waiting light contexts (12 R258; 07 R142), and the rank lookups of a network interface (12 R240). -/
namespace Sys2Proof.Machine

/-! ## Identifiers and tag entries -/

/-- The identifier of a light thread (15 R324). -/
def lightId (no : BitVec 14) (rank : BitVec 32) : BitVec 48 := BitVec.ofNat 48 (3 * 2 ^ 46 + no.toNat * 2 ^ 32 + rank.toNat)

/-- The next identifier of the package-wide counter (15 R324). -/
def State.newCtxid (s : State) : State × BitVec 48 :=
  ({ s with idCount := s.idCount + 1 }, BitVec.ofNat 48 (2 ^ 47 + s.idCount.toNat))

/-- A core's handler set keeps the identifier that it received at package start (15 R324). -/
def handlerCtxid (u : Nat) : BitVec 48 :=
  BitVec.ofNat 48 (2 ^ 47 + dieOfUnit u * 1024 + clusterOfUnit u % 16 * 64 + u % 128 + 1)

/-- The trap registers stay at a place whose context goes. -/
def State.keepTrap (s : State) (k : Nat) : State :=
  { s with trapCsrs := Tbl.set Csrs.reset s.trapCsrs k (s.ctx k).csr.trapOf }

/-- Put a new context at a place, with the trap registers that stand there; it waits while no tag entry is free for it (05 R106). -/
def State.placeCtx (s : State) (k : Nat) (c : Ctx) : State :=
  let uid := s.nextId
  let c := { c with csr := c.csr.withTrap (Tbl.get Csrs.reset s.trapCsrs k) }
  ({ s with nextId := uid + 1 }.setCtx k { c with status := .resident, uid := uid, tagUnit := unitOf k }).claimTag (unitOf k)
    uid c.ctxid

/-- The context leaves its unit for good: its tag entry is Free. -/
def State.leave (s : State) (k : Nat) : State :=
  let u := unitOf k
  let c := s.ctx k
  ((s.keepTrap k).setTags u ((s.tagEnts u).filter fun t => !(t.uid == c.uid && t.live))).setCtx k Ctx.vacant

/-! ## Window bindings and the first state of a thread -/

/-- The thread allocation of a launch on a cluster: base and size (17 R351). -/
def State.threadAlloc (s : State) (cl l : Nat) : Nat × Nat :=
  match (s.cluster cl).allocs.find? fun a => a.launch == l && a.crew == none with
  | some a => (a.base, a.size)
  | none => (0, 0)

def State.launchSatp (s : State) (l : Nat) : Word := ((s.launch l).map (·.satp)).getD 0

/-- A scalar context of a launch at its start; U mode, every register 0 (17 R351, R352). -/
def State.scalarCtx (s : State) (k l : Nat) (ln : Lane) : Ctx :=
  let al := s.threadAlloc (clusterOf k) l
  { Ctx.vacant with
    lanes := [(0, { ln with st := .runnable })], launch := some l,
    launchNo := ((s.launch l).map (·.number)).getD 0,
    prio := ((s.launch l).map fun v => (bits 8 4 (v.words.getD 0 0)).toNat).getD 0,
    csr := { Csrs.reset with satp := s.launchSatp l }, allocBase := al.1, allocSize := al.2 }

/-- A lane that starts at a PC with some x registers. -/
def Lane.start (pc : Word) (xs : List (Nat × Reg)) : Lane := xs.foldl (fun l e => l.wx e.1 e.2) { Lane.idle with pc := pc }

/-- A light context enters a thread set, with the events that wait for it (07 R142; 12 R258, R260) and the save area that it keeps
(18 R382). It starts in U mode, outside its user-interrupt handler, with no transfer launched: its next transfer has identifier 0 and it
keeps no status of an earlier one. The 80 bytes carry none of these (DESIGN CHOICE, L82). -/
def State.startLight (s : State) (k : Nat) (l : Light) : State :=
  let xs := (span 10 8).map fun r => (r, Tbl.get Reg.zero l.a (r - 10))
  let c := s.scalarCtx k l.launch (Lane.start l.pc xs)
  (s.acquire (unitOf k) 3).placeCtx k
    { c with light := true, rank := some l.rank, launchNo := l.launchNo, ctxid := lightId l.launchNo l.rank,
             csr := { c.csr with srseed := l.seed }, mcPend := l.mcPend, uPend := l.uPend, preempt := l.preempt,
             area := l.area }

/-- A launch whose units are saved: its tasks and waiting threads are skipped (17 R354). -/
def State.launchSaved (s : State) (l : Nat) : Bool := ((s.launch l).map (·.saved)).getD false

/-- The first of a queue that an order of service lets start. -/
def takeFirst {α : Type} (ok : α → Bool) : List α → Option (α × List α)
  | [] => none
  | x :: xs => if ok x then some (x, xs) else (takeFirst ok xs).map fun r => (r.1, x :: r.2)

/-- A thread set that falls free takes the oldest waiting context (12 R258) that is not of a launch whose units are saved (DESIGN CHOICE,
L86). -/
def State.takeLight (s : State) (k : Nat) : State :=
  let u := unitOf k
  if (s.ctx k).status != .vacant then s
  else match takeFirst (fun (l : Light) => !s.launchSaved l.launch) (s.core u).arrivals with
    | none => s
    | some (l, r) => (s.setCore u { s.core u with arrivals := r }).startLight k l

/-- The vacant thread sets of a core. -/
def State.freeSet (s : State) (u : Nat) : Option Nat :=
  ([0, 1, 2, 3].map (u * 32 + ·)).find? fun k => (s.ctx k).status == .vacant

/-- The light context of a thread at a migration point, with its PC past the instruction, and the events that are pending for it. The 80
bytes carry no `srseed`, `uepc`, `ucause`, `uxid` or `instret`, no mode, no mark of a user-interrupt handler and no transfers: these start
anew where it arrives (07 R142; DESIGN CHOICE, L82). -/
def Ctx.toLight (c : Ctx) (l : Nat) : Light :=
  { a := (span 10 8).foldl (fun t r => Tbl.set Reg.zero t (r - 10) ((c.lane 0).rx r)) [],
    pc := (c.lane 0).pc + 4, rank := c.rank.getD 0, launchNo := c.launchNo, launch := l, seed := 0,
    mcPend := c.mcPend, uPend := c.uPend, preempt := c.preempt, area := c.area }

/-- Every counter of the context is 0. -/
def Counters.idle (n : Counters) : Bool := n.ld = 0 && n.st = 0 && n.ms = 0 && n.cp = 0 && n.mx = 0

/-- The context moves its lines out before it leaves its unit (05 R106): `none` once every write is acknowledged, else the
state of the next wait. -/
def State.settleLines (s : State) (k : Nat) : Option State :=
  let u := unitOf k
  let c := s.ctx k
  if (Tbl.get [] s.storeQ u).any fun e => e.uid == c.uid then some s
  else if (s.l1 u).any fun l => l.taggedBy c.tagEnt then some (s.flushTag u c.tagEnt)
  else if s.released k 5 then none
  else some s

/-! ## Network interfaces -/

/-- A lane of its own for a message that keeps no order. -/
def freeLane (s : State) : Nat := 2 ^ 50 + s.nextId

/-- A request of a unit's network interface: a message or an arrival, held or not, the arming or the decrement of a codelet. -/
def niRequest (u : Nat) (b : Body) : Option (Nat × BitVec 16) :=
  match b with
  | .heldMsg r => if unitOf r.place = u then some (r.uid, r.seq) else none
  | .tagged r => if (r.carries || r.op == .cdec || r.op == .carm) && unitOf r.place = u then some (r.uid, r.seq) else none
  | _ => none

/-- The requests of a unit's network interface that are not yet admitted; it holds 32 or 256 (12 R245). A resent request counts
once. -/
def State.niCount (s : State) (u : Nat) : Nat := (s.net.filterMap fun m => niRequest u m.body).eraseDups.length

def State.niFull (s : State) (u n : Nat) : Bool := (if u % 128 < 64 then 32 else 256) < s.niCount u + n

/-- The context at a place cannot send `n` more requests now: its network interface is full (12 R245), or it would have 32,768 requests
unanswered (03 R57). -/
def State.sendFull (s : State) (k n : Nat) : Bool := s.niFull (unitOf k) n || (s.ctx k).tagsFull n

/-! ## Rank lookups -/

/-- A rank's entry in the cluster's rank cache. -/
def State.rankHit (s : State) (cl l : Nat) (rank : Word) : Option Word :=
  ((s.cluster cl).rankCache.find? fun e => e.1 == l && e.2.1 == rank).map (·.2.2)

/-- What a lookup of an instruction finds, or `none` while its read is on the way (12 R240). -/
def State.lookFor (s : State) (k : Nat) (rank : Word) : Option LookRes :=
  let c := s.ctx k
  match c.launch with
  | none => some .absent
  | some l =>
    if !s.rankIn l rank.toNat then some .absent
    else match s.rankHit (clusterOf k) l rank with
      | some e => some (.entry e)
      | none => (c.look.find? fun e => e.1 == rank).map (·.2)

/-- Send the lookups of some ranks that are neither known nor asked for. -/
def State.askRanks (s : State) (k : Nat) (ranks : List Word) : State :=
  let c := s.ctx k
  ranks.foldl (fun s r =>
    let asked := s.net.any fun m => match m.body with
      | .lookup u l q => u == c.uid && some l == c.launch && q == r
      | _ => false
    if (s.lookFor k r).isSome || asked then s
    else s.send (freeLane s) 0 (.lookup c.uid (c.launch.getD 0) r)) s

/-- Go on with the lookups of some ranks; the instruction waits while one is missing. -/
def withRanks (s : State) (k : Nat) (ranks : List Word) (go : (Word → LookRes) → State) : State :=
  if ranks.all fun r => (s.lookFor k r).isSome then go fun r => (s.lookFor k r).getD .absent else s.askRanks k ranks

/-- Read a rank's entry at its home slice for a unit's interface: nothing while a walk runs or an L1 owns the line (12 R240). -/
def State.readRank (s : State) (who : Agent) (u l : Nat) (rank : Word) : State × Option LookRes :=
  if !s.rankIn l rank.toNat then (s, some .absent)
  else match s.rankAddr u l rank.toNat 0 with
    | (s, .wait) => (s, none)
    | (s, .fault c va) => (s, some (.fault c va))
    | (s, .at_ a) =>
      s.inTurn who a true none (s, some (if s.entryPresent (s.value a 8) then .entry (BitVec.ofNat 64 (s.value a 8)) else .absent))

/-- Keep an entry of a rank that is not light in a cluster's rank cache of 4,096 entries (12 R240). -/
def Cluster.keepRank (c : Cluster) (l : Nat) (rank e : Word) : Cluster :=
  if entryLight e.toNat then c
  else { c with rankCache := ((l, rank, e) :: c.rankCache.filter fun x => !(x.1 == l && x.2.1 == rank)).take 4096 }

/-- A discarded send: a machine-check record with SRC 11 and SEV 5, with the entry's physical address or 0 (12 R241). Whether it is
written: it waits for the walk that finds the entry. -/
def State.sendFailed (s : State) (u l : Nat) (rank : Word) (ctxid : BitVec 48) : State × Bool :=
  if !s.rankIn l rank.toNat then (s.mcRecord 11 5 0 (unitCode u) ctxid.toNat, true)
  else match s.rankAddr u l rank.toNat 0 with
    | (s, .wait) => (s, false)
    | (s, .fault _ _) => (s.mcRecord 11 5 0 (unitCode u) ctxid.toNat, true)
    | (s, .at_ a) => (s.mcRecord 11 5 a (unitCode u) ctxid.toNat, true)

/-- The core that an entry names; one of another package lies beyond every core of this one. -/
def State.destCore (s : State) (e : Nat) : Nat :=
  if entryPkg e = s.ownPkg then entryCore e else 2 ^ 20 * (entryPkg e + 1) + entryCore e

/-- A destination core lies in another package, which is outside the model (DESIGN CHOICE, L69). -/
def foreign (core : Nat) : Bool := 2 ^ 20 ≤ core

end Sys2Proof.Machine
end

