-- ==== Sys2Proof/Machine/Message.lean ====
section
/-! DEFINITION. Messages, handlers, codelets, owner atomics, light threads and migration, and the channel instructions
(12 R239 to R263). -/
namespace Sys2Proof.Machine

/-! ## Sends -/

/-- A fault of one lane of an instruction that sends: a cause and its `tval`. -/
abbrev LaneFault := Nat × Nat × Word

/-- POISON of one lane for the first of some registers that it holds poisoned (07 R130). -/
def Lane.poisonFault (x : Lane) (lane : Nat) (rs : List Nat) : Option LaneFault :=
  (x.firstPoison rs).map fun r => (lane, 26, poisonTval 0 r)

/-- Deliver the faults of a sending instruction, or go on (18 R366). -/
def State.sendFaults (s : State) (k : Nat) (fs : List LaneFault) (go : State) : State :=
  match lowestLane fs with
  | some (_, cause, va) => s.trap k cause va (s.ctx k).nextPc (fs.map (·.1))
  | none => go

/-- A handler's send buffer of 16 entries is full: the next held send raises BUDGET with `tval` 1 (12 R249). -/
def Ctx.bufferFull (c : Ctx) : Bool :=
  match c.task with
  | some t => 16 ≤ t.held.length
  | none => false

def Ctx.hold (c : Ctx) (h : List Held) : Ctx := { c with task := c.task.map fun t => { t with held := t.held ++ h } }

def Ctx.claim (c : Ctx) (rs : List (BitVec 32)) : Ctx :=
  { c with task := c.task.map fun t => { t with claimed := t.claimed ++ rs } }

/-- The order of a held message among the held messages of its context: by its rank (12 R241). -/
def heldLoc (rank : BitVec 32) : Nat := 2 ^ 40 + rank.toNat * 128

/-- An earlier message of the context to the same rank is held. -/
def State.holdsTo (s : State) (m : Message) : Bool := s.net.any fun n =>
  match n.body with
  | .heldMsg r => r.uid == m.uid && r.launch == m.launch && r.loc == heldLoc m.rank
  | _ => false

/-- Hand a message to the network interface, with a tag of its context: to the coordinate of its lookup, or held while the rank is in
transit or while an earlier held message of the context goes to the same rank (12 R241, R242, R244). REMOTE of a message reports its
rank (DESIGN CHOICE, L61). -/
def State.handMessage (s : State) (k : Nat) (m : Message) (e : Word) (lane grp : Nat) : State :=
  let held := entryState e.toNat = 3 || s.holdsTo m
  let core := s.destCore e.toNat
  let loc := if held then heldLoc m.rank else core * 128
  let (s, r) := s.newTag k .msg (Spot.bare loc .core) core Reg.zero Reg.zero (zext m.rank) lane none grp m.launch (.message m)
  if held then
    let id := s.nextId
    (s.send (niLane m.uid) loc (.heldMsg r)).setMsg
      { id := id, lane := niLane m.uid, loc := loc, refused := 0, due := s.now r.place + 64, lost := false,
        stale := false, body := .heldMsg r }
  else s.send (niLane m.uid) loc (.tagged r)

/-- Send a light context to a core, with a tag of the context that sends it (12 R242, R259, R260). -/
def State.sendLight (s : State) (k : Nat) (l : Light) (core lane grp : Nat) (moving : Bool) : State :=
  let uid := (s.ctx k).uid
  let loc := (2 ^ 40 + s.nextId) * 128
  let (s, r) := s.newTag k .arrival (Spot.bare loc .core) core Reg.zero Reg.zero (zext l.rank) lane none grp l.launch
    (.light l moving)
  s.send (niLane uid) loc (.tagged r)

/-- A request that will get no answer is done: it is unanswered no more, and its part of the counter falls. -/
def State.endTag (s : State) (r : TagReq) : State :=
  (s.partDone r.grp).modUid r.uid fun c => { c with unanswered := c.unanswered.filter fun q => q != r.seq }

/-- The message of one lane of `msend`. -/
def Ctx.message (c : Ctx) (k lane n scope : Nat) (rank pc : Word) : Message :=
  { launch := c.launch.getD 0, rank := bits 0 32 rank, pc := pc, n := n, scope := scope, sender := rankCsr k c lane,
    payload := (span 10 n).map (c.lane lane).rx, ctxid := c.ctxid, uid := c.uid, id := 0, aborts := 0 }

/-- The faults of a sending instruction that come before anything is looked up, in lane order: POISON of one of the registers `rs`, and
cause 0 of a target that is no multiple of 4 (12 R246, R259). -/
def Ctx.earlyFaults (c : Ctx) (ws rs : List Nat) (pc : Nat → Word) : List LaneFault :=
  ws.filterMap fun l => ((c.lane l).poisonFault l rs).orElse fun _ =>
    if (pc l).toNat % 4 ≠ 0 then some (l, 0, pc l) else none

/-- `msend` (12 R246): the PC and the rank of each sending lane are checked, the release is performed, and the messages leave,
or a handler holds its message until `hend`. -/
def execMsend (n : BitVec 3) (sc : BitVec 3) (b : BitVec 5) (a : BitVec 5) (s : State) : Out :=
  gated (.msend n sc b a) s fun s k c ls =>
    leading s k c ls fun _ =>
      let ws := c.workers ls
      let rank := fun (l : Nat) => ((c.lane l).rx a.toNat).v
      let pc := fun (l : Nat) => ((c.lane l).rx b.toNat).v
      let early := c.earlyFaults ws [a.toNat, b.toNat] pc
      let rest := ws.filter fun l => !early.any fun e => e.1 == l
      withRanks s k (rest.map rank) fun look =>
        s.sendFaults k
          (early ++ rest.filterMap fun l =>
            match look (rank l) with
            | .fault cause va => some (l, cause, va)
            | .absent => some (l, 7, rank l)
            | .entry e => if entryState e.toNat = 0 then some (l, 7, rank l) else none) <|
          if c.bufferFull then s.trap k 28 1 c.nextPc ls
          else
            let msg := fun (l : Nat) => c.message k l (n.toNat + 1) sc.toNat (rank l) (pc l)
            counting s c .ms <|
              if c.task.isSome then
                let (s, g) := s.newGroup k .ms 1 none
                s.modCtx k fun c => (c.hold (ws.map fun l => .msg (msg l) g)).retire ls
              else if s.sendFull k ws.length then s
              else releasing s k sc.toNat <|
                let (s, g) := s.newGroup k .ms ws.length none
                (ws.foldl (fun s l =>
                  match look (rank l) with
                  | .entry e => s.handMessage k (msg l) e l g
                  | _ => s.partDone g) s).retire k ls

/-! ## Codelets -/

/-- The translation of the descriptors of some lanes: aligned to 32, in a core-pinned page; POISON looks at the registers `rs`, and
`extra` is a further condition that raises cause 7 (12 R254, R255). -/
def State.xlatDescriptors (s : State) (k : Nat) (c : Ctx) (ls : List Nat) (a : BitVec 5) (rs : List Nat) (extra : Lane → Bool) :
    LaneXl :=
  let reqs := (c.workers ls).map fun l =>
    { (c.lane l).request l a.toNat 0 8 32 with poison := (c.lane l).firstPoison rs }
  (s.xlatAligned k 1 6 c reqs).check (fun r ps =>
    if (ps.any fun p => p.at_.home != .core) || extra (c.lane r.lane) then some (7, r.va) else none) fun _ => false

/-- `carm` (12 R254). -/
def execCarm (b : BitVec 5) (a : BitVec 5) (d : BitVec 5) (s : State) : Out :=
  gated (.carm b a d) s fun s k c ls =>
    let cnt := fun (l : Lane) => (l.rx b.toNat).v
    let t := s.xlatDescriptors k c ls a [a.toNat, b.toNat] fun l => (cnt l).toNat / 2 ^ 32 ≠ 0
    s.faultOr k 1 t <| counting s c .ld <| if s.sendFull k t.ok.length then s else releasing s k 3 <|
      let helpers := ls.filter fun l => (c.lane l).helper
      let s := s.modCtx k fun c => (c.modLanes helpers fun _ l => l.wx d.toNat Reg.zero).retire ls
      if t.ok.isEmpty then s
      else
        let (s, g) := s.newGroup k .ld t.ok.length none
        t.ok.foldl (fun s e =>
          match e.2 with
          | p :: _ =>
            let (s, i) := s.newPend k e.1.lane 8 (.x d.toNat 8 false) g
            s.tagRequest k .carm p.at_ 8 (Reg.of (cnt (c.lane e.1.lane)) false) Reg.zero e.1.va e.1.lane (some i) g
              (c.launch.getD 0)
          | [] => s.partDone g) s

/-- `cdec` (12 R255): a handler holds it until `hend`. -/
def execCdec (a : BitVec 5) (s : State) : Out :=
  gated (.cdec a) s fun s k c ls =>
    let t := s.xlatDescriptors k c ls a [a.toNat] fun _ => false
    s.faultOr k 1 t <|
      if t.ok.isEmpty then s.retire k ls
      else if c.bufferFull then s.trap k 28 1 c.nextPc ls
      else counting s c .ms <|
        if c.task.isSome then
          let (s, g) := s.newGroup k .ms 1 none
          s.modCtx k fun c => (c.hold (t.ok.filterMap fun e => e.2.head?.map fun p => .cdec p.at_.loc e.1.va g)).retire ls
        else if s.sendFull k t.ok.length then s
        else releasing s k 3 <|
          let (s, g) := s.newGroup k .ms t.ok.length none
          (t.ok.foldl (fun s e =>
            match e.2 with
            | p :: _ => s.tagRequest k .cdec p.at_ 8 Reg.zero Reg.zero e.1.va e.1.lane none g (c.launch.getD 0)
            | [] => s.partDone g) s).retire k ls

/-! ## spawn -/

/-- The cause of a load for a failed translation of a rank's entry (12 R240). -/
def loadCause (cause : Nat) : Nat := if cause = 15 then 13 else if cause = 7 then 5 else cause

/-- The places of the entries that some lanes claim, in lane order; a rank beyond the table has none (12 R240, R259). -/
def State.claimAts (s : State) (u l : Nat) (rank : Nat → Word) : List Nat → State × List (Nat × RankAt)
  | [] => (s, [])
  | n :: ns =>
    if !s.rankIn l (rank n).toNat then s.claimAts u l rank ns
    else
      let (s, a) := s.rankHome u l (rank n).toNat
      let (s, r) := s.claimAts u l rank ns
      (s, (n, a) :: r)

/-- The claim of one rank by the context at a place, a tagged request performed at the home of the entry in one step (12 R241, R259): the
entry, where it was claimed. -/
def State.claimAt (s : State) (k a : Nat) : State × Option Nat :=
  let e := s.value a 8
  let s := s.homeTag k a (s.ctx k)
  if s.entryPresent e && entryState e = 0 && entryLight e && entryPkg e = s.ownPkg then (s.putValue a 8 (e + 1) false, some e)
  else (s, none)

/-- The fault of an entry's place, as that of a load (12 R240). -/
def RankAt.laneFault (lane : Nat) : RankAt → Option LaneFault
  | .fault c va => some (lane, loadCause c, va)
  | _ => none

def RankAt.loc? : RankAt → Option Nat
  | .at_ a => some a
  | _ => none

/-- Claim the ranks of some lanes in lane order: the lanes that have theirs, with its entry. -/
def State.claimAll (s : State) (k : Nat) (ats : List (Nat × Nat)) : State × List (Nat × Nat) :=
  ats.foldl (fun (t : State × List (Nat × Nat)) e =>
    let (s, r) := t.1.claimAt k e.2
    (s, t.2 ++ (r.map fun v => (e.1, v)).toList)) (s, [])

/-- The context that a lane spawns. -/
def Ctx.spawned (c : Ctx) (lane : Nat) (pc rank : Word) : Light :=
  { a := (span 10 8).foldl (fun t r => Tbl.set Reg.zero t (r - 10) ((c.lane lane).rx r)) [], pc := pc,
    rank := bits 0 32 rank, launchNo := c.launchNo, launch := c.launch.getD 0, seed := 0, mcPend := none, uPend := [], preempt := false,
    area := none }

/-- `spawn` (12 R259). -/
def execSpawn (b : BitVec 5) (a : BitVec 5) (d : BitVec 5) (s : State) : Out :=
  gated (.spawn b a d) s fun s k c ls =>
    let ws := c.workers ls
    let pc := fun (l : Nat) => ((c.lane l).rx a.toNat).v
    let rank := fun (l : Nat) => ((c.lane l).rx b.toNat).v
    let launch := c.launch.getD 0
    let early := c.earlyFaults ws [a.toNat, b.toNat] pc
    let (s, ats) := s.claimAts (unitOf k) launch rank (ws.filter fun l => !early.any fun e => e.1 == l)
    let locs := ats.filterMap fun e => e.2.loc?.map fun a => (e.1, a)
    if ats.any fun e => e.2 == .wait then s
    else s.sendFaults k (early ++ ats.filterMap fun e => e.2.laneFault e.1) <|
      if c.bufferFull then s.trap k 28 1 c.nextPc ls
      else if s.sendFull k ws.length then s
      else counting s c .ms <| releasing s k 3 <|
        let lines := locs.map (·.2 / 128)
        s.atTurns (.ctx c.uid) lines false <|
        if ws.any fun l => s.changingRank launch (rank l).toNat then s
        else if locs.any fun e => !s.tagRoom e.2 locs.length (c.tag k) then s
        else
          let (s, got) := s.claimAll k locs
          let s := s.modCtx k fun c => (c.modLanes ls fun i l =>
            l.wx d.toNat (Reg.of (boolWord (!l.helper && !(got.any fun e => e.1 == i))) false)).retire ls
          if got.isEmpty then s
          else
            let (s, g) := s.newGroup k .ms got.length none
            let arr := got.map fun e => (e.1, c.spawned e.1 (pc e.1) (rank e.1), s.destCore e.2)
            if c.task.isSome then
              s.modCtx k fun c => (c.hold (arr.map fun e => .arrival e.2.1 e.2.2 g)).claim (arr.map (·.2.1.rank))
            else arr.foldl (fun s e => s.sendLight k e.2.1 e.2.2 e.1 g false) s

/-! ## Migration -/

/-- The steps of a move to another core before it leaves (12 R260 steps 1 and 2): every counter is 0 and the lines are out. -/
def State.moveOut (s : State) (k : Nat) (c : Ctx) (go : State) : State :=
  if !c.cnt.idle || s.loading c then s
  else match s.settleLines k with
    | some s => s
    | none => releasing s k 3 go

/-- Ask for the change of the rank entry to in transit; the answer lets the context leave (12 R260 step 3). -/
def State.startTransit (s : State) (k : Nat) (c : Ctx) (core : Nat) : State :=
  let s := { s with net := s.net.filter fun m => match m.body with
    | .transit u _ _ => u != c.uid
    | _ => true }
  (s.send (freeLane s) 0 (.transit c.uid (c.toLight (c.launch.getD 0)) core)).modCtx k fun c => { c with phase := 1 }

/-- The core that the address form of `migrate` names; the page must be core-pinned (12 R260). -/
def execMigrateAddr (a : BitVec 5) (s : State) : Out :=
  gated (.migrateAddr a) s fun s k c ls =>
    if c.phase = 1 then s
    else unpoisoned s k c ls a.toNat <|
      let va := c.leadX ls a.toNat
      match s.xlat k 0 va.v with
      | .fault cause v => s.trap k cause v c.nextPc ls
      | .miss v => s.startWalk k 0 v
      | .ok p =>
        if p.home != .core then s.trap k 5 va.v c.nextPc ls
        else if coreOf p.loc = unitOf k then s.retire k ls
        else s.moveOut k c (s.startTransit k c (coreOf p.loc))

/-- The rank form of `migrate`: an entry in transit is read again every 64 clk until it settles (12 R260). -/
def execMigrateRank (a : BitVec 5) (s : State) : Out :=
  gated (.migrateRank a) s fun s k c ls =>
    if c.phase = 1 then s
    else unpoisoned s k c ls a.toNat <|
      let r := (c.leadX ls a.toNat).v
      if s.now k < c.lookAt then s
      else withRanks s k [r] fun look =>
        match look r with
        | .fault cause va => s.trap k cause va c.nextPc ls
        | .absent => s.trap k 7 r c.nextPc ls
        | .entry e =>
          if entryState e.toNat = 0 || entryPkg e.toNat ≠ s.ownPkg then s.trap k 7 r c.nextPc ls
          else if entryState e.toNat = 3 then s.modCtx k fun c => { c with look := [], lookAt := s.now k + 64 }
          else if entryCore e.toNat = unitOf k then s.retire k ls
          else s.moveOut k c (s.startTransit k c (entryCore e.toNat))

/-! ## hend -/

/-- The context at which a channel push lands, or why there is none: it is saved or waits, or it has retired (07 R133,
R137). -/
inductive PushAt where
  | at_ (k : Nat)
  | away
  | gone
  deriving DecidableEq, Repr

/-- The wave of a crew with an index. -/
def State.waveOf (s : State) (launch crew : Option Nat) (w : Nat) : PushAt :=
  match s.ctxs.find? fun e => isWave e.1 && e.2.status != .vacant && e.2.launch == launch && e.2.crew == crew && !e.2.gath
      && e.2.waveIdx == w with
  | some e => .at_ e.1
  | none =>
    if s.saved.any fun e => e.2.status != .vacant && e.2.launch == launch && e.2.crew == crew && e.2.waveIdx == w then .away
    else .gone

/-- The thread with a rank. Where none is resident the push waits: the thread is saved, or it is a non-light one that has ended, whose entry
keeps STATE 1 (12 R250) and for which the spec names no outcome, so that the push waits for ever (07 R137; DESIGN CHOICE, L101). -/
def State.threadOf (s : State) (launch : Option Nat) (r : BitVec 32) : PushAt :=
  match s.ctxs.find? fun e => !isWave e.1 && !isHandler e.1 && e.2.status == .resident && e.2.launch == launch
      && e.2.rank == some r with
  | some e => .at_ e.1
  | none => .away

/-- Where a push of a context lands. -/
def State.pushAt (s : State) (k : Nat) (c : Ctx) : PushTo → PushAt
  | .self => .at_ k
  | .rank r => s.threadOf c.launch r
  | .wave w => s.waveOf c.launch c.crew w

/-- A held send that is discarded at `hend`: its record, and its part of the counter (12 R250). -/
def State.heldFails (s : State) (u l : Nat) (rank : Word) (ctxid : BitVec 48) (grp : Option Nat) : State × Bool :=
  match s.sendFailed u l rank ctxid with
  | (s, true) => (s.partDone? grp, true)
  | (s, false) => (s, false)

/-- What a lookup has found of a push's target is read again. -/
def Ctx.forget (c : Ctx) (t : PushTo) : Ctx :=
  match t with
  | .rank r => { c with look := c.look.filter fun e => e.1 != zext r }
  | _ => c

/-- A held push to a rank: the entry that its lookup finds at `hend` (12 R250, R261). -/
def State.heldPush (s : State) (k : Nat) (c : Ctx) (r : BitVec 32) (go : State → State × Bool) : State × Bool :=
  let bad := s.heldFails (unitOf k) (c.launch.getD 0) (zext r) c.ctxid none
  match s.lookFor k (zext r) with
  | none => (s.askRanks k [zext r], false)
  | some (.entry e) =>
    if entryState e.toNat = 0 || entryState e.toNat = 2 then bad
    else if entryState e.toNat = 3 then (s.modCtx k fun c => c.forget (.rank r), false)
    else if entryPkg e.toNat ≠ s.ownPkg then (s, true)
    else go s
  | some _ => bad

/-- A held send leaves: whether it has; each performs its own release, and a launch starts (12 R250, R252; 04 R77). -/
def State.handHeld (s : State) (k : Nat) (c : Ctx) (h : Held) : State × Bool :=
  let u := unitOf k
  match h with
  | .launch x => if !s.released k 3 then (s.release k 3, false) else (s.startXfer x, true)
  | .push t ch ds =>
    let go := fun (s : State) =>
      match s.pushAt k c t with
      | .gone => (s, true)
      | .away => (s.modCtx k fun c => c.forget t, false)
      | .at_ j =>
        match (s.ctx j).push ch ds with
        | some d => (s.setCtx j d, true)
        | none => (s, false)
    match t with
    | .rank r => s.heldPush k c r go
    | _ => go s
  | .cdec loc va g =>
    if !s.released k 3 then (s.release k 3, false)
    else if s.sendFull k 1 then (s, false)
    else (s.tagRequest k .cdec (Spot.bare loc .core) 8 Reg.zero Reg.zero va 0 none g (c.launch.getD 0), true)
  | .arrival l core g =>
    if !s.released k 3 then (s.release k 3, false)
    else if s.sendFull k 1 then (s, false)
    else (s.sendLight k l core 0 g false, true)
  | .msg m g =>
    if !s.released k m.scope then (s.release k m.scope, false)
    else
      let r : Word := zext m.rank
      match s.lookFor k r with
      | none => (s.askRanks k [r], false)
      | some (.entry e) =>
        if entryState e.toNat = 0 then s.heldFails u m.launch r c.ctxid (some g)
        else if s.sendFull k 1 then (s, false)
        else (s.handMessage k m e 0 g, true)
      | some _ => s.heldFails u m.launch r c.ctxid (some g)

/-- The held sends of a task leave in program order: what is still held once one has left, or nothing where none can leave now. A push
that waits for its channel holds back the later pushes to its target and no other send (12 R250). -/
def State.handFrom (s : State) (k : Nat) (c : Ctx) (stuck : List PushTo) : List Held → State × Option (List Held)
  | [] => (s, none)
  | h :: r =>
    let later := fun (s : State) (t : PushTo) =>
      match s.handFrom k c (t :: stuck) r with
      | (s, some l) => (s, some (h :: l))
      | (s, none) => (s, none)
    match h with
    | .push t _ _ =>
      if stuck.contains t then later s t
      else match s.handHeld k c h with
        | (s, true) => (s, some r)
        | (s, false) => later s t
    | _ =>
      match s.handHeld k c h with
      | (s, true) => (s, some r)
      | (s, false) => (s, none)

/-- The thread ends and its set is free (12 R250). -/
def State.endThread (s : State) (k : Nat) (c : Ctx) : State :=
  let s := match c.light, c.rank, c.launch with
    | true, some r, some l => s.vacate k l r.toNat c.ctxid.toNat
    | _, _, _ => s
  (s.leave k).takeLight k

/-- `hend` (12 R250). -/
def execHend (s : State) : Out :=
  gated .hend s fun s k c ls =>
    if isHandler k then
      if c.cnt.ld ≠ 0 || c.cnt.st ≠ 0 then s
      else match c.task with
        | none => s.modCtx k fun c => { c.retire ls with lanes := [] }
        | some t =>
          match t.held with
          | [] => s.modCtx k fun c => { c.retire ls with task := none, lanes := [] }
          | hs =>
            match s.handFrom k c [] hs with
            | (s, some r) => s.modCtx k fun c => { c with task := some { t with held := r }, look := [] }
            | (s, none) => s
    else if !c.cnt.idle || s.loading c then s
    else match s.settleLines k with
      | some s => s
      | none => s.endThread k c

/-! ## Channel instructions -/

/-- The handle of a push: the channel and the target, or nothing where it is not a legal handle (07 R133). -/
def Ctx.handle (c : Ctx) (h : Word) : Option (PushTo × Nat) :=
  let kind := (bits 4 2 h).toNat
  let tgt := (bits 8 32 h).toNat
  let ch := (bits 0 4 h).toNat
  if bits 6 2 h != 0#2 || bits 40 24 h != 0#24 || ch = 15 then none
  else if kind = 0 then (if tgt = 0 then some (.self, ch) else none)
  else if kind = 1 then some (.rank (BitVec.ofNat 32 tgt), ch)
  else if kind = 2 then
    (if c.crew.isSome && !c.gath && tgt < 32 && tgt < c.waves then some (.wave tgt, ch) else none)
  else none

/-- The doubles of a handler's earlier held pushes to its own channel (12 R261). -/
def Ctx.heldSelf (c : Ctx) (ch : Nat) : Nat :=
  match c.task with
  | some t => t.held.foldl (fun n h => match h with
      | .push .self q ds => if q = ch then n + ds.length else n
      | _ => n) 0
  | none => 0

/-- Make a push that has passed its checks: a handler holds it; a push to the own context is made at once; any other is sent
and the instruction waits until the packet is in the channel. -/
def State.makePush (s : State) (k : Nat) (c : Ctx) (ls : List Nat) (t : PushTo) (ch : Nat) (ds : List Reg) : State :=
  if c.task.isSome then
    if c.bufferFull then s.trap k 28 1 c.nextPc ls else s.modCtx k fun c => (c.hold [.push t ch ds]).retire ls
  else match t with
    | .self =>
      (match c.push ch ds with
       | some c => s.setCtx k (c.retire ls)
       | none => s)
    | _ =>
      (match s.pushAt k c t with
       | .gone => s.retire k ls
       | .away => s.modCtx k fun c => { c with look := [] }
       | .at_ j =>
         let s := { s with net := s.net.filter fun m => match m.body with
           | .push u _ _ _ => u != c.uid
           | _ => true }
         (s.send (freeLane s) 0 (.push c.uid (s.ctx j).uid ch ds)).modCtx k fun c => { c with phase := 1 })

/-- `qsend` (12 R261; 07 R133 to R137). -/
def execQsend (n : BitVec 3) (b : BitVec 5) (a : BitVec 5) (s : State) : Out :=
  gated (.qsend n b a) s fun s k c ls =>
    if c.phase = 1 then s
    else leading s k c ls fun l =>
      leadUnpoisoned s k c ls a.toNat <|
        let h := ((c.lane l).rx a.toNat).v
        let ds := (span b.toNat (n.toNat + 1)).map (c.lane l).rx
        let bad := s.trap k 7 h c.nextPc (c.workers ls)
        match c.handle h with
        | none => bad
        | some (.self, ch) =>
          if 32 < c.chanFill ch + c.heldSelf ch + ds.length then bad else s.makePush k c ls .self ch ds
        | some (.wave w, ch) => s.makePush k c ls (.wave w) ch ds
        | some (.rank r, ch) =>
          withRanks s k [zext r] fun look =>
            match look (zext r) with
            | .fault cause va => s.trap k cause va c.nextPc (c.workers ls)
            | .absent => bad
            | .entry e =>
              if entryState e.toNat = 0 || entryState e.toNat = 2 then bad
              else if entryState e.toNat = 3 && c.task.isNone then s.modCtx k fun c => { c with look := [] }
              else if entryPkg e.toNat ≠ s.ownPkg && c.task.isNone then s.retire k ls
              else s.makePush k c ls (.rank r) ch ds

/-- `qrecv` (12 R261): pop the head packet into a register group; wait while the channel is empty. -/
def execQrecv (n : BitVec 3) (q : BitVec 5) (d : BitVec 5) (s : State) : Out :=
  gated (.qrecv n q d) s fun s k c ls =>
    leading s k c ls fun _ =>
      match c.chan q.toNat with
      | [] => s
      | p :: r =>
        s.modCtx k fun c => ((c.setChan q.toNat r).modLanes ls fun _ l =>
          (List.range (n.toNat + 1)).foldl (fun l i => l.wx (d.toNat + i) (p.getD i Reg.zero)) l).retire ls

/-- `qpoll` (12 R261). -/
def execQpoll (q : BitVec 5) (d : BitVec 5) (s : State) : Out :=
  gated (.qpoll q d) s fun s k c ls =>
    let m := match c.chan q.toNat with
      | [] => 0
      | p :: _ => p.length
    s.modCtx k fun c => (c.writeAll ls d.toNat (Reg.of (BitVec.ofNat 64 (m + 16 * c.chanFill q.toNat)) false)).retire ls

/-! ## uiret and yield -/

/-- `uiret` (12 R262): the user-interrupt handler ends, and the lanes that it parked issue again (15 R319). -/
def execUiret (s : State) : Out :=
  gated .uiret s fun s k _ ls =>
    s.modCtx k fun c =>
      let c := c.mapLanes fun i (l : Lane) =>
        if ls.contains i then { l with pc := c.csr.uepc } else if l.st == .uint then { l with st := .runnable } else l
      { c.retireAt with inUser := false }

/-- `yield` (12 R263): the set stands back in the 16 clk after this one. -/
def execYield (s : State) : Out :=
  gated .yield s fun s k c ls =>
    let u := unitOf k
    if isHandler k then s.retire k ls
    else if c.light && !(s.core u).arrivals.isEmpty then
      s.moveOut k c <|
        let l := c.toLight (c.launch.getD 0)
        let s := (s.setCore u { s.core u with arrivals := (s.core u).arrivals ++ [l] }).leave k
        s.takeLight k
    else s.modCtx k fun c => { c.retire ls with yieldTil := some (s.now k + 17) }

/-- `YIELD_EXPIRY`: the set or wave is chosen for issue again (12 R263). -/
def execYieldExpiry (p : Place) (s : State) : Out :=
  .next (match (s.ctx p.key).yieldTil with
    | some t => if t ≤ s.now p.key then s.modCtx p.key fun c => { c with yieldTil := none } else s
    | none => s)

/-! ## Events of the network interfaces -/

/-- `RANK_LOOKUP_REPLY`: the entry that the home slice read reaches the network interface (12 R240). -/
def execRankLookupReply (k : Nat) (s : State) : Out :=
  .next (deliver s k fun s m =>
    match m.body with
    | .lookup uid l r =>
      (match s.keyOf uid with
       | none => s
       | some j =>
         match s.readRank (.ctx uid) (unitOf j) l r with
         | (s, none) => s.keep m
         | (s, some v) =>
           let s := match v with
             | .entry e => s.setCluster (clusterOf j) ((s.cluster (clusterOf j)).keepRank l r e)
             | _ => s
           s.modCtx j fun c => { c with look := (r, v) :: c.look.filter fun e => e.1 != r })
    | _ => s.keep m)

/-- An earlier held message of the same context, or of the same unit, to the same rank (12 R241). -/
def State.heldBefore (s : State) (id : Nat) (q : TagReq) : Bool := (netBefore id s.net).any fun n =>
  match n.body with
  | .heldMsg r => (unitOf r.place == unitOf q.place || r.uid == q.uid) && r.launch == q.launch && r.loc == q.loc
  | _ => false

/-- What the interface does with a held message once it has read the entry (12 R241): it waits on, leaves for the core that the
entry names, or is discarded. -/
def State.rereadHeld (s : State) (m : NetMsg) (r : TagReq) (q : Message) : State :=
  let u := unitOf r.place
  let giveOver := fun (s : State) =>
    match s.sendFailed u q.launch (zext q.rank) q.ctxid with
    | (s, true) => (s.dropMsg m.id).endTag r
    | (s, false) => s
  match s.readRank (.msg m.id) u q.launch (zext q.rank) with
  | (s, none) => s
  | (s, some (.entry e)) =>
    if entryState e.toNat = 3 then s.setMsg { m with due := s.msgClk m + 64 }
    else if entryState e.toNat = 0 then giveOver s
    else
      let core := s.destCore e.toNat
      (s.dropMsg m.id).send m.lane (core * 128) (.tagged { r with n := core, loc := core * 128 })
  | (s, some _) => giveOver s

/-- `HELD_MESSAGE_REREAD`: every 64 clk the interface reads the entry of a held message again (12 R241). -/
def execHeldMessageReread (k : Nat) (s : State) : Out :=
  .next (match s.msg k with
    | some m =>
      (match m.body with
       | .heldMsg r =>
         (match r.cargo with
          | .message q => if s.msgClk m < m.due || s.heldBefore m.id r then s else s.rereadHeld m r q
          | _ => s)
       | _ => s)
    | none => s)

/-- The free places that a queue must have to admit a request refused `n` times (12 R243). -/
def placesNeeded (n : Nat) : Nat := max (8 - n) 1

/-- A message or a context reaches its destination (12 R242, R243): a path that has been declared failed raises REMOTE; one for another
package leaves this one; one for a core that is no active unit is discarded with a machine-check record (12 R241); else the core answers
a duplicate, and admits the request where `places` of its queue are free. -/
def State.letIn (s : State) (m : NetMsg) (r : TagReq) (ctxid : BitVec 48) (places : Nat) (go : State → State) : State :=
  let done := fun (s : State) => s.reply r Reg.zero 0
  if s.mgmt.failedHomes.contains (s.tagHome r) then s.failTag r
  else if foreign r.n then done s
  else if !s.standing r.n then done (s.mcRecord 11 5 0 (unitCode (unitOf r.place)) ctxid.toNat)
  else s.coreArrive m r (if places < placesNeeded m.refused then some 256 else none) true fun s => done (go s)

/-- `MESSAGE_ADMISSION`: a message reaches its core, which admits it to its queue of 128 or refuses it (12 R243, R245). -/
def execMessageAdmission (k : Nat) (s : State) : Out :=
  .next (deliver s k fun s m =>
    match m.body with
    | .tagged r =>
      (match r.cargo with
       | .message q =>
         s.letIn m r q.ctxid (128 - (s.core r.n).inq.length) fun s =>
           let c := s.core r.n
           s.setCore r.n { c with inq := c.inq ++ [{ q with id := c.msgId }], msgId := c.msgId + 1 }
       | _ => s.keep m)
    | _ => s.keep m)

/-- `ARRIVAL_ADMISSION`: a light context reaches its core of 256 places; a migrating one's entry then names the core (12 R243, R258,
R260 step 5). -/
def execArrivalAdmission (k : Nat) (s : State) : Out :=
  .next (deliver s k fun s m =>
    match m.body with
    | .tagged r =>
      (match r.cargo with
       | .light l moving =>
         let id := lightId l.launchNo l.rank
         s.letIn m r id (256 - (s.core r.n).arrivals.length) fun s =>
           let s := s.setCore r.n { s.core r.n with arrivals := (s.core r.n).arrivals ++ [l] }
           let s := if moving then
               s.changeEntry (r.n * 32 + 4) r.n l.launch l.rank.toNat id.toNat (.put (mkEntry 1 true s.ownPkg r.n 0))
             else s
           (match s.freeSet r.n with
            | some j => s.takeLight j
            | none => s)
       | _ => s.keep m)
    | _ => s.keep m)

/-- The entry of a migrating context goes from resident to in transit, and then the context leaves its set (12 R260 steps 3, 4, 6). The
change is a tagged request, performed at its home in one step; it raises its faults, REMOTE among them, as the `migrate`'s own; it waits
for a walk, for the entry's line, for an earlier change of the entry, and for places in the de-duplication table and the interface. -/
def State.transit (s : State) (k j : Nat) (l : Light) (core : Nat) : State :=
  let c := s.ctx j
  match s.rankHome (unitOf j) l.launch l.rank.toNat with
  | (s, .wait) => s
  | (s, .fault cause va) => (s.dropMsg k).trap j (loadCause cause) va c.nextPc c.executing
  | (s, .at_ a) =>
    s.atTurn (.ctx c.uid) a false <|
    if s.sendFull j 1 || s.changingRank l.launch l.rank.toNat || !s.tagRoom a 1 (c.tag j) then s
    else
      let s := ((s.dropMsg k).homeTag j a c).putValue a 8 (EntryOp.transit.apply (s.value a 8)) false
      ((s.sendLight j { l with mcPend := c.mcPend, uPend := c.uPend, preempt := c.preempt } core 0 0 true).leave j).takeLight j

/-- `MIGRATE_TRANSIT_REPLY`: the entry is in transit, the context leaves, and its set is free. -/
def execMigrateTransitReply (k : Nat) (s : State) : Out :=
  .next (match s.msg k with
    | some m =>
      (match m.body with
       | .transit uid l core =>
         (match s.keyOf uid with
          | none => s.dropMsg k
          | some j => if (s.ctx j).phase ≠ 1 then s.dropMsg k else s.transit k j l core)
       | _ => s)
    | none => s)

/-- `CHANNEL_PUSH_ARRIVAL`: a packet lands whole in its channel, and the `qsend` retires; it waits while there is too little
room, or while the target is saved (07 R132, R137). -/
def execChannelPushArrival (k : Nat) (s : State) : Out :=
  .next (match s.msg k with
    | some m =>
      (match m.body with
       | .push uid tgt ch ds =>
         (match s.keyOf uid with
          | none => s.dropMsg k
          | some i =>
            if (s.ctx i).phase ≠ 1 then s.dropMsg k
            else
              let done := fun (s : State) => (s.dropMsg k).modCtx i fun c => c.retire c.executing
              match s.keyOf tgt with
              | none => if (s.areaOf tgt).isSome then s else (s.dropMsg k).modCtx i fun c => { c with phase := 0 }
              | some j =>
                match (s.ctx j).push ch ds with
                | some d => done (s.setCtx j d)
                | none => s)
       | _ => s)
    | none => s)

/-! ## Events of the handler set -/

/-- What the built-in handler does to a descriptor or a location of the core (12 R254, R255, R257), and its result. -/
def State.ownerOp (s : State) (u : Nat) (r : TagReq) : State × Reg :=
  let s := s.meets r.uid r.loc (if r.op = .carm then 16 else r.n)
  let d0 := s.value r.loc 8
  let fire := fun (s : State) =>
    s.setCore u { s.core u with ring := (s.core u).ring ++ [{ loc := r.loc, va := r.va, launch := r.launch, aborts := 0 }] }
  let res := fun (n : Nat) => Reg.of (BitVec.ofNat 64 n) false
  match r.op with
  | .carm =>
    let entry := s.value (r.loc + 8) 8
    let n := r.v.v.toNat % 2 ^ 32
    if d0 / 2 ^ 33 ≠ 0 then (s, res 3)
    else if field d0 32 1 = 1 then (s, res 1)
    else if 1024 ≤ (s.core u).armed then (s, res 2)
    else if entry = 0 || entry % 4 ≠ 0 then (s, res 3)
    else
      let s := (s.setCore u { s.core u with armed := (s.core u).armed + 1 }).putValue r.loc 8
        (n + if n = 0 then 0 else 2 ^ 32) false
      (if n = 0 then fire s else s, res 0)
  | .cdec =>
    let n := field d0 0 32
    if field d0 32 1 = 0 || n = 0 then (s, Reg.zero)
    else if n = 1 then (fire (s.putValue r.loc 8 (d0 / 2 ^ 33 * 2 ^ 33) false), Reg.zero)
    else (s.putValue r.loc 8 (d0 - 1) false, Reg.zero)
  | op => s.atomicAt op r.loc r.n r.v r.c

/-- Clks that a task's budget is not charged for. -/
def Ctx.credit (c : Ctx) (n : Nat) : Ctx :=
  { c with task := c.task.map fun t => { t with deadline := t.deadline.map (· + n) } }

/-- `OWNER_ATOMIC`: the built-in handler performs the oldest owner atomic of a core, in the turn of the handler set, and holds the core's
issue slot for 2 clk, which no budget is charged for (12 R257; 17 R356). -/
def execOwnerAtomic (core : Nat) (s : State) : Out :=
  .next (match (s.core core).owners with
    | [] => s
    | r :: rs =>
      if s.unitClk core < (s.core core).busy || s.unitHeld core then s
      else
      let s := s.setCore core { s.core core with owners := rs, busy := s.unitClk core + 2, since := s.clk }
      let s := { s with ctxs := s.ctxs.map fun (e : Nat × Ctx) =>
        (e.1, if e.1 = core * 32 + 4 then { e.2.credit 2 with since := s.clk } else e.2) }
      let (s, v) := s.ownerOp core r
      let dd := (s.core core).dedup.map fun e => if e.holds r then { e with done := true, v := v, status := 0 } else e
      (s.setCore core { s.core core with dedup := dd }).reply r v 0)

/-- The budget of a core's handler set (15 R314). -/
def Core.budget (c : Core) : Nat :=
  if c.shbud = 0#32 then 100000 else if c.shbud.toNat < 1024 then 1024 else c.shbud.toNat

/-- The state with which a task starts (12 R247): every register 0, U mode, in the address space of its launch. Nothing of an earlier
task remains in a register that U mode writes (01 R21; L28); packets in the set's channels stay from one task to the next (07 R132;
DESIGN CHOICE, L83). -/
def State.startTask (s : State) (u launch : Nat) (rank : Option (BitVec 32)) (ln : Lane) (w : Work) : State :=
  let k := u * 32 + 4
  let c := s.ctx k
  let al := s.threadAlloc (clusterOf k) launch
  let s := if c.status = .resident then s else
    s.placeCtx k { Ctx.vacant with ctxid := handlerCtxid u }
  s.modCtx k fun c =>
    { c with lanes := [(0, { ln with st := .runnable })], w := [], mode := .u, copy := CopyCsrs.reset, cpSel := 0, lrc := 0,
             launch := some launch, launchNo := ((s.launch launch).map (·.number)).getD 0, rank := rank, allocBase := al.1,
             allocSize := al.2,
             csr := { c.csr with satp := s.launchSatp launch, srseed := 0, uepc := 0, ucause := 0, uxid := 0 }, phase := 0,
             block := none, look := [], lookAt := 0, walkFault := [], spin := Spin.none,
             task := some { work := w, deadline := none, held := [], claimed := [] } }

/-- A message task: the payload, the sender and the message's word (12 R247); its start is an acquire at the scope of the
`msend` (R252). -/
def State.startMessage (s : State) (u : Nat) (m : Message) : State :=
  let t1 := BitVec.ofNat 64 (m.id.toNat + (m.n - 1) * 2 ^ 16 + m.scope * 2 ^ 19)
  let xs := (m.payload.zipIdx.map fun e => (10 + e.2, e.1)) ++ [(5, Reg.of m.sender false), (6, Reg.of t1 false)]
  (s.acquire u m.scope).startTask u m.launch (some m.rank) (Lane.start m.pc xs) (.message m)

/-- A codelet task: the descriptor's address and arguments; its start is an acquire at `.pkg`. -/
def State.startCodelet (s : State) (u : Nat) (d : Codelet) : State :=
  let arg := fun (o : Nat) => Reg.of (BitVec.ofNat 64 (s.value (d.loc + o) 8)) (s.anyPoison (d.loc + o) 8)
  let xs := [(10, Reg.of d.va false), (11, arg 16), (12, arg 24), (5, Reg.of (BitVec.allOnes 64) false),
             (6, Reg.of 0x400000#64 false)]
  let pc := BitVec.ofNat 64 (s.value (d.loc + 8) 8)
  let s := (s.acquire u 3).startTask u d.launch none (Lane.start pc xs) (.codelet d)
  s.meets (s.ctx (u * 32 + 4)).uid d.loc 32

/-- The handler set may start a task: it runs none, no trap of one is being handled, and no deferred fault waits (12 R248;
15 R324). -/
def Ctx.handlerFree (c : Ctx) : Bool :=
  c.task.isNone && c.aborted.isNone && c.lanes.isEmpty && c.depth = 0 && !c.pendDw && !c.pendPx

/-- `HANDLER_TASK_START`: the handler set takes a task, once no load of an aborted one is still to come, from its two queues in turn
(12 R248; 18 R371): a message first, and only a choice between
the two counts as a turn (DESIGN CHOICE, L87). -/
def execHandlerTaskStart (core : Nat) (s : State) : Out :=
  .next (
    let old := s.ctx (core * 32 + 4)
    if 64 ≤ core % 128 || !old.handlerFree || s.awaiting old || s.unitHeld core then s
    else
      let s := s.finishRemote (core * 32 + 4) old.remote
      let c := s.core core
      let msg := takeFirst (fun (m : Message) => !s.launchSaved m.launch) c.inq
      let cod := takeFirst (fun (d : Codelet) => !s.launchSaved d.launch) c.ring
      match msg, cod with
      | some (m, r), none => (s.setCore core { c with inq := r }).startMessage core m
      | none, some (d, r) => (s.setCore core { c with ring := r, armed := c.armed - 1 }).startCodelet core d
      | some (m, q), some (d, r) =>
        if c.alt then (s.setCore core { c with ring := r, armed := c.armed - 1, alt := false }).startCodelet core d
        else (s.setCore core { c with inq := q, alt := true }).startMessage core m
      | none, none => s)

/-- The budget of a task has run out: its context issues nothing more (12 R248). -/
def State.budgetDue (s : State) (k : Nat) : Bool :=
  let c := s.ctx k
  match c.task with
  | some t =>
    (match t.deadline with
     | some d => d ≤ s.now k && !c.executing.isEmpty
     | none => false)
  | none => false

/-- `BUDGET_EXPIRY`: the handler raises BUDGET at its boundary, or at the instruction on which it waits, once every reply to an earlier
instruction is in (12 R248). -/
def execBudgetExpiry (p : Place) (s : State) : Out :=
  .next (if s.budgetDue p.key && !s.awaiting (s.ctx p.key) then s.trap p.key 28 0 (s.ctx p.key).nextPc (s.ctx p.key).executing else s)

end Sys2Proof.Machine
end

