-- ==== Sys2Proof/Machine/Wave.lean ====
section
/-! DEFINITION. Crossing to the wide side and the Tun, reconvergence and regrouping, votes and lane exchange, the geometry
instructions, and the short-vector instructions (13 R264 to R284; 17 R353, R360 to R362). -/
namespace Sys2Proof.Machine

/-! ## Parked lanes -/

/-- The lanes of a wave that still hold work. -/
def Ctx.unfinished (c : Ctx) : List (Nat × Lane) := c.lanes.filter fun e => e.2.st != .finished && e.2.st != .idle

def Lane.parked (l : Lane) : Bool := l.st == .wsync || l.st == .regroup

def leastPc (ls : List (Nat × Lane)) : Nat :=
  match ls with
  | [] => 0
  | e :: r => r.foldl (fun m e => min m e.2.pc.toNat) e.2.pc.toNat

/-- The lanes that a `wsync` releases among some lanes: where every unfinished one is parked and at least one stands at a
`wsync`, those at the smallest `wsync` PC (13 R271). -/
def wsyncFree (ls : List (Nat × Lane)) : List Nat :=
  let w := ls.filter fun e => e.2.st == .wsync
  if ls.all (fun e => e.2.parked) && !w.isEmpty then (w.filter fun e => e.2.pc.toNat == leastPc w).map (·.1) else []

/-- The lanes of a wave that the rule releases; each half of a ganged pair is a wave of its own (13 R265; 17 R363). -/
def Ctx.freed (c : Ctx) : List Nat :=
  let u := c.unfinished
  if c.ganged then wsyncFree (u.filter (·.1 < 32)) ++ wsyncFree (u.filter (32 ≤ ·.1)) else wsyncFree u

/-- Release the lanes that the `wsync` rule releases. -/
def Ctx.releaseParks (c : Ctx) : Ctx := c.modLanes c.freed fun _ l => { l with st := .runnable, pc := l.pc + 4 }

/-- A store of the context waits in its unit's store queue. -/
def State.storing (s : State) (k : Nat) : Bool := (Tbl.get [] s.storeQ (unitOf k)).any fun e => e.uid == (s.ctx k).uid

/-- Park lanes, and release what the rule then releases, once every earlier store of the wave has left the store queue
(13 R271); until then the instruction waits. -/
def State.parkLanes (s : State) (k : Nat) (ls : List Nat) (f : Lane → Lane) : State :=
  let c := (s.ctx k).modLanes ls fun _ l => f l
  if !c.freed.isEmpty && s.storing k then s else s.setCtx k c.retireAt.releaseParks

/-- `wsync` (13 R271). -/
def execWsync (s : State) : Out :=
  gated .wsync s fun s k _ ls => s.parkLanes k ls (fun l => { l with st := .wsync })

/-- Every unfinished lane stands at a `regroup`. -/
def Ctx.allRegroup (c : Ctx) : Bool := !c.unfinished.isEmpty && c.unfinished.all fun e => e.2.st == .regroup

/-- The PC at which a wave has arrived (13 R272). -/
def Ctx.arrivedAt (c : Ctx) : Option Word :=
  match c.unfinished with
  | [] => none
  | e :: r => if c.allRegroup && r.all fun f => f.2.pc == e.2.pc then some e.2.pc else none

/-- Lanes parked at more than one `regroup` PC: the trap is taken at the smallest, and every lane will execute its own again, so that none
has retired (13 R272; 18 R365). -/
def State.regroupTrap (s : State) (k : Nat) : State :=
  let c := s.ctx k
  if c.allRegroup && c.arrivedAt.isNone then
    let p := leastPc c.unfinished
    let at_ := c.unfinished.filter fun e => e.2.pc.toNat == p
    let r := match at_ with
      | e :: _ => e.2.park
      | [] => 0#5
    let s := s.modCtx k fun c =>
      { (c.mapLanes fun _ (l : Lane) => if l.st == .regroup then { l with st := .runnable } else l) with
        csr := { c.csr with instret := c.csr.instret - BitVec.ofNat 64 c.parks }, parks := 0 }
    s.illegalTrap k (encode (.regroup r)) 1 (at_.map (·.1))
  else s

/-- One more issue has parked lanes of a wave at a `regroup`, unless it waits. -/
def State.countPark (s : State) (k : Nat) (before : Ctx) : State :=
  if before.moved (s.ctx k) then s.modCtx k fun c => { c with parks := c.parks + 1 } else s

/-- `regroup` (13 R272, R273): the lanes park, and a lane whose source register is poisoned raises POISON first. -/
def execRegroup (a : BitVec 5) (s : State) : Out :=
  gated (.regroup a) s fun s k c ls =>
    unpoisoned s k c ls a.toNat <|
      ((s.parkLanes k ls (fun l => { l with st := .regroup, park := a })).countPark k c).regroupTrap k

/-! ## Quads -/

/-- Fill a partial last quad with helper lanes: copies of the lowest-numbered lane of the quad (13 R267). -/
def fillQuad (lanes : Tbl Lane) (n : Nat) : Tbl Lane :=
  let src := Tbl.get Lane.idle lanes (n / 4 * 4)
  (List.range ((4 - n % 4) % 4)).foldl (fun t i => Tbl.set Lane.idle t (n + i) { src with helper := true, rank := none, origin := none })
    lanes

/-- Lanes numbered from 0. -/
def lanesOf (ls : List Lane) : Tbl Lane := ls.zipIdx.foldl (fun t e => Tbl.set Lane.idle t e.2 e.1) []

/-! ## Merging at `regroup` -/

/-- A lane survives its `regroup` (13 R272). -/
def Lane.survives (l : Lane) : Bool := l.st == .regroup && !l.helper && (l.rx l.park.toNat).v != 0

/-- The survivors of a wave, in lane order. -/
def Ctx.survivors (c : Ctx) : List Lane := (c.lanes.filter fun e => e.2.survives).map (·.2)

/-- The absent registers of its survivors: they move with their lanes, so they are fetched first (13 R272; 15 R326). -/
def Ctx.missing (c : Ctx) : List (Nat × Nat) :=
  (c.absent.filter fun e => e.2 && (c.lane (e.1 / 128)).survives).map fun e => (e.1 / 128, e.1 % 128)

/-- A wave of the group after the merge: it holds survivors, whose registers are all present, or issues nothing more (13 R272). -/
def Ctx.regrouped (c : Ctx) (mine : List Lane) (p : Word) : Ctx :=
  let ls := mine.map fun l => { l with pc := p + 4, st := .runnable, depth := 0 }
  let c := { c with absent := [], grouped := false, parks := 0 }
  if mine.isEmpty then
    { (c.mapLanes fun _ (l : Lane) => { l with st := .finished }) with status := .ending }
  else { c with lanes := fillQuad (lanesOf ls) ls.length }

/-- Insert a wave in index order. -/
def insertWave (e : Nat × Ctx) : List (Nat × Ctx) → List (Nat × Ctx)
  | [] => [e]
  | f :: r => if e.2.waveIdx ≤ f.2.waveIdx then e :: f :: r else f :: insertWave e r

/-- Merge the waves of a crew that arrived at one PC. -/
def State.mergeAt (s : State) (ws : List (Nat × Ctx)) (p : Word) : State :=
  let ws := ws.foldr insertWave []
  let all := ws.flatMap fun e => e.2.survivors
  ws.zipIdx.foldl (fun s e =>
    let mine := (all.drop (64 * e.2)).take 64
    let s := s.modCtx e.1.1 fun c => c.regrouped mine p
    if mine.isEmpty then s else s.acquire (unitOf e.1.1) 3) s

/-- Fetch what the survivors of a wave still miss; a register whose fetch fails holds the merge. -/
def State.fetchMissing (s : State) (k : Nat) : State :=
  (s.ctx k).missing.foldl (fun s e => if s.fetchFails k e.1 e.2 then s else s.registerMiss k e.1 e.2 [] []) s

/-- Merge the groups whose merge is decided: each whose waves are all resident, with the replies to their tag flushes (05 R107), once its
survivors' registers are present and the releases of its waves are performed (13 R272, R273). -/
def State.mergeGroups (s : State) (ws away : List (Nat × Ctx)) : State :=
  let ws := ws.filter (·.2.grouped)
  (ws.filterMap fun e => e.2.arrivedAt).eraseDups.foldl (fun s p =>
    let grp := ws.filter fun e => e.2.arrivedAt == some p
    if (away.any fun e => e.2.grouped && e.2.arrivedAt == some p) || grp.any fun e => e.2.flushWait then s
    else if grp.any fun e => !e.2.missing.isEmpty then grp.foldl (fun s e => s.fetchMissing e.1) s
    else if grp.all fun e => s.released e.1 3 then s.mergeAt grp p
    else grp.foldl (fun s e => s.release e.1 3) s) s

/-- `REGROUP_MERGE`: when every unretired wave of a crew has arrived, the merge of each group is decided, and made as soon as its waves
are resident, whatever the other groups wait for (13 R272, R273). -/
def execRegroupMerge (launch crew : Nat) (s : State) : Out :=
  .next (
    let mine := fun (e : Nat × Ctx) =>
      e.2.status != .vacant && e.2.launch == some launch && e.2.crew == some crew && !e.2.gath
    let ws := s.ctxs.filter mine
    let away := s.saved.filter mine
    let mark := fun (t : Tbl Ctx) => t.map fun (e : Nat × Ctx) => if mine e then (e.1, { e.2 with grouped := true }) else e
    if (ws ++ away).any (·.2.grouped) then s.mergeGroups ws away
    else if ws.isEmpty || !(ws ++ away).all fun e => e.2.arrivedAt.isSome && e.2.status == .resident then s
    else { s with ctxs := mark s.ctxs, saved := mark s.saved }.mergeGroups (mark ws) (mark away))

/-! ## Crossing -/

/-- Read a register of a lane, numbered as a map numbers it: 0 to 31 x, 32 to 63 f. -/
def Lane.mapReg (l : Lane) (r : Nat) : Reg := if r < 32 then l.rx r else l.rf (r - 32)

def Lane.setMapReg (l : Lane) (r : Nat) (v : Reg) : Lane := if r < 32 then l.wx r v else l.wf (r - 32) v

/-- The entries of a valid map (07 R138, R139), given its 128 bytes as a number. -/
def readMap (v : Nat) : Option (List MapEnt) :=
  let n := v % 256
  let ent := fun (i : Nat) => v / 2 ^ (64 + 16 * i) % 65536
  let es : List MapEnt := (List.range n).map fun i =>
    { sreg := ent i % 64, lreg := ent i / 64 % 64, inn := ent i / 4096 % 2 = 1, out := ent i / 8192 % 2 = 1 }
  let ins := (es.filter (·.inn)).map (·.lreg)
  let outs := (es.filter (·.out)).map (·.sreg)
  if n = 0 || 60 < n || v / 256 % 2 ^ 56 ≠ 1 || (List.range n).any (fun i => ent i / 2 ^ 14 ≠ 0)
      || v / 2 ^ (64 + 16 * n) ≠ 0 || es.any (fun e => !e.inn && !e.out)
      || ins.length ≠ ins.eraseDups.length || outs.length ≠ outs.eraseDups.length || ins.contains 0 || outs.contains 0 then none
  else some es

/-- A map lies in a page of KIND normal. -/
def mapHome (h : Home) : Bool := h == .cached || h == .uncached || h == .core

/-- `wavego` (13 R266): the request leaves for the Tun, and the thread is crossed. The input queue holds 64 requests
(17 R360). -/
def execWavego (b : BitVec 5) (a : BitVec 5) (s : State) : Out :=
  gated (.wavego b a) s fun s k c ls =>
    unpoisonedAny s k c ls [a.toNat, b.toNat] <|
      let pc := ((c.lane 0).rx a.toNat).v
      let map := ((c.lane 0).rx b.toNat).v
      if pc.toNat % 4 ≠ 0 then s.trap k 0 pc c.nextPc ls
      else if map.toNat % 128 ≠ 0 then s.trap k 4 map c.nextPc ls
      else match s.pieces k 0 map 128 1 with
        | .fault cause va => s.trap k cause va c.nextPc ls
        | .miss va => s.startWalk k 0 va
        | .ok ps =>
          if ps.any fun p => !mapHome p.at_.home then s.trap k 5 map c.nextPc ls
          else
            let cl := clusterOf k
            let full := 64 ≤ (s.net.filter fun m => match m.body with
              | .tun _ d _ _ _ => d == cl
              | _ => false).length
            if c.cnt.ld ≠ 0 || c.cnt.mx ≠ 0 || s.loading c || full then s
            else releasing s k 3 <|
              (s.send (freeLane s) 0 (.tun c.uid cl pc map (encode (.wavego b a)))).modCtx k fun c => { c with crossed := true }

/-- The request of a crossed thread as its bin holds it: the thread's registers as they stand. -/
def Ctx.tunReq (c : Ctx) (clk : Nat) : TunReq :=
  { uid := c.uid, x := (c.lane 0).x, f := (c.lane 0).f, fcsr := (c.lane 0).fcsr, rank := c.rank, seed := c.csr.srseed,
    at_ := clk }

/-- The bin whose key matches a thread's request (17 R360). -/
def Cluster.matchBin (v : Cluster) (c : Ctx) (pc map : Word) : Option (Nat × Bin) :=
  (List.range 16).findSome? fun i =>
    match Tbl.get none v.bins i with
    | some b => if b.pc == pc && b.map == map && b.launch == c.launch && b.satp == c.csr.satp && b.mode == c.mode then some (i, b)
                else none
    | none => none

/-- The bin whose oldest request is oldest. -/
def Cluster.oldestBin (v : Cluster) : Option Nat :=
  ((List.range 16).foldl (fun (best : Option (Nat × Nat)) i =>
    match Tbl.get none v.bins i with
    | some b =>
      let t := (b.reqs.head?.map (·.at_)).getD 0
      (match best with
       | some (_, u) => if t < u then some (i, t) else best
       | none => some (i, t))
    | none => best) none).map (·.1)

/-- Put a request in a new bin, and launch it where it already meets the threshold. -/
def Cluster.newBin (v : Cluster) (i : Nat) (b : Bin) (clk : Nat) : Cluster :=
  { v with bins := Tbl.set none v.bins i (some b) }.launchDue clk

/-- The bin that a thread's first request to a key makes. -/
def Ctx.bin (c : Ctx) (pc map : Word) (es : List MapEnt) (clk : Nat) : Bin :=
  { pc := pc, map := map, launch := c.launch, launchNo := c.launchNo, satp := c.csr.satp, mode := c.mode, ents := es,
    reqs := [c.tunReq clk], frozen := false }

/-- A trap of a crossed thread at its `wavego`. -/
def State.tunTrap (s : State) (id k cause : Nat) (tval : Word) : State :=
  let s := (s.dropMsg id).modCtx k fun c => { c with crossed := false }
  s.trap k cause tval (s.ctx k).nextPc (s.ctx k).executing

/-- Read the map of a request at the Tun (07 R141): `none` while a walk runs or the line has an owner; an error is a cause and its
`tval`. The bytes of a poisoned or lost line are used as they stand (DESIGN CHOICE, L64). -/
def State.tunMap (s : State) (cl : Nat) (c : Ctx) (map : Word) (word : BitVec 32) : State × Option (Except (Nat × Word) (List MapEnt)) :=
  match s.engineXlat { who := .ctx c.uid, unit := cl * 128, tlb := none, satp := c.csr.satp, mode := c.dataMode,
                       sum := c.csr.mstatus.getLsbD 18, mxr := c.csr.mstatus.getLsbD 19 } 0 map with
  | (s, .wait) => (s, none)
  | (s, .fault cause) => (s, some (.error (cause, map)))
  | (s, .ok p) =>
    if !mapHome p.home then (s, some (.error (5, map)))
    else if p.home = .core && !(s.core (coreOf p.loc)).owners.isEmpty then (s, none)
    else s.inTurn (.ctx c.uid) p.loc true none <|
      let s := s.meets c.uid p.loc 128
      match readMap (s.value (s.canon p.loc) 128) with
      | some es => (s, some (.ok es))
      | none => (s, some (.error (2, BitVec.ofNat 64 (word.toNat + 0x10 * 2 ^ 32))))

/-- The IN registers of a request are present (15 R326): one that is absent in a resident thread is fetched first. -/
def State.tunRegs (s : State) (id uid : Nat) (es : List MapEnt) (go : State) : State :=
  match s.keyOf uid with
  | none => go
  | some j =>
    match (s.ctx j).firstAbsent [0] ((es.filter (·.inn)).map (·.sreg)) with
    | none => go
    | some (l, r) => if s.fetchFails j l r then s.tunTrap id j 31 (regMissTval false r) else s.registerMiss j l r [] []

/-- Place a request that matches no bin (17 R360): in a free bin, or in place of the bin that it displaces. -/
def State.tunNew (s : State) (id cl : Nat) (c : Ctx) (pc map : Word) (es : List MapEnt) : State :=
  let v := s.cluster cl
  let put := fun (v : Cluster) (i : Nat) => (s.dropMsg id).setCluster cl (v.newBin i (c.bin pc map es (s.clusterClk cl)) (s.clusterClk cl))
  match (List.range 16).find? fun i => Tbl.get none v.bins i == none with
  | some i => put v i
  | none =>
    match v.oldestBin with
    | none => s
    | some i =>
      let v := v.launchBin i
      if Tbl.get none v.bins i == none then put v i else s.setCluster cl v

/-- `TUN_REQUEST`: a crossing request reaches the Tun and is placed in a bin, or waits while its bin is frozen (17 R360). -/
def execTunRequest (k : Nat) (s : State) : Out :=
  .next (match s.msg k with
    | some m =>
      (match m.body with
       | .tun uid cl pc map word =>
         (match s.byUid uid with
          | none => s.dropMsg k
          | some c =>
            match (s.cluster cl).matchBin c pc map with
            | some (i, b) =>
              if b.frozen then s
              else s.tunRegs k uid b.ents <| (s.dropMsg k).setCluster cl
                ((s.cluster cl).newBin i { b with reqs := b.reqs ++ [c.tunReq (s.clusterClk cl)] } (s.clusterClk cl))
            | none =>
              match s.tunMap cl c map word with
              | (s, none) => s
              | (s, some (.ok es)) => s.tunRegs k uid es (s.tunNew k cl c pc map es)
              | (s, some (.error (cause, tval))) =>
                match s.keyOf uid with
                | some j => s.tunTrap k j cause tval
                | none => s)
       | _ => s)
    | none => s)

/-- `TUN_BIN_TIMEOUT`: a bin that has met its threshold or its timeout launches, and a frozen bin launches when room frees
(17 R360). -/
def execTunBinTimeout (cl bin : Nat) (s : State) : Out :=
  .next (match Tbl.get none (s.cluster cl).bins bin with
    | some b => if b.frozen || (s.cluster cl).binDue (s.clusterClk cl) b then s.setCluster cl ((s.cluster cl).launchBin bin) else s
    | none => s)

/-- `wflush` (13 R270). -/
def execWflush (a : BitVec 5) (s : State) : Out :=
  gated (.wflush a) s fun s k c ls =>
    leading s k c ls fun l =>
      leadUnpoisoned s k c ls a.toNat <|
        let pc := ((c.lane l).rx a.toNat).v
        let cl := clusterOf k
        let v := (List.range 16).foldl (fun (v : Cluster) i =>
          match Tbl.get none v.bins i with
          | some b => if a = 0#5 || b.pc == pc then v.launchBin i else v
          | none => v) (s.cluster cl)
        (s.setCluster cl v).retire k ls

/-- The lane of a gathered wave that a request takes (07 R140): the IN registers, the thread's `fcsr` and rank. -/
def Bin.lane (b : Bin) (r : TunReq) : Lane :=
  let src : Lane := { Lane.idle with x := r.x, f := r.f }
  (b.ents.filter (·.inn)).foldl (fun l e => l.setMapReg e.lreg (src.mapReg e.sreg))
    { Lane.idle with fcsr := r.fcsr, pc := b.pc, st := .runnable, origin := some r.uid, rank := r.rank }

/-- The engine slot for a gathered wave: of the active engines, the one with the fewest waves, its lowest free slot
(17 R361; 01 R14). -/
def State.gatherSlot (s : State) (cl : Nat) : Option Nat :=
  let engs := ((List.range 4).map fun i => cl * 128 + 64 + i).filter s.active
  let free := fun (u : Nat) => ((List.range 16).map (u * 32 + ·)).find? fun k => (s.ctx k).status == .vacant
  let n := fun (u : Nat) => (((List.range 16).map (u * 32 + ·)).filter fun k => (s.ctx k).status != .vacant).length
  (engs.foldl (fun (b : Option (Nat × Nat)) u =>
    match free u, b with
    | some k, none => some (n u, k)
    | some k, some (m, _) => if n u < m then some (n u, k) else b
    | none, _ => b) none).map (·.2)

/-- The gathered wave of a bin (13 R267; 17 R362). It has no crew, and its wave index reads 0 (DESIGN CHOICE, L63). -/
def State.gatherCtx (s : State) (cl : Nat) (b : Bin) : Ctx :=
  let ls := b.reqs.map b.lane
  let al := match b.launch with
    | some l => s.threadAlloc cl l
    | none => (0, 0)
  { Ctx.vacant with
    lanes := fillQuad (lanesOf ls) ls.length, mode := b.mode, gath := true, launch := b.launch, launchNo := b.launchNo,
    prio := ((b.launch.bind s.launch).map fun v => (bits 8 4 (v.words.getD 0 0)).toNat).getD 0,
    csr := { Csrs.reset with satp := b.satp, srseed := (b.reqs.head?.map (·.seed)).getD 0 }, allocBase := al.1,
    allocSize := al.2, ents := b.ents }

/-- `GATHERED_WAVE_PLACE`: the oldest gathered wave of a cluster takes a slot, after an acquire at `.pkg`; frozen bins may
then launch (13 R267; 17 R360, R361). -/
def execGatheredWavePlace (cl : Nat) (s : State) : Out :=
  .next (match (s.cluster cl).gathQ, s.gatherSlot cl with
    | b :: q, some k =>
      let v := { s.cluster cl with gathQ := q }
      let v := (List.range 16).foldl (fun (v : Cluster) i =>
        match Tbl.get none v.bins i with
        | some b => if b.frozen then v.launchBin i else v
        | none => v) v
      let (s, id) := (s.setCluster cl v).newCtxid
      (s.acquire (unitOf k) 3).placeCtx k { s.gatherCtx cl b with ctxid := id }
    | _, _ => s)

/-- Deliver the OUT registers of a lane to its thread, wherever it stands; the thread counts the `wavego` and the `wret` as one instruction
each (13 R268, R269; 10 R209). -/
def State.deliverLane (s : State) (ents : List MapEnt) (l : Lane) : State :=
  match l.origin with
  | none => s
  | some uid =>
    let s := s.modUid uid fun c =>
      let c := (c.modLane 0 fun t => (ents.filter (·.out)).foldl (fun t e => t.setMapReg e.sreg (l.mapReg e.lreg)) t).retire [0]
      { c with csr := { c.csr with instret := c.csr.instret + 1 }, crossed := false,
               absent := c.absent.filter fun e => !(ents.any fun m => m.out && m.sreg == e.1) }
    match s.keyOf uid with
    | some k => s.acquire (unitOf k) 3
    | none =>
      let s := (s.modUid uid fun c => { c with startAcq := some 3 }).syncArea uid
      (ents.filter (·.out)).foldl (fun s e => s.syncReg uid e.sreg (l.mapReg e.lreg)) s

/-- `wret` (13 R268): where its end releases parked lanes, it waits for the store queue as their `wsync` does (R271). -/
def execWret (s : State) : Out :=
  gated .wret s fun s k c ls =>
    if !(c.modLanes ls fun _ l => { l with st := .finished }).freed.isEmpty && s.storing k then s
    else releasing s k 3 <|
      let s := (c.workers ls).foldl (fun s l => s.deliverLane c.ents (c.lane l)) s
      s.modCtx k fun c =>
        let c := ((c.modLanes ls fun _ l => { l with st := .finished }).retireAt).releaseParks
        if c.unfinished.isEmpty then { c with status := .ending } else c

/-- `WAVE_RETIRE`: a wave that issues nothing more retires when its counters are 0: its accumulator slots are cleared, its
lines leave, and its crew's allocation is freed with its last wave (07 R127; 17 R353; 05 R95). -/
def execWaveRetire (p : Place) (s : State) : Out :=
  .next (
    let k := p.key
    let c := s.ctx k
    if c.status != .ending || c.flushWait || c.cnt.ld ≠ 0 || c.cnt.st ≠ 0 || c.cnt.mx ≠ 0 || s.loading c then s
    else match s.settleLines k with
      | some s => s
      | none =>
        let g := s.engine (unitOf k)
        let s := s.setEngine (unitOf k) { g with slots := g.slots.filter fun (e : Nat × Slot) => e.2.holder != some c.uid }
        (s.leave k).freeCrews)

/-! ## Votes and exchange -/

/-- A vote or ballot: the result over the contributing lanes, in every executing lane (13 R274). -/
def voteOp (i : Instr) (s : State) (a d : BitVec 5) (f : Ctx → List (Nat × Reg) → Word) : Out :=
  gated i s fun s k c ls =>
    let vs := (c.workers ls).map fun l => (l, (c.lane l).rx a.toNat)
    s.modCtx k fun x => (x.writeAll ls d.toNat (Reg.of (f c vs) (vs.any fun e => e.2.p))).retire ls

def execVoteAny (a d : BitVec 5) (s : State) : Out :=
  voteOp (.voteAny a d) s a d fun _ vs => boolWord (vs.any fun e => e.2.v != 0)

def execVoteAll (a d : BitVec 5) (s : State) : Out :=
  voteOp (.voteAll a d) s a d fun _ vs => boolWord (vs.all fun e => e.2.v != 0)

def execBallot (a d : BitVec 5) (s : State) : Out :=
  voteOp (.ballot a d) s a d fun c vs =>
    vs.foldl (fun (m : Word) (e : Nat × Reg) => if e.2.v != 0 then m ||| (1#64 <<< (if c.ganged then e.1 % 32 else e.1)) else m) 0

/-- The lane that an index names from a lane: within the half in a ganged pair (13 R265). -/
def Ctx.laneAt (c : Ctx) (l i : Nat) : Nat := if c.ganged then l / 32 * 32 + i % 32 else i % 64

/-- An exchange: lane `l` receives X[rs1] of lane `src l`, or its own where that lane is not executing (13 R275). `bad` marks a
poisoned index. -/
def exchange (i : Instr) (s : State) (a d : BitVec 5) (src : Ctx → Nat → Nat) (bad : Lane → Bool) : Out :=
  gated i s fun s k c ls =>
    s.modCtx k fun x => (x.modLanes ls fun n l =>
      let t := src c n
      let v := (c.lane (if ls.contains t then t else n)).rx a.toNat
      l.wx d.toNat (Reg.of v.v (v.p || bad (c.lane n)))).retire ls

def execShfl (b a d : BitVec 5) (s : State) : Out :=
  exchange (.shfl b a d) s a d (fun c n => c.laneAt n (((c.lane n).rx b.toNat).v.toNat % 64)) fun l => (l.rx b.toNat).p

def execShflXor (b a d : BitVec 5) (s : State) : Out :=
  exchange (.shflXor b a d) s a d (fun c n => c.laneAt n (n ^^^ (((c.lane n).rx b.toNat).v.toNat % 64))) fun l => (l.rx b.toNat).p

/-- `rdlane` (13 R275): one source lane for all, read as it stands, once its register is present and no load to it is under way (15 R326). With
helper lanes alone the spec names no index, and the value is free (L5). -/
def execRdlane (b a d : BitVec 5) (s : State) : Out :=
  gated (.rdlane b a d) s fun s k c ls =>
    match c.lead ls with
    | some l =>
      let i := (c.lane l).rx b.toNat
      let src := c.laneAt l (i.v.toNat % 64)
      let v := (c.lane src).rx a.toNat
      if Tbl.get false c.absent (src * 128 + a.toNat) then s.missIn k src a.toNat (c.workers ls)
      else if s.hazard c.uid [src] [a.toNat] then s
      else s.modCtx k fun x => (x.writeAll ls d.toNat (Reg.of v.v (v.p || i.p))).retire ls
    | none =>
      let (s, n) := s.draw
      s.modCtx k fun x => (x.writeAll ls d.toNat (Reg.of (Config.freeWord n) false)).retire ls

def execQuadSx (a d : BitVec 5) (s : State) : Out := exchange (.quadSx a d) s a d (fun _ n => n ^^^ 1) fun _ => false
def execQuadSy (a d : BitVec 5) (s : State) : Out := exchange (.quadSy a d) s a d (fun _ n => n ^^^ 2) fun _ => false
def execQuadSd (a d : BitVec 5) (s : State) : Out := exchange (.quadSd a d) s a d (fun _ n => n ^^^ 3) fun _ => false
def execQuadBc (i a d : BitVec 5) (s : State) : Out :=
  exchange (.quadBc i a d) s a d (fun _ n => n / 4 * 4 + i.toNat) fun _ => false

def execIshelper (d : BitVec 5) (s : State) : Out :=
  gated (.ishelper d) s fun s k c ls =>
    s.modCtx k fun x => (x.modLanes ls fun n l => l.wx d.toNat (Reg.of (boolWord (c.lane n).helper) false)).retire ls

/-! ## Geometry and short-vector accesses -/

/-- The ray of a lane: a group of seven f registers. -/
def Lane.ray (l : Lane) (a : BitVec 5) : List Reg := (span a.toNat 7).map l.rf

/-- `bxt` (13 R277, R278). -/
def execBxt (b a d : BitVec 5) (s : State) : Out :=
  gated (.bxt b a d) s fun s k c ls =>
    s.loadWith k c ls (s.xlatAligned k 0 4 c (c.requests ls b.toNat 0 24 4)) (fun l => .box d.toNat ((c.lane l).ray a)) false none

/-- `trt` (13 R277, R279). -/
def execTrt (b a d : BitVec 5) (s : State) : Out :=
  gated (.trt b a d) s fun s k c ls =>
    s.loadWith k c ls (s.xlatAligned k 0 4 c (c.requests ls b.toNat 0 36 4)) (fun l => .tri d.toNat ((c.lane l).ray a)) false none

/-- `vl.w` (13 R281). -/
def execVlW (i : BitVec 12) (a d : BitVec 5) (s : State) : Out :=
  gated (.vlW i a d) s fun s k c ls =>
    s.loadWith k c ls (s.xlatAligned k 0 4 c (c.requests ls a.toNat (sext i) 32 4)) (fun _ => .w d.toNat) false none

def Ctx.rw (c : Ctx) (r : Nat) : WReg := Tbl.get WReg.zero c.w r
def Ctx.ww (c : Ctx) (r : Nat) (v : WReg) : Ctx := { c with w := Tbl.set WReg.zero c.w r v }

/-- The poison of a w register's 32 bytes. -/
def WReg.bytePoison (w : WReg) : Nat := (List.range 8).foldl (fun m i => if w.p.getLsbD i then m + 15 * 2 ^ (4 * i) else m) 0

/-- `vs.w` (13 R281). -/
def execVsW (i : BitVec 7) (b a : BitVec 5) (j : BitVec 5) (s : State) : Out :=
  gated (.vsW i b a j) s fun s k c ls =>
    let w := c.rw b.toNat
    let sts : List LaneSt' := (c.requests ls a.toNat (storeOff i j) 32 4).map fun r =>
      { req := r, data := w.v.toNat, poison := w.bytePoison, file := 2, reg := b.toNat }
    s.storeWith k c ls sts (s.xlatAligned k 1 6 c (sts.map (·.req))) false false

/-! ## Short-vector arithmetic -/

/-- The elements of a w register under T: eight of 32 bits, or four of 64, with their poison. -/
def WReg.elems (w : WReg) (d : Bool) : List (Nat × Bool) :=
  if d then (List.range 4).map fun i => (w.v.toNat / 2 ^ (64 * i) % 2 ^ 64, w.p.getLsbD (2 * i) || w.p.getLsbD (2 * i + 1))
  else (List.range 8).map fun i => (w.v.toNat / 2 ^ (32 * i) % 2 ^ 32, w.p.getLsbD i)

def WReg.ofElems (d : Bool) (es : List (Nat × Bool)) : WReg :=
  let n := if d then 64 else 32
  { v := BitVec.ofNat 256 (es.zipIdx.foldl (fun t e => t + e.1.1 * 2 ^ (n * e.2)) 0),
    p := es.zipIdx.foldl (fun m e =>
      if e.1.2 then (if d then setBit (setBit m (2 * e.2) true) (2 * e.2 + 1) true else setBit m e.2 true) else m) 0 }

/-- An element-wise operation: results with their poison, and flags unless a source is poisoned (13 R282; 07 R129). -/
def vecOp (i : Instr) (s : State) (t : BitVec 1) (srcs : List (BitVec 5)) (d : BitVec 5)
    (f : Fmt → Rnd → List Nat → Nat × FFlags) : Out :=
  gated i s fun s k c ls =>
    let dbl := t = 1#1
    let es := srcs.map fun r => (c.rw r.toNat).elems dbl
    let rnd := rndOf (c.lane 0).frm
    let n := if dbl then 4 else 8
    let res := (List.range n).map fun j =>
      let a := es.map fun e => e.getD j (0, false)
      (f (fpFmt dbl) rnd (a.map (·.1)), a.any (·.2))
    let bad := es.any fun e => e.any (·.2)
    s.modCtx k fun c =>
      ((c.ww d.toNat (WReg.ofElems dbl (res.map fun r => (r.1.1, r.2)))).modLane 0 fun l =>
        l.accrue bad (res.foldl (fun g r => flagOr g r.1.2) 0)).retire ls

/-- Two operands of an element. -/
def two (f : Fmt) (a : List Nat) : Val × Val := (decodeFp f (a.getD 0 0), decodeFp f (a.getD 1 0))

def execVadd (t : BitVec 1) (b a d : BitVec 5) (s : State) : Out :=
  vecOp (.vadd t b a d) s t [a, b] d fun f r e => addVal f r (two f e).1 (two f e).2

def execVsub (t : BitVec 1) (b a d : BitVec 5) (s : State) : Out :=
  vecOp (.vsub t b a d) s t [a, b] d fun f r e => addVal f r (two f e).1 (two f e).2.negate

def execVmul (t : BitVec 1) (b a d : BitVec 5) (s : State) : Out :=
  vecOp (.vmul t b a d) s t [a, b] d fun f r e => mulVal f r (two f e).1 (two f e).2

def execVmin (t : BitVec 1) (b a d : BitVec 5) (s : State) : Out :=
  vecOp (.vmin t b a d) s t [a, b] d fun f _ e => minMaxFp f false (e.getD 0 0) (e.getD 1 0)

def execVmax (t : BitVec 1) (b a d : BitVec 5) (s : State) : Out :=
  vecOp (.vmax t b a d) s t [a, b] d fun f _ e => minMaxFp f true (e.getD 0 0) (e.getD 1 0)

def execVfma (c : BitVec 5) (t : BitVec 1) (b a d : BitVec 5) (s : State) : Out :=
  vecOp (.vfma c t b a d) s t [a, b, c] d fun f r e => fmaVal f r (two f e).1 (two f e).2 (decodeFp f (e.getD 2 0))

/-- `vbc` (13 R282): no rounding and no flags. -/
def execVbc (t : BitVec 1) (a d : BitVec 5) (s : State) : Out :=
  gated (.vbc t a d) s fun s k c ls =>
    let v := (c.lane 0).rf a.toNat
    let dbl := t = 1#1
    s.modCtx k fun c =>
      (c.ww d.toNat (WReg.ofElems dbl (List.replicate (if dbl then 4 else 8) (fpUnbox dbl v.v, v.p)))).retire ls

/-! ## Bitonic sort and merge -/

/-- A key and its value, with their poison. -/
structure KV where
  key : Nat
  val : Nat
  kp : Bool
  vp : Bool
  deriving DecidableEq, Repr

/-- The order of keys: unsigned, or the total order of FP32 with every NaN as one value at the top (13 R283). -/
def sortKey (fp : Bool) (k : Nat) : Int := if fp then (if isNan32 k then 2 ^ 32 else fpKey k) else k

/-- Insert after the keys that are not larger: the sort is stable. -/
def insertKV (fp : Bool) (e : KV) : List KV → List KV
  | [] => [e]
  | f :: r => if sortKey fp e.key < sortKey fp f.key then e :: f :: r else f :: insertKV fp e r

def sortKV (fp : Bool) (l : List KV) : List KV := l.foldl (fun t e => insertKV fp e t) []

/-- The pairs of two w registers, keys first. -/
def Ctx.pairsOf (c : Ctx) (r : Nat) : List KV :=
  let ks := (c.rw r).elems false
  let vs := (c.rw (r + 1)).elems false
  (List.range 8).map fun i =>
    { key := (ks.getD i (0, false)).1, val := (vs.getD i (0, false)).1, kp := (ks.getD i (0, false)).2,
      vp := (vs.getD i (0, false)).2 }

/-- Write sorted pairs, eight to a register pair; a poisoned input key poisons every element (07 R129). -/
def Ctx.putPairs (c : Ctx) (r : Nat) (l : List KV) (bad : Bool) : Ctx :=
  (List.range (l.length / 8)).foldl (fun c j =>
    let e := (l.drop (8 * j)).take 8
    (c.ww (r + 2 * j) (WReg.ofElems false (e.map fun x => (x.key, bad)))).ww (r + 2 * j + 1)
      (WReg.ofElems false (e.map fun x => (x.val, bad || x.vp)))) c

def execBsort (t : BitVec 1) (a d : BitVec 5) (s : State) : Out :=
  gated (.bsort t a d) s fun s k c ls =>
    let l := c.pairsOf a.toNat
    s.modCtx k fun c => (c.putPairs d.toNat (sortKV (t = 1#1) l) (l.any (·.kp))).retire ls

def execBmerge (t : BitVec 1) (b a d : BitVec 5) (s : State) : Out :=
  gated (.bmerge t b a d) s fun s k c ls =>
    let l := c.pairsOf a.toNat ++ c.pairsOf b.toNat
    s.modCtx k fun c => (c.putPairs d.toNat (sortKV (t = 1#1) l) (l.any (·.kp))).retire ls

end Sys2Proof.Machine
end

