-- ==== Sys2Proof/Machine/Dist.lean ====
section
/-! DEFINITION. The distributor: packets (17 R344 to R347), admission and placement (R348 to R352), pre-emption and the floor
share (R354), and the demotions of the spin detector (R357). -/
namespace Sys2Proof.Machine

/-! ## Packets -/

/-- A field of a packet (17 R345). -/
def Launch.w (v : Launch) (i lo len : Nat) : Nat := field (v.words.getD i 0).toNat lo len

def Launch.type (v : Launch) : Nat := v.w 0 0 4
def Launch.kind (v : Launch) : Nat := v.w 0 4 2
def Launch.cls (v : Launch) : Nat := v.w 0 6 2
def Launch.prio (v : Launch) : Nat := v.w 0 8 4
def Launch.light (v : Launch) : Bool := v.w 0 12 1 = 1
def Launch.ser (v : Launch) : Bool := v.w 0 13 1 = 1
def Launch.gang (v : Launch) : Bool := v.w 0 14 1 = 1
def Launch.nWaves (v : Launch) : Nat := v.w 0 16 6
def Launch.csram (v : Launch) : Nat := v.w 0 24 24
def Launch.crews (v : Launch) : Nat := v.w 1 0 32
def Launch.threads (v : Launch) : Nat := v.w 1 32 32
def Launch.rank0 (v : Launch) : Nat := v.w 4 0 32
def Launch.tsram (v : Launch) : Nat := v.w 10 8 24
def Launch.d (v : Launch) (i : Nat) : Word := v.words.getD i 0

/-- Dies that may hold work (17 R345). -/
def Launch.permits (v : Launch) (d : Nat) : Bool := v.w 10 0 4 = 0 || (v.words.getD 10 0).getLsbD d

/-- Reason 1 of 17 R346: reserved codes and fields, and counts that do not fit the KIND. -/
def Launch.malformed (v : Launch) : Bool :=
  v.kind = 3 || v.cls = 3 || v.w 0 15 1 ≠ 0 || v.w 0 22 2 ≠ 0 || v.w 0 48 16 ≠ 0 || v.w 4 32 32 ≠ 0 || v.w 6 33 31 ≠ 0
    || v.w 10 4 4 ≠ 0 || v.w 10 32 32 ≠ 0 || v.d 13 ≠ 0 || v.d 14 ≠ 0 || v.d 15 ≠ 0
    || (v.kind = 0 && (v.crews ≠ 0 || v.threads = 0)) || (v.kind = 1 && (v.threads ≠ 0 || v.crews = 0))
    || (v.kind = 2 && (v.threads = 0 || v.crews = 0))

/-- Reason 2: a count out of range, or an absent die. -/
def Launch.outOfRange (v : Launch) (dies : Nat) : Bool :=
  (v.kind ≠ 0 && (v.nWaves = 0 || 32 < v.nWaves)) || 0x800000 < v.csram || 0x800000 < v.tsram || 65535 < v.crews
    || (List.range 4).any fun d => dies ≤ d && (v.words.getD 10 0).getLsbD d

/-- Reason 6: a misaligned entry PC, SIGADDR or table base. -/
def Launch.misaligned (v : Launch) : Bool :=
  (v.kind ≠ 0 && (v.d 2).toNat % 4 ≠ 0) || (v.kind ≠ 1 && (v.d 3).toNat % 4 ≠ 0) || (v.d 11).toNat % 8 ≠ 0
    || (v.w 6 0 33 ≠ 0 && (v.d 5).toNat % 128 ≠ 0)

/-- The reasons that the packet alone decides; 0 for none. -/
def Launch.reason (v : Launch) (dies pcap : Nat) : Nat :=
  if v.type = 2 then
    (if v.words.zipIdx.any fun e => e.2 ≠ 11 && e.2 ≠ 12 && e.1.toNat / (if e.2 = 0 then 16 else 1) ≠ 0 then 1
     else if (v.d 11).toNat % 8 ≠ 0 then 6 else 0)
  else if 2 < v.type || v.malformed then 1
  else if v.outOfRange dies then 2
  else if pcap < v.prio then 3
  else if v.misaligned then 6
  else 0

/-- After a queue's signal has been written its MSI-X vector goes, where the host has it unmasked (19 R392). The host masks vectors as it
likes (DESIGN CHOICE, L73). -/
def State.msix (s : State) (q : Nat) : State :=
  let (s, n) := s.draw
  let g := s.mgmt
  if Config.vectorMasked n then { s with mgmt := { g with msixMask := g.msixMask.filter (· != q) ++ [q] } }
  else { s with mgmt := { g with msixMask := g.msixMask.filter (· != q), msixSent := g.msixSent ++ [q] } }

/-- Write a completion signal of a queue (17 R347): an 8-byte store with no translation. A place that may not be written, a lost line and
an error on the host port discard it, with a record of SRC 10 and no vector. Whether it is over: it waits while an L1 owns the line. -/
def State.signal (s : State) (q : Nat) (a : Word) (v : Word) : State × Bool :=
  let pa := a.toNat
  let bad := s.mcRecord 10 5 pa 0 0
  if pa = 0 then (s, true)
  else if pa % 8 ≠ 0 || !(isHbm s.dies pa || isHost pa) then (bad, true)
  else if isHost pa && s.mgmt.hostFails then ({ bad with mgmt := { bad.mgmt with hostFails := false } }, true)
  else if !isHost pa && s.mark (pa / 128) == .lost then (bad, true)
  else
    let put := (((if !isHost pa && s.inRedWindow pa then s.resetAccs pa 8 else s.putValue pa 8 v.toNat false)).msix q, true)
    if isHost pa then put else s.inTurn (.queue q) pa false false put

/-- The packet at the head of a queue is done with (17 R344). -/
def State.advance (s : State) (q : Nat) : State := s.setQueue q { s.queue q with head := (s.queue q).head + 1 }

/-- The packet that the distributor holds at the head of a queue. -/
def State.headPacket (s : State) (q : Nat) : Option (Nat × Launch) :=
  s.launches.findSome? fun e =>
    match e.2 with
    | some v => if v.queue = q && !v.admitted then some (e.1, v) else none
    | none => none

/-- The launches of a queue that are admitted and have not completed. -/
def State.running (s : State) (q : Nat) : Bool :=
  s.launches.any fun e =>
    match e.2 with
    | some v => v.queue = q && v.admitted
    | none => false

/-- Reject a packet: the reason goes to SIGADDR, and HEAD advances (17 R346). -/
def State.reject (s : State) (l : Nat) (v : Launch) (reason : Nat) : State :=
  match s.signal v.queue (v.d 11) (BitVec.ofNat 64 (2 ^ 63 + reason)) with
  | (s, false) => s
  | (s, true) => (s.setLaunch l none).advance v.queue

/-- The place of the head packet in its ring. -/
def CmdQueue.slot (r : CmdQueue) : Nat :=
  (bits 12 40 r.base).toNat * 4096 + r.head.toNat % 2 ^ (bits 1 4 r.ctl).toNat * 128

/-- `PACKET_READ`: the distributor reads the head packet of an enabled queue (17 R344). A no-operation packet only advances
HEAD; a packet that its own fields condemn is rejected. -/
def execPacketRead (q : Nat) (s : State) : Out :=
  .next (
    let r := s.queue q
    let a := r.slot
    if 256 ≤ q || !s.mgmt.bootst.getLsbD 4 || !r.ctl.getLsbD 0 || r.head == r.tail || (s.headPacket q).isSome
      || !(isHbm s.dies a || isHost a) then s
    else (if isHost a then id else s.atTurn (.queue q) a true) <|
        let v : Launch :=
          { queue := q, index := r.head, words := (List.range 16).map fun i => BitVec.ofNat 64 (s.value (a + 8 * i) 8),
            admitted := false, marker := false, number := 0, rtBase := 0, rtCount := 0, crewsPlaced := 0, lastClu := 2 ^ 20,
            threadsPlaced := 0, order := 0, saved := false, savedAt := 0, floorEnd := none, vacated := 0,
            cancelled := false }
        let v := { v with marker := v.type = 2 }
        if v.type = 0 then s.advance q
        else
          let reason := v.reason s.dies (bits 5 4 r.ctl).toNat
          if reason ≠ 0 then s.reject s.nextId v reason
          else
            let (s, n) := s.draw
            { s with nextId := s.nextId + 1 }.setLaunch s.nextId (some { v with cancelled := Config.cancelled n }))

/-- `MARKER_SIGNAL`: a marker signals once every earlier launch of its queue has completed (17 R345). -/
def execMarkerSignal (q : Nat) (s : State) : Out :=
  .next (match s.headPacket q with
    | some (l, v) =>
      if !v.marker || s.running q then s
      else (match s.signal q (v.d 11) (v.d 12) with
        | (s, false) => s
        | (s, true) => (s.setLaunch l none).advance q)
    | none => s)

/-! ## Capacity -/

/-- The clusters of a package that stand, in (die, cluster) order (01 R14). -/
def State.clusterList (s : State) : List Nat :=
  (List.range (16 * s.dies)).filter fun c => s.clusterStands c && !s.mgmt.moving.any fun e => e.1 == 2 ^ 21 + c

/-- The permitted cores in (die, cluster, core) order. -/
def State.coreList (s : State) (v : Launch) : List Nat :=
  (s.clusterList.filter fun c => v.permits (c / 16)).flatMap fun c =>
    ((List.range 64).map (c * 128 + ·)).filter s.active

/-- The light context that a message carries. -/
def Body.light? : Body → Option Light
  | .transit _ l _ => some l
  | .tagged r =>
    match r.cargo with
    | .light l _ => some l
    | _ => none
  | _ => none

/-- The save areas in use: their locations. A light context keeps its area while it waits at a core or is on its way (18 R382). -/
def State.areasUsed (s : State) : List Nat :=
  (s.ctxs.filterMap fun e => e.2.area) ++ (s.saved.filterMap fun e => e.2.area)
    ++ (s.cores.flatMap fun e => e.2.arrivals.filterMap (·.area)) ++ s.net.filterMap fun m => m.body.light?.bind (·.area)

/-- Granule `g` of a cluster's SRAM holds no allocation and no save area. -/
def State.granuleFree (s : State) (cl g : Nat) : Bool :=
  !(s.cluster cl).allocs.any (fun a => a.base / 65536 ≤ g && g < (a.base + a.size + 65535) / 65536)
    && !s.areasUsed.any fun a => a / 65536 == (windowLoc cl 0 0) / 65536 + g

/-- The granules that a cluster does not reserve (17 R355). -/
def State.granules (s : State) (cl : Nat) : Nat := 128 - (bits 0 8 (s.cluster cl).clsres).toNat

/-- The lowest free run of `n` granules of a cluster. -/
def State.freeRun (s : State) (cl n : Nat) : Option Nat :=
  ((List.range 128).find? fun g =>
    g + n ≤ s.granules cl && (List.range n).all fun i => s.granuleFree cl (g + i)).map (· * 65536)

/-- Give an allocation of some bytes (05 R95): the base and the size, a multiple of 128; nothing for 0 bytes. A crew's granules are
cleared. -/
def State.allocate (s : State) (cl bytes l : Nat) (crew : Option Nat) : Option (State × Nat × Nat) :=
  let n := (bytes + 65535) / 65536
  if bytes = 0 then some (s, 0, 0)
  else
    let size := (bytes + 127) / 128 * 128
    (s.freeRun cl n).map fun b =>
      let s := s.setCluster cl { s.cluster cl with
        allocs := (s.cluster cl).allocs ++ [{ base := b, size := size, launch := l, crew := crew }] }
      (if crew.isSome then s.clearBytes (windowLoc cl b 0) (n * 65536) else s, b, size)

/-! ## Placing units -/

/-- The lowest free crew slot of the engines of a cluster, from engine `e` upwards, wrapping (17 R350). -/
def State.crewSlot (s : State) (cl e : Nat) : Option Nat :=
  [e % 4, (e + 1) % 4, (e + 2) % 4, (e + 3) % 4].findSome? fun n =>
    let u := cl * 128 + 64 + n
    if s.active u then ((List.range 14).map (u * 32 + ·)).find? fun k => (s.ctx k).status == .vacant else none

/-- Place the waves of a crew from wave `w` up (17 R350, R352). -/
def State.placeWaves (s : State) (cl l : Nat) (v : Launch) (crew base size : Nat) : Nat → Option State
  | 0 => some s
  | n + 1 =>
    let w := v.nWaves - (n + 1)
    match s.crewSlot cl w with
    | none => none
    | some k =>
      let ln := Lane.start (v.d 2) [(10, Reg.of (v.d 8) false), (11, Reg.of (BitVec.ofNat 64 crew) false)]
      let lanes : Tbl Lane := (List.range 64).map fun i => (i, { ln with st := .runnable })
      let (s, id) := s.newCtxid
      let c : Ctx := { Ctx.vacant with
        lanes := lanes, launch := some l, launchNo := v.number, prio := v.prio, crew := some crew, waveIdx := w,
        waves := v.nWaves, ganged := v.gang, ctxid := id, allocBase := base, allocSize := size,
        csr := { Csrs.reset with satp := v.satp, srseed := v.d 9 } }
      ((s.acquire (unitOf k) 3).placeCtx k c).placeWaves cl l v crew base size n

/-- Place the next crew of a launch: the first cluster after that of the crew before it which has the granules and the
slots. -/
def State.placeCrew (s : State) (l : Nat) (v : Launch) : Option State :=
  let ok := s.clusterList.filter fun c => v.permits (c / 16)
  ((ok.filter (v.lastClu < ·)) ++ ok.filter (· ≤ v.lastClu)).findSome? fun cl =>
    match s.allocate cl v.csram l (some v.crewsPlaced) with
    | none => none
    | some (s, base, size) =>
      (s.placeWaves cl l v v.crewsPlaced base size v.nWaves).map fun s =>
        s.setLaunch l (some { v with crewsPlaced := v.crewsPlaced + 1, lastClu := cl })

/-- The coordinate of thread i: its core, and its thread set where the first four rounds name one. -/
def State.threadHome (s : State) (v : Launch) (i : Nat) : Option (Nat × Option Nat) :=
  let cs := s.coreList v
  if cs.isEmpty then none
  else some (cs.getD (i % cs.length) 0, if i / cs.length < 4 then some (i / cs.length) else none)

/-- The first state of a scalar thread (17 R352). -/
def State.startThread (s : State) (k l : Nat) (v : Launch) (i : Nat) : State :=
  let c := s.scalarCtx k l (Lane.start (v.d 3) [(10, Reg.of (v.d 8) false), (11, Reg.of (BitVec.ofNat 64 i) false)])
  let rank := BitVec.ofNat 32 (v.rank0 + i)
  let (s, id) := if v.light then (s, lightId v.number rank) else s.newCtxid
  (s.acquire (unitOf k) 3).placeCtx k
    { c with light := v.light, rank := some rank, ctxid := id, csr := { c.csr with srseed := v.d 9 } }

/-- Place the next thread of a launch (17 R350): in its set, or, past four threads to a core, in a set that falls free, which its entry
then names unless it is light (12 R239), or in an arrival place for a light one. -/
def State.placeThread (s : State) (l : Nat) (v : Launch) : Option State :=
  let i := v.threadsPlaced
  let v' := { v with threadsPlaced := i + 1 }
  match s.threadHome v i with
  | none => none
  | some (u, some set) =>
    if (s.ctx (u * 32 + set)).status == .vacant then some ((s.setLaunch l (some v')).startThread (u * 32 + set) l v i)
    else none
  | some (u, none) =>
    match s.freeSet u with
    | some k =>
      let s := s.setLaunch l (some v')
      let s := s.startThread k l v i
      some (if v.light then s else s.changeEntry k u l (v.rank0 + i) 0 (.put (mkEntry 1 false s.ownPkg u (k % 32))))
    | none =>
      if v.light && (s.core u).arrivals.length < 256 then
        let x : Light := { a := [(0, Reg.of (v.d 8) false), (1, Reg.of (BitVec.ofNat 64 i) false)].filter (·.2 != Reg.zero),
                           pc := v.d 3, rank := BitVec.ofNat 32 (v.rank0 + i), launchNo := v.number, launch := l, seed := v.d 9,
                           mcPend := none, uPend := [], preempt := false, area := none }
        some ((s.setLaunch l (some v')).setCore u { s.core u with arrivals := (s.core u).arrivals ++ [x] })
      else none

/-- Place units while they fit, crews and threads each in index order; `fuel` bounds the number. -/
def State.placeAll (s : State) (l : Nat) : Nat → State
  | 0 => s
  | fuel + 1 =>
    match s.launch l with
    | none => s
    | some v =>
      match (if v.crewsPlaced < v.crews then s.placeCrew l v else none) with
      | some s => s.placeAll l fuel
      | none =>
        match (if v.threadsPlaced < v.threads then s.placeThread l v else none) with
        | some s => s.placeAll l fuel
        | none => s

/-- Every unit of a launch has a place. -/
def Launch.placed (v : Launch) : Bool := v.crewsPlaced = v.crews && v.threadsPlaced = v.threads

/-! ## Admission -/

/-- The thread allocations of a launch (17 R351): one on every cluster of its permitted dies. -/
def State.threadAllocs (s : State) (l : Nat) (v : Launch) : Option State :=
  if v.tsram = 0 || v.kind = 1 then some s
  else (s.clusterList.filter fun c => v.permits (c / 16)).foldl (fun (s : Option State) cl =>
    s.bind fun s => (s.allocate cl v.tsram l none).map (·.1)) (some s)

/-- The rank table of an admitted launch, as `rtab.set` would install it (17 R349). -/
def State.installTable (s : State) (l : Nat) (v : Launch) : State :=
  let n := v.w 6 0 33
  (s.dropRanks l).setLaunch l (some { v with rtBase := if n = 0 then 0 else v.d 5, rtCount := n })

/-- Reason 8 of 17 R346 for the table itself; none while the walk of its base runs. The distributor translates as the rank lookups of
unit 0 do. -/
def State.tableBad (s : State) (l : Nat) (v : Launch) : State × Option Bool :=
  if v.w 6 0 33 = 0 then (s, some false)
  else if 2 ^ 32 < v.w 6 0 33 then (s, some true)
  else match s.engineXlat { who := .launch l, unit := 0, tlb := none, satp := v.satp, mode := .s, sum := true, mxr := false } 0 (v.d 5) with
    | (s, .wait) => (s, none)
    | (s, .fault _) => (s, some true)
    | (s, .ok p) => (s, some (!isHbm s.dies p.loc || p.home = .future || p.home = .reduction))

/-- What the entries of a launch's ranks come to: a wait for a walk or an owned line, a reason (8 or 4), or their places. -/
inductive RanksAt where
  | wait
  | bad (reason : Nat)
  | at_ (places : List Nat)
  deriving DecidableEq, Repr

/-- Two ranks of one launch: a wait stands over a reason, and reason 8 over 4 (17 R346). -/
def RanksAt.and (a b : RanksAt) : RanksAt :=
  match a, b with
  | .wait, _ => .wait
  | _, .wait => .wait
  | .bad m, .bad n => .bad (max m n)
  | .bad m, .at_ _ => .bad m
  | .at_ _, .bad n => .bad n
  | .at_ x, .at_ y => .at_ (x ++ y)

/-- The entry of one rank at admission: it must translate for the claim, and be vacant, of the launch's kind (17 R346, R349). -/
def State.rankCheck (s : State) (q l rank : Nat) (light : Bool) : State × RanksAt :=
  if !s.rankIn l rank then (s, .bad 4)
  else match s.rankAddr 0 l rank 1 with
    | (s, .wait) => (s, .wait)
    | (s, .fault _ _) => (s, .bad 8)
    | (s, .at_ a) =>
      if !s.mayAct (.queue q) a then (s.askLine (.queue q) a false, .wait)
      else
        let e := s.value a 8
        (s, if s.entryPresent e && entryState e = 0 && entryLight e == light then .at_ [a] else .bad 4)

def State.ranksCheck (s : State) (l : Nat) (v : Launch) : State × RanksAt :=
  (List.range v.threads).foldl (fun (t : State × RanksAt) i =>
    let (s, r) := t.1.rankCheck v.queue l (v.rank0 + i) v.light
    (s, t.2.and r)) (s, .at_ [])

/-- Claim the ranks of the threads: STATE 1 and each thread's coordinate, with the set of one that is not light (17 R349; 12 R239). The
claims are one step with the admission, before any context of the launch issues (12 R240). -/
def State.claimRanks (s : State) (v : Launch) (places : List Nat) : State :=
  places.zipIdx.foldl (fun s e =>
    match s.threadHome v e.2 with
    | none => s
    | some (u, set) => s.putValue e.1 8 (mkEntry 1 v.light s.ownPkg u (if v.light then 0 else set.getD 0)) false) s

/-- The number of units of a launch. -/
def Launch.units (v : Launch) : Nat := v.crews + v.threads

/-- Admit a launch and place what fits: `none` where its class does not let it in (17 R348). -/
def State.tryAdmit (s : State) (l : Nat) (v : Launch) (places : List Nat) : Option State :=
  let n := s.launchNo + 1
  let w := { v with admitted := true, number := n, order := s.nextId }
  match ({ s with launchNo := n, nextId := s.nextId + 1 }.installTable l w).threadAllocs l w with
  | none => none
  | some s =>
    let s := (s.claimRanks w places).placeAll l (w.units + 1)
    match s.launch l with
    | none => none
    | some x =>
      let waiting := s.cores.any fun e => e.2.arrivals.any fun a => a.launch == l
      if v.cls = 0 then (if x.placed && !waiting then some s else none)
      else if x.crewsPlaced + x.threadsPlaced = 0 then none
      else some s

/-- The package with no work in it, for reason 5. -/
def State.emptied (s : State) : State :=
  { s with ctxs := s.ctxs.filter fun e => isHandler e.1, saved := [], cores := [],
           clusters := s.clusters.map fun (e : Nat × Cluster) => (e.1, { e.2 with allocs := [] }) }

/-- What admission makes of a head packet: it must wait for room, it waits for a translation or a line, it is rejected or admitted. -/
inductive Verdict where
  | noRoom
  | waits
  | rejected
  | admitted
  deriving DecidableEq, Repr

/-- A head packet whose table stands: reasons 4, 8 and 5, or the admission, with the entries that the check found (17 R346, R349). -/
def State.considerRanks (s : State) (l : Nat) (v : Launch) : State × Verdict :=
  match (s.installTable l v).ranksCheck l v with
  | (t, .wait) => (t.setLaunch l (some v), .waits)
  | (t, .bad r) => ((t.setLaunch l (some v)).reject l v r, .rejected)
  | (t, .at_ places) =>
    let t := t.setLaunch l (some v)
    if v.cls = 0 && (t.emptied.tryAdmit l v places).isNone then (t.reject l v 5, .rejected)
    else match t.tryAdmit l v places with
      | some t => ({ t.advance v.queue with queueRr := v.queue }, .admitted)
      | none => (s, .noRoom)

/-- Consider the head packet of a queue (17 R346, R349). -/
def State.consider (s : State) (l : Nat) (v : Launch) : State × Verdict :=
  if v.marker then (s, .noRoom)
  else if v.cancelled then (s.reject l v 7, .rejected)
  else if v.ser && s.running v.queue then (s, .noRoom)
  else match s.tableBad l v with
    | (s, none) => (s, .waits)
    | (s, some true) => (s.reject l v 8, .rejected)
    | (s, some false) => s.considerRanks l v

/-- The head packets in the order in which the distributor takes them: by PRIO, then round robin after the queue served last
(17 R349). -/
def insertHead (rr : Nat) (e : Nat × Launch) : List (Nat × Launch) → List (Nat × Launch)
  | [] => [e]
  | f :: r =>
    let turn := fun (q : Nat) => (q + 255 - rr) % 256
    if f.2.prio < e.2.prio || (f.2.prio = e.2.prio && turn e.2.queue < turn f.2.queue) then e :: f :: r
    else f :: insertHead rr e r

def State.heads (s : State) : List (Nat × Launch) :=
  (s.launches.filterMap fun e =>
    match e.2 with
    | some v => if !v.admitted && !v.marker && (s.queue v.queue).ctl.getLsbD 0 then some (e.1, v) else none
    | none => none).foldl (fun l e => insertHead s.queueRr e l) []

/-- A launch is in a floor slice (17 R354). -/
def Launch.inFloor (v : Launch) (clk : Nat) : Bool := v.floorEnd.any fun t => clk < t

/-- A concurrent launch is to come back for its floor slice: the room that is made for it goes to nothing else (17 R354). -/
def State.floorWaits (s : State) : Bool := s.launches.any fun e =>
  match e.2 with
  | some v => v.cls = 0 && v.inFloor s.clk && s.saved.any fun x => x.2.launch == some e.1
  | none => false

/-- `LAUNCH_ADMISSION`: the first head packet that has no want of room is admitted, or rejected, or waits for its rank table (17 R346
to R350). -/
def execLaunchAdmission (s : State) : Out :=
  .next (if s.floorWaits then s else (s.heads.findSome? fun e =>
    match s.consider e.1 e.2 with
    | (_, .noRoom) => none
    | (t, _) => some (t.passAll (.queue e.2.queue))).getD s)

/-- Waiting light contexts take the vacant sets of their cores (12 R258). -/
def State.takeLights (s : State) : State :=
  (s.cores.filter fun e => !e.2.arrivals.isEmpty).foldl (fun s e =>
    [0, 1, 2, 3].foldl (fun s i => s.takeLight (e.1 * 32 + i)) s) s

/-- `UNIT_PLACEMENT`: waiting crews and threads of a launch take the room that has fallen free (17 R350). -/
def execUnitPlacement (launch : Nat) (s : State) : Out :=
  .next (match s.launch launch with
    | some v => if v.admitted && !v.saved && !s.floorWaits then s.takeLights.placeAll launch (v.units + 1) else s
    | none => s)

/-! ## Completion -/

/-- A message in flight works for a launch: its table, a message, a context or a codelet. -/
def Body.ofLaunch (b : Body) (l : Nat) : Bool :=
  match b with
  | .heldMsg r => r.launch == l
  | .transit _ x _ => x.launch == l
  | .entry _ _ m _ _ _ => m == l
  | .tagged r => r.launch == l && (r.carries || r.op == .carm || r.op == .cdec)
  | _ => false

/-- A context of a launch, or a task of its ranks, that is not over. -/
def Ctx.worksFor (c : Ctx) (k l : Nat) : Bool :=
  c.status != .vacant && c.launch == some l && (!isHandler k || c.task.isSome || c.aborted.isSome)

/-- Every thread, wave, task and transfer of a launch is over (17 R347). -/
def State.launchDone (s : State) (l : Nat) (v : Launch) : Bool :=
  v.admitted && v.placed && !s.ctxs.any (fun e => e.2.worksFor e.1 l)
    && !s.saved.any (fun e => e.2.status != .vacant && e.2.launch == some l)
    && !s.cores.any (fun e => e.2.arrivals.any (·.launch == l) || e.2.inq.any (·.launch == l) || e.2.ring.any (·.launch == l)
         || e.2.owners.any fun r => r.launch == l && (r.op == .carm || r.op == .cdec))
    && !s.clusters.any (fun e => e.2.gathQ.any (·.launch == some l)
         || e.2.bins.any fun b => (b.2.map fun x => x.launch == some l).getD false)
    && !s.net.any (fun m => m.body.ofLaunch l)
    && !s.xfers.any fun e => match e.2 with
         | some t => t.launch == some l && t.state < 2
         | none => false

/-- Free what a launch held: its allocations with their seals, and the cached entries of its ranks. -/
def State.freeLaunch (s : State) (l : Nat) : State :=
  let s := s.dropRanks l
  { s with clusters := s.clusters.map fun (e : Nat × Cluster) =>
      let gone := e.2.allocs.filter fun a => a.launch == l
      (e.1, { e.2 with allocs := e.2.allocs.filter fun a => a.launch != l,
                       seals := e.2.seals.filter fun v => !(gone.any fun a => a.base == v.alloc) }) }

/-- The Dirty lines of the handler sets, which end no context of their own: the distributor's release covers what tasks of the
launch stored (17 R347). A thread or wave writes its lines back where it ends. -/
def State.handlerLines (s : State) : List (Nat × L1Line) :=
  s.l1d.flatMap fun (e : Nat × List L1Line) =>
    (e.2.filter fun l => e.1 % 128 < 64 && l.st == .dirty && l.tag == (s.ctx (e.1 * 32 + 4)).tagEnt).map fun l => (e.1, l)

/-- No store of a handler set is queued or in flight. -/
def State.handlersWritten (s : State) : Bool :=
  s.storeQ.all (fun (e : Nat × List SqEnt) => e.2.all fun q => q.uid != (s.ctx (e.1 * 32 + 4)).uid || 64 ≤ e.1 % 128)
    && s.ctxs.all fun (e : Nat × Ctx) =>
      !isHandler e.1 || s.inFlight.all fun m => !s.relMsg e.2.uid (dieOf e.1) 5 m

/-- Make the ranks of a completing launch vacant, in order, as far as their entries can be changed now (17 R347). -/
def State.vacateRanks (s : State) (l : Nat) : Nat → State
  | 0 => s
  | fuel + 1 =>
    match s.launch l with
    | none => s
    | some v =>
      if v.threads ≤ v.vacated then s
      else match s.entryStep (.queue v.queue) none 0 l (v.rank0 + v.vacated) 0 .vacate with
        | (s, false) => s
        | (s, true) => (s.setLaunch l (some { v with vacated := v.vacated + 1 })).vacateRanks l fuel

/-- The last act of a launch: its signal, and the queue's MSI-X vector where it is unmasked (17 R347; 19 R392). -/
def State.signalEnd (s : State) (l : Nat) (v : Launch) : State :=
  match (s.freeLaunch l).signal v.queue (v.d 11) (v.d 12) with
  | (s, false) => s
  | (s, true) => s.setLaunch l none

/-- `LAUNCH_COMPLETION`: the ranks become vacant, allocations are freed, SIGVAL is written, and the queue's MSI-X vector goes
if it is unmasked (17 R347; 19 R392). -/
def execLaunchCompletion (launch : Nat) (s : State) : Out :=
  .next (match s.launch launch with
    | some v =>
      if !s.launchDone launch v then s
      else if !s.handlerLines.isEmpty then
        s.handlerLines.foldl (fun (s : State) e =>
          (s.sendBack e.1 e.2 0 none).afterWriteBack e.1 e.2) s
      else if !s.handlersWritten then s
      else if v.vacated < v.threads then s.vacateRanks launch v.threads
      else s.signalEnd launch v
    | none => s)

/-! ## Pre-emption -/

/-- A resident thread or crew wave of a launch: part of a unit of progress. A gathered wave is none, and runs on when its launch is
pre-empted (17 R348, R364). -/
def Ctx.unitOfLaunch (c : Ctx) (k l : Nat) : Bool := c.status == .resident && !isHandler k && !c.gath && c.launch == some l

/-- Ask for the save of every unit of a launch. -/
def State.askLaunch (s : State) (l : Nat) : State :=
  let s := { s with ctxs := s.ctxs.map fun (e : Nat × Ctx) => (e.1, if e.2.unitOfLaunch e.1 l then e.2.ask else e.2) }
  match s.launch l with
  | some v => s.setLaunch l (some { v with saved := true, savedAt := s.clk, floorEnd := none })
  | none => s

/-- An admitted launch that has resident units and may be pre-empted: it is not being saved, nor in its floor slice. -/
def State.mayGo (s : State) (l : Nat) (v : Launch) : Bool :=
  v.admitted && !v.saved && !v.inFloor s.clk && s.ctxs.any fun c => c.2.unitOfLaunch c.1 l

/-- Insert a launch in the order of 17 R354: the lowest PRIO first, then the latest admitted. -/
def insertVictim (e : Nat × Launch) : List (Nat × Launch) → List (Nat × Launch)
  | [] => [e]
  | f :: r =>
    if e.2.prio < f.2.prio || (e.2.prio = f.2.prio && f.2.order < e.2.order) then e :: f :: r else f :: insertVictim e r

/-- The launches other than one that may be pre-empted under a condition, the first victims first (17 R354). -/
def State.victims (s : State) (not : Nat) (ok : Launch → Bool) : List Nat :=
  ((s.launches.filterMap fun e =>
    match e.2 with
    | some v => if e.1 ≠ not && ok v && s.mayGo e.1 v then some (e.1, v) else none
    | none => none).foldr insertVictim []).map (·.1)

/-- The package without the units of a launch. -/
def State.without (s : State) (l : Nat) : State :=
  { s with ctxs := s.ctxs.filter fun e => !e.2.unitOfLaunch e.1 l }

/-- The package without the contexts that are asked to go already. -/
def State.departing (s : State) : State :=
  { s with ctxs := s.ctxs.filter fun e => !(e.2.preempt && !isHandler e.1) }

/-- A place that a saved context may resume at (18 R384, R385): its cluster, the engine that holds its slots, a slot that is
open to it. -/
def State.fits (s : State) (c : Ctx) (k : Nat) : Bool :=
  let u := unitOf k
  let holds := s.engines.find? fun e => e.2.slots.any fun x => x.2.holder == some c.uid
  (s.ctx k).status == .vacant && s.working u && clusterOfUnit u == clusterOfUnit c.tagUnit && c.savedWave == isWave k
    && (if isWave k then k % 32 < (if c.crew.isSome then 14 else 16) else k % 32 < 4)
    && (match holds with
        | some e => e.1 == u
        | none => true)

/-- The places of a cluster. -/
def placesOf (cl : Nat) : List Nat :=
  (List.range 64).flatMap (fun i => [0, 1, 2, 3].map ((cl * 128 + i) * 32 + ·)) ++ waveSlots cl

/-- Every saved unit of a launch fits at once. -/
def State.allFit (s : State) (l : Nat) : Bool :=
  ((s.saved.filter fun e => e.2.launch == some l).foldl (fun (t : Option State) e =>
    t.bind fun s =>
      ((placesOf (clusterOfUnit e.2.tagUnit)).find? fun k => s.fits e.2 k).map fun k => s.setCtx k e.2) (some s)).isSome

/-- The launch waits for room: a head packet, or an admitted launch with saved or unplaced units. -/
def State.wantsRoom (s : State) (l : Nat) (v : Launch) : Bool :=
  if v.admitted then !v.placed || s.saved.any fun e => e.2.launch == some l
  else s.heads.any fun e => e.1 == l

/-- A launch that wants room goes on in a state: it is admitted, its saved units fit, all of them where it is concurrent, or its next
unit has a place (17 R348, R354). -/
def State.goesOn (s : State) (l : Nat) (v : Launch) : Bool :=
  if !v.admitted then (s.consider l v).2 == .admitted
  else if s.saved.any fun e => e.2.launch == some l then
    (if v.cls = 0 then s.allFit l
     else s.saved.any fun e => e.2.launch == some l && (placesOf (clusterOfUnit e.2.tagUnit)).any (s.fits e.2))
  else (v.crewsPlaced < v.crews && (s.placeCrew l v).isSome) || (v.threadsPlaced < v.threads && (s.placeThread l v).isSome)

/-- Taking launches in order comes to a state that will do. -/
def State.clears (s : State) (ok : State → Bool) : List Nat → Bool
  | [] => ok s
  | t :: ts => ok s || (s.without t).clears ok ts

/-- The victim to ask next: none where those that are asked already will do, or where all of them would not (17 R349, R354). -/
def State.nextVictim (s : State) (ok : State → Bool) (ts : List Nat) : Option Nat :=
  if ok s.departing || !s.departing.clears ok ts then none else ts.head?

/-- A started unit of a weakly parallel launch, chosen freely (17 R348; L5): the contexts of the unit. -/
def State.ownVictim (s : State) (l : Nat) : State × List Nat :=
  let ks := (s.ctxs.filter fun e => e.2.unitOfLaunch e.1 l && !e.2.preempt && e.2.region.isNone).map (·.1)
  let (s, n) := s.draw
  let k := ks.getD (Config.victim n % max ks.length 1) 0
  let c := s.ctx k
  (s, ks.filter fun j => j == k || (c.crew.isSome && (s.ctx j).crew == c.crew))

/-- `PREEMPTION_REQUEST`: room is made for a launch, from launches of lower PRIO in the order of 17 R354, as many as it takes, each asked
whole; or from a started unit of the same weakly parallel launch (R348, R349, R354). -/
def execPreemptionRequest (launch : Nat) (s : State) : Out :=
  .next (match s.launch launch with
    | none => s
    | some v =>
      let ok := fun (s : State) => s.goesOn launch v
      if !s.wantsRoom launch v then s
      else match s.nextVictim ok (s.victims launch fun w => decide (w.prio < v.prio)) with
        | some t => s.askLaunch t
        | none =>
          if v.admitted && v.cls = 2 && !v.placed && !ok s.departing
              && !s.ctxs.any (fun e => e.2.unitOfLaunch e.1 launch && e.2.preempt) then
            let (s, ks) := s.ownVictim launch
            ks.foldl (fun s k => s.modCtx k Ctx.ask) s
          else s)

/-- `FLOOR_SHARE_SLICE`: a concurrent launch that has been saved for seven slices of 262,144 clk is resumed for one; work that
stands in its way is asked to go, of any PRIO, and nothing else takes the room meanwhile, but not a parallel launch of the same PRIO, whose started units are never saved for it
(17 R348, R354; DEDUCED, L65). -/
def execFloorShareSlice (launch : Nat) (s : State) : Out :=
  .next (match s.launch launch with
    | none => s
    | some v =>
      let due : Bool := v.saved && v.savedAt + 7 * 262144 ≤ s.clk
      if v.cls ≠ 0 || !(due || v.inFloor s.clk) then s
      else
        let s := if due then
            s.setLaunch launch (some { v with savedAt := s.clk + 262144, floorEnd := some (s.clk + 262144) })
          else s
        match s.nextVictim (·.allFit launch) (s.victims launch fun w => w.prio ≠ v.prio || w.cls ≠ 1) with
        | some t => s.askLaunch t
        | none => s)

/-! ## Demotion -/

/-- `DEMOTION_EXPIRY`: a demotion ends after 1,024 clk (17 R357). -/
def execDemotionExpiry (p : Place) (s : State) : Out :=
  .next (match (s.ctx p.key).demoted with
    | some t => if t + 1024 ≤ s.now p.key then s.modCtx p.key fun c => { c with demoted := none } else s
    | none => s)

/-- `SPIN_WAKE`: a wake event ends a demotion, and the run of takes starts anew (17 R357; L72). -/
def execSpinWake (p : Place) (s : State) : Out :=
  .next (s.modCtx p.key fun c => { c with demoted := none, spin := Spin.none })

end Sys2Proof.Machine
end

