-- ==== Sys2Proof/Machine/FpInstr.lean ====
section
/-! DEFINITION. The meanings of the F and D instructions (10 R200, R201; 08 R160). -/
namespace Sys2Proof.Machine

/-- An f register read as an operand of format T. -/
def Lane.fpCode (l : Lane) (t : BitVec 1) (r : BitVec 5) : Nat := fpUnbox (t = 1#1) (l.rf r.toNat).v

def Lane.fpVal (l : Lane) (t : BitVec 1) (r : BitVec 5) : Val := decodeFp (fpFmt (t = 1#1)) (l.fpCode t r)

/-- Any of some f registers is poisoned. -/
def Lane.fPoison (l : Lane) (rs : List (BitVec 5)) : Bool := rs.any fun r => (l.rf r.toNat).p

/-- A result in an f register, with its flags and the poison of its sources (07 R129). -/
def Lane.fpResult (l : Lane) (t : BitVec 1) (d : BitVec 5) (p : Bool) (r : Nat × FFlags) : Lane :=
  (l.wf d.toNat (Reg.of (fpBox (t = 1#1) r.1) p)).accrue p r.2

/-- A result in an x register, with its flags and the poison of its sources. -/
def Lane.fpToX (l : Lane) (d : BitVec 5) (p : Bool) (v : Word) (fl : FFlags) : Lane :=
  (l.wx d.toNat (Reg.of v p)).accrue p fl

def execFpLoad (i : BitVec 12) (a : BitVec 5) (f : BitVec 1) (d : BitVec 5) (s : State) : Out :=
  gated (.fpLoad i a f d) s fun s k c ls =>
    let n := if f = 1#1 then 8 else 4
    s.loadBase k c ls (c.requests ls a.toNat (sext i) n n) fun _ => .f d.toNat n

def execFpStore (j : BitVec 7) (b : BitVec 5) (a : BitVec 5) (f : BitVec 1) (k : BitVec 5) (s : State) : Out :=
  gated (.fpStore j b a f k) s fun s p c ls =>
    s.storeBase p c ls (c.stores ls a.toNat (storeOff j k) (if f = 1#1 then 8 else 4) 1 b.toNat fun l => l.rf b.toNat)

/-- The fused forms by the opcode's bits [3:2]: fmadd, fmsub, fnmsub, fnmadd (10 R200). -/
def fusedOp (f : Fmt) (rnd : Rnd) (o : BitVec 2) (a b c : Val) : Nat × FFlags :=
  match o.toNat with
  | 0 => fmaVal f rnd a b c
  | 1 => fmaVal f rnd a b c.negate
  | 2 => fmaVal f rnd a.negate b c
  | _ => fmaVal f rnd a.negate b c.negate

def execFpFused (c : BitVec 5) (t : BitVec 1) (b a : BitVec 5) (r : BitVec 3) (d : BitVec 5) (o : BitVec 2) (s : State) :
    Out :=
  laneOp (.fpFused c t b a r d o) s fun l =>
    l.fpResult t d (l.fPoison [a, b, c])
      (fusedOp (fpFmt (t = 1#1)) (l.rnd r) o (l.fpVal t a) (l.fpVal t b) (l.fpVal t c))

/-- fadd, fsub, fmul and fdiv. -/
def fpArithOp (f : Fmt) (rnd : Rnd) (o : BitVec 2) (a b : Val) : Nat × FFlags :=
  match o.toNat with
  | 0 => addVal f rnd a b
  | 1 => addVal f rnd a b.negate
  | 2 => mulVal f rnd a b
  | _ => divVal f rnd a b

def execFpArith (o : BitVec 2) (t : BitVec 1) (b a : BitVec 5) (r : BitVec 3) (d : BitVec 5) (s : State) : Out :=
  laneOp (.fpArith o t b a r d) s fun l =>
    l.fpResult t d (l.fPoison [a, b]) (fpArithOp (fpFmt (t = 1#1)) (l.rnd r) o (l.fpVal t a) (l.fpVal t b))

def execFsqrt (t : BitVec 1) (a : BitVec 5) (r : BitVec 3) (d : BitVec 5) (s : State) : Out :=
  laneOp (.fsqrt t a r d) s fun l =>
    l.fpResult t d (l.fPoison [a]) (sqrtVal (fpFmt (t = 1#1)) (l.rnd r) (l.fpVal t a))

/-- fsgnj, fsgnjn and fsgnjx on codes of format `f`. -/
def signInject (f : Fmt) (k : BitVec 3) (x y : Nat) : Nat :=
  let top := 2 ^ (f.ew + f.mw)
  let sx := x / top % 2
  let sy := y / top % 2
  x % top + top * (match k.toNat with
    | 0 => sy
    | 1 => 1 - sy
    | _ => (sx + sy) % 2)

def execFsgnj (t : BitVec 1) (b a : BitVec 5) (f : BitVec 3) (d : BitVec 5) (s : State) : Out :=
  laneOp (.fsgnj t b a f d) s fun l =>
    l.fpResult t d (l.fPoison [a, b]) (signInject (fpFmt (t = 1#1)) f (l.fpCode t a) (l.fpCode t b), 0)

def execFminFmax (t : BitVec 1) (b a : BitVec 5) (f : BitVec 1) (d : BitVec 5) (s : State) : Out :=
  laneOp (.fminFmax t b a f d) s fun l =>
    l.fpResult t d (l.fPoison [a, b]) (minMaxFp (fpFmt (t = 1#1)) (f = 1#1) (l.fpCode t a) (l.fpCode t b))

/-- FP64 to FP32. -/
def execFcvtSD (a : BitVec 5) (r : BitVec 3) (d : BitVec 5) (s : State) : Out :=
  laneOp (.fcvtSD a r d) s fun l => l.fpResult 0#1 d (l.fPoison [a]) (fpToFp fp32 (l.rnd r) (l.fpVal 1#1 a))

/-- FP32 to FP64. -/
def execFcvtDS (a : BitVec 5) (r : BitVec 3) (d : BitVec 5) (s : State) : Out :=
  laneOp (.fcvtDS a r d) s fun l => l.fpResult 1#1 d (l.fPoison [a]) (fpToFp fp64 (l.rnd r) (l.fpVal 0#1 a))

/-- fle, flt and feq by funct3. A NaN makes the relation false; it sets NV in flt and fle, a signalling one also in feq. -/
def fpCompareOp (f : BitVec 2) (a b : Val) : Bool × FFlags :=
  if a.isNan || b.isNan then (false, nvIf (f != 2#2 || a.snan || b.snan))
  else
    let c := cmpVal a b
    (match f.toNat with
     | 0 => c ≤ 0
     | 1 => c < 0
     | _ => c == 0, 0)

def execFpCompare (t : BitVec 1) (b a : BitVec 5) (f : BitVec 2) (d : BitVec 5) (s : State) : Out :=
  laneOp (.fpCompare t b a f d) s fun l =>
    let r := fpCompareOp f (l.fpVal t a) (l.fpVal t b)
    l.fpToX d (l.fPoison [a, b]) (boolWord r.1) r.2

/-- The integer of a conversion by its type W, WU, L or LU; W and WU are sign-extended (10 R201). -/
def intResult (f : BitVec 2) (n : Int) : Word := if f.toNat < 2 then sext (BitVec.ofInt 32 n) else BitVec.ofInt 64 n

def execFcvtToInt (t : BitVec 1) (f : BitVec 2) (a : BitVec 5) (r : BitVec 3) (d : BitVec 5) (s : State) : Out :=
  laneOp (.fcvtToInt t f a r d) s fun l =>
    let v := fpToInt (l.rnd r) (f.toNat % 2 = 0) (if f.toNat < 2 then 32 else 64) (l.fpVal t a)
    l.fpToX d (l.fPoison [a]) (intResult f v.1) v.2

/-- The integer that a source register holds by its type W, WU, L or LU. -/
def intSource (f : BitVec 2) (v : Word) : Int :=
  match f.toNat with
  | 0 => (lo32 v).toInt
  | 1 => (lo32 v).toNat
  | 2 => v.toInt
  | _ => v.toNat

def execFcvtFromInt (t : BitVec 1) (f : BitVec 2) (a : BitVec 5) (r : BitVec 3) (d : BitVec 5) (s : State) : Out :=
  laneOp (.fcvtFromInt t f a r d) s fun l =>
    l.fpResult t d (l.rx a.toNat).p (intToFp (fpFmt (t = 1#1)) (l.rnd r) (intSource f (l.rx a.toNat).v))

def execFmvX (t : BitVec 1) (a d : BitVec 5) (s : State) : Out :=
  laneOp (.fmvX t a d) s fun l =>
    let v := (l.rf a.toNat).v
    l.fpToX d (l.fPoison [a]) (if t = 1#1 then v else sext (lo32 v)) 0

def execFclass (t : BitVec 1) (a d : BitVec 5) (s : State) : Out :=
  laneOp (.fclass t a d) s fun l =>
    l.fpToX d (l.fPoison [a]) (BitVec.ofNat 64 (classify (fpFmt (t = 1#1)) (l.fpCode t a))) 0

def execFmvToF (t : BitVec 1) (a d : BitVec 5) (s : State) : Out :=
  laneOp (.fmvToF t a d) s fun l =>
    let v := (l.rx a.toNat).v
    l.wf d.toNat (Reg.of (if t = 1#1 then v else nanBox (lo32 v).toNat) (l.rx a.toNat).p)

end Sys2Proof.Machine
end

