-- ==== Sys2Proof/Machine/Links.lean ====
section
/-! DEFINITION. The die links and the Span ports (19 R394 to R396). -/
namespace Sys2Proof.Machine

/-- `FLIT_RETRY`: a retried flit is neither lost nor duplicated; only time passes (19 R394, R396). -/
def execFlitRetry (_link : Nat) (s : State) : Out := .next s

/-- `LANE_REPAIR`: a spare lane takes over, or the link is bypassed through a third die, at a cost in time, once the traffic that is on
its way over it has drained (19 R394). -/
def execLaneRepair (link : Nat) (spare : Bool) (s : State) : Out :=
  .next (if s.linkInReset link || 6 ≤ link || spare || s.linkIs link = 1 then s
    else if 2 ≤ s.linkIs link then s.endDrains
    else { s with mgmt := { s.mgmt with linkState := Tbl.set 0 s.mgmt.linkState link (2 + s.nextId) } }.endDrains)

/-- `podcfg` with a number of ports that are up (19 R395). -/
def podcfgWith (v : Word) (ports : Nat) : Word :=
  BitVec.ofNat 64 (v.toNat % 256 + (if ports = 0 then 0 else 256) + ports * 65536)

/-- `SPAN_PORT_DOWN`: the port's requests move to the next port; the replies on their way over it are lost, and their requests
are sent again with their tags (19 R396). -/
def execSpanPortDown (port : Nat) (s : State) : Out :=
  .next (
    let g := s.mgmt
    let up := (bits 16 5 g.podcfg).toNat
    if 16 ≤ port || g.portsDown.contains port || up = 0 then s
    else
      let net := s.net.map fun (m : NetMsg) =>
        match m.body with
        | .taggedRep r _ _ =>
          if (s.linksOf r).contains (6 + port) then { m with lost := true } else m
        | _ => m
      { s with net := net, mgmt := { g with portsDown := g.portsDown ++ [port], podcfg := podcfgWith g.podcfg (up - 1) } })

end Sys2Proof.Machine
end

