-- ==== Sys2Proof/Machine/Matrix.lean ====
section
/-! DEFINITION. The matrix unit: operand descriptors, the slot rules, `mma`, `mma.sp`, `mzero`, `epi`, `mlink`, `msave` and
`mrest`, and the start and completion of queued instructions (14 R285 to R301; 15 R320, R321; 08 R150, R157 to R159). -/
namespace Sys2Proof.Machine

/-! ## Checks at issue -/

/-- Why an instruction does not enter its queue: a trap of its lead lane, an illegal-instruction sub-code, a stall, a miss, or
a line, read at issue, whose value is not at its home yet. -/
inductive MxStop where
  | trap (cause : Nat) (tval : Word)
  | sub (n : Nat)
  | stall
  | walk (acc va : Nat)
  | home (loc : Nat)
  deriving DecidableEq, Repr

/-- A context's own earlier stores to the line of a location are on their way to its home, or wait in its L1D. -/
def State.ownStores (s : State) (k loc : Nat) : Bool :=
  let uid := (s.ctx k).uid
  let line := loc / 128
  (Tbl.get [] s.storeQ (unitOf k)).any (fun e => e.uid == uid && e.loc / 128 == line)
    || (s.l1 (unitOf k)).any (fun l => l.line == line && l.st == .dirty)
    || s.inFlight.any fun m =>
      match m.body with
      | .write w _ l _ _ _ _ _ _ => w == uid && l == line
      | .marked w _ l _ _ _ => w == uid && l.line == line
      | _ => false

/-- Bring the line of a location to its home: an owner is asked for it, and the own L1D's bytes go back (03 R54; 05 R102). -/
def State.bringHome (s : State) (k loc : Nat) : State :=
  let s := s.askLine (.ctx (s.ctx k).uid) loc true
  match (s.l1 (unitOf k)).find? fun l => l.line == loc / 128 && l.st == .dirty with
  | some l => (s.sendBack (unitOf k) l (s.ctx k).nextPc none).afterWriteBack (unitOf k) l
  | none => s

/-- The result of a check at issue. The instruction acts once, so every worker takes its trap (18 R366; 25 R433); a poisoned
register faults the workers that hold it so (07 R130). -/
def MxStop.act (m : MxStop) (s : State) (k : Nat) (word : BitVec 32) : State :=
  match m with
  | .trap cause v =>
    let c := s.ctx k
    let ps := if cause = 26 then c.poisoned c.executing v.toNat else []
    s.trap k cause v c.nextPc (if ps.isEmpty then c.workers c.executing else ps)
  | .sub n => s.illegalTrap k word n (s.ctx k).executing
  | .stall => s
  | .walk acc va => s.startWalk k acc va
  | .home loc => s.bringHome k loc

abbrev Chk (α : Type) := Except MxStop α

/-- Fail with a stop where a condition holds. -/
def stopIf (b : Bool) (m : MxStop) : Chk Unit := if b then .error m else .ok ()

/-- The first stop of a list of checks. -/
def stopAny (l : List (Option MxStop)) : Chk Unit :=
  match l.findSome? id with
  | some m => .error m
  | none => .ok ()

/-- The window address of an offset in an allocation. -/
def winAddr (o : Nat) : Word := 0xFFFFFE0000000000#64 + BitVec.ofNat 64 o

/-- The first byte of a range that lies outside the window allocation of a context. -/
def Ctx.winBad (c : Ctx) (va : Word) (n : Nat) : Option Word :=
  if n = 0 then none
  else match windowOff va with
    | none => some va
    | some o => if c.allocSize ≤ o then some va else if c.allocSize < o + n then some (winAddr c.allocSize) else none

/-- The location of an address of an operand: in the allocation at `base`, or in a page translated at issue. -/
def opLoc (base : Nat) (pages : List (Nat × Nat)) (va : Nat) : Nat :=
  if inWindow (BitVec.ofNat 64 va) then base + va % 2 ^ 40
  else match pages.find? fun p => p.1 == va / 65536 with
    | some p => p.2 + va % 65536
    | none => 0

/-- One byte of an operand with its poison; a marked line reads as poisoned (03 R70). -/
def State.opByte (s : State) (loc : Nat) : Nat × Bool :=
  ((s.byte loc).toNat, s.bytePoison loc || (!isWindowLoc loc && s.mark (loc / 128) != .clean))

/-- `n` bytes of an operand as a little-endian value. -/
def State.opValue (s : State) (loc : Nat) : Nat → Nat × Bool
  | 0 => (0, false)
  | n + 1 =>
    let b := s.opByte loc
    let r := s.opValue (loc + 1) n
    (b.1 + 256 * r.1, b.2 || r.2)

/-- The doubles of a descriptor. -/
def State.descWords (s : State) (loc n : Nat) : List Word :=
  (List.range n).map fun i => BitVec.ofNat 64 (s.value (loc + 8 * i) 8)

/-- A descriptor of `n` bytes at an address: cause 5 outside the window, 4 where it is misaligned, BOUNDS outside the
allocation (14 R296, R302); its location. -/
def Ctx.descAt (c : Ctx) (k : Nat) (va : Word) (n : Nat) : Chk Nat :=
  match windowOff va with
  | none => .error (.trap 5 va)
  | some o =>
    if va.toNat % n ≠ 0 then .error (.trap 4 va)
    else match c.winBad va n with
      | some b => .error (.trap 24 b)
      | none => .ok (windowLoc (clusterOf k) c.allocBase o)

/-- A poisoned byte of a descriptor or of a vector read at issue raises POISON for the register that names it. -/
def State.cleanAt (s : State) (loc n r : Nat) : Chk Unit := stopIf (s.anyPoison loc n) (.trap 26 (poisonTval 0 r))

/-- The pages of 64 KiB of a range, each translated at issue as an access of the context (14 R302; 15 R320); `place` says
which places the range may have, and `other` what any other place raises. -/
def State.pagesOf (s : State) (k acc : Nat) (place : Spot → Bool) (other : Word → MxStop) (va n : Nat) :
    Chk (List (Nat × Nat)) :=
  if n = 0 then .ok []
  else (List.range ((va + n - 1) / 65536 - va / 65536 + 1)).foldl (fun (r : Chk (List (Nat × Nat))) i =>
    match r with
    | .error e => .error e
    | .ok ps =>
      let p := va / 65536 + i
      let a := BitVec.ofNat 64 (max va (p * 65536))
      match s.xlat k acc a with
      | .miss v => .error (.walk acc v)
      | .fault cause v => .error (.trap cause v)
      | .ok q => if place q then .ok (ps ++ [(p, q.loc - a.toNat % 65536)]) else .error (other a)) (.ok [])

/-- A value in memory that is read at issue is read at its home, behind the context's own stores to its line. -/
def State.readsHome (s : State) (k loc : Nat) : Chk Unit :=
  stopIf (!isWindowLoc loc && (!s.mayAct (.ctx (s.ctx k).uid) loc || s.ownStores k loc)) (.home loc)

/-- Every store of a context to the cluster window has been performed at its bank: a check at issue reads what the context
wrote there. -/
def State.windowDone (s : State) (k : Nat) : Bool :=
  let uid := (s.ctx k).uid
  (Tbl.get [] s.storeQ (unitOf k)).all (fun e => e.uid != uid || !isWindowLoc e.loc)
    && s.inFlight.all fun m =>
      match m.body with
      | .bankWrite w _ _ _ _ _ _ _ => w != uid
      | _ => true

/-- Queue an instruction once its checks have passed: its release at a scope, then the counter and the queue have room, and
`mx` rises (14 R288). -/
def State.mxIssue (s : State) (k scope : Nat) (c : Ctx) (ls : List Nat) (room : Bool) (put : State → State) : State :=
  releasing s k scope <|
    if c.counterFull .mx || !room then s else (put s).modCtx k fun c => (c.count .mx).retire ls

/-! ## Slots -/

def Engine.slot (e : Engine) (n : Nat) : Slot := Tbl.get Slot.free e.slots n
def Engine.setSlot (e : Engine) (n : Nat) (v : Slot) : Engine := { e with slots := Tbl.set Slot.free e.slots n v }

def Slot.elem (v : Slot) (n : Nat) : BitVec 32 × Bool := Tbl.get (0, false) v.elems n

/-- Every element +0 with no poison. -/
def Slot.clear (v : Slot) : Slot := { v with tag := .none, elems := [] }

/-- The slots that an instruction names. -/
def MxOp.slots (o : MxOp) : List Nat := if o.tag == .pair then [o.slot, o.slot + 1] else [o.slot]

/-- An instruction whose end frees the slot or hands it over. -/
def MxOp.frees (o : MxOp) : Bool :=
  match o.work with
  | .epi d _ _ _ _ => bits 34 2 (d.getD 1 0) == 2#2
  | .mlink _ => true
  | .msave _ _ => true
  | _ => false

/-- A matrix instruction that names a slot stalls: another wave holds it, or the own wave is about to free it
(14 R285). -/
def Engine.slotBusy (e : Engine) (uid n : Nat) : Bool :=
  (match (e.slot n).holder with
   | some h => h != uid
   | none => false) || e.queue.any fun o => !o.written && o.frees && o.slots.contains n

/-- A named slot becomes held by the wave; a Free slot gains tag NONE (14 R285). -/
def Engine.gain (e : Engine) (uid n : Nat) (tag : SlotTag) : Engine :=
  e.setSlot n { e.slot n with holder := some uid, tag := tag, linked := false }

/-- The slots that naming slot `n` moves: both of a PAIR, by the even one. -/
def Engine.pairOf (e : Engine) (n : Nat) : List Nat :=
  if (e.slot n).tag == .pair then [n / 2 * 2, n / 2 * 2 + 1] else [n]

/-- The slot rules of the instructions other than `mma`: stalls, and the odd slot of a PAIR, which only `mzero` may name
(14 R286; 15 R320). The result is the even slot of a PAIR and the tag. -/
def Engine.nameSlot (e : Engine) (uid n : Nat) (oddOk : Bool) : Chk (Nat × SlotTag) :=
  if (e.pairOf n).any (e.slotBusy uid) then .error .stall
  else if (e.slot n).tag == .pair then
    (if n % 2 = 1 && !oddOk then .error (.sub 1) else .ok (n / 2 * 2, .pair))
  else .ok (n, (e.slot n).tag)

/-- Put an instruction in the queue; the slots are the wave's from now on. The first instruction on a slot after a hand-over
acquires at `.clu` (14 R299; 16 R332). -/
def State.mxPut (s : State) (u : Nat) (o : MxOp) (issued : SlotTag) : State :=
  let s := if o.slots.any fun n => ((s.engine u).slot n).linked then s.acquire u 1 else s
  let e := o.slots.foldl (fun e n => e.gain o.uid n issued) (s.engine u)
  s.setEngine u { e with queue := e.queue ++ [o] }

/-- An entry of a matrix unit's queue as it is put there. -/
def MxOp.fresh (c : Ctx) (k slot : Nat) (tag : SlotTag) (work : MxWork) : MxOp :=
  { uid := c.uid, slot := slot, tag := tag, work := work, started := false, written := false,
    winBase := windowLoc (clusterOf k) c.allocBase 0 }

/-! ## Operand descriptors -/

/-- An operand descriptor (14 R292). -/
structure OpDesc where
  addr : Word
  fmt : Nat
  gath : Bool
  lab : Bool
  nmaj : Bool
  pitch : Nat
  nrows : Nat
  saddr : Word
  iaddr : Word
  reserved : Bool
  deriving DecidableEq, Repr

def opDesc (d : List Word) : OpDesc :=
  let w := d.getD 1 0
  { addr := d.getD 0 0, fmt := (bits 0 4 w).toNat, gath := w.getLsbD 4, lab := w.getLsbD 5, nmaj := w.getLsbD 6,
    pitch := (bits 8 20 w).toNat, nrows := (bits 28 17 w).toNat, saddr := d.getD 2 0, iaddr := d.getD 3 0,
    reserved := w.getLsbD 7 || bits 45 19 w != 0#19 }

/-- The class of a format code (14 R293): 0 FP8, 1 MXFP8, 2 FP4, 3 MXFP4, 4 BF16, 5 FP16, 6 TF32, 7 FP64, 8 INT8; 9 for a
code that is no operand of `mma`. -/
def mxClass (fmt : Nat) : Nat :=
  match fmt with
  | 4 | 5 => 0
  | 7 | 8 => 1
  | 6 => 2
  | 9 => 3
  | 2 => 4
  | 3 => 5
  | 1 => 6
  | 13 => 7
  | 10 => 8
  | _ => 9

/-- K and G of a class, and the bits of an element (08 R157). -/
def mxK (cl : Nat) : Nat := if cl = 2 || cl = 3 then 128 else if cl = 4 || cl = 5 then 32 else if cl = 6 then 16 else if cl = 7 then 8 else 64
def mxG (cl : Nat) : Nat := if cl = 2 || cl = 3 then 128 else if cl = 4 || cl = 5 then 16 else if cl = 6 then 4 else if cl = 7 then 8 else 64
def mxBits (cl : Nat) : Nat := if cl = 2 || cl = 3 then 4 else if cl = 4 || cl = 5 then 16 else if cl = 6 then 32 else if cl = 7 then 64 else 8

def isMx (cl : Nat) : Bool := cl = 1 || cl = 3

/-- The tag that a class gives (14 R285). -/
def mxTag (cl : Nat) : SlotTag := if cl = 8 then .int32 else if cl = 7 then .pair else .fp32

/-- The stored length L of a row or column (14 R292). -/
def OpDesc.len (o : OpDesc) (sp : Bool) : Nat :=
  if o.nmaj then 16 * mxBits (mxClass o.fmt) else if sp then 32 else 64

/-- The stored rows of A, or the stored columns or rows of B. -/
def OpDesc.rows (o : OpDesc) : Nat := if o.gath then o.nrows else if o.nmaj then mxK (mxClass o.fmt) else 128

/-- The fields of one descriptor break R292. -/
def OpDesc.bad (o : OpDesc) (isA sp : Bool) : Bool :=
  o.reserved || o.addr.toNat % 16 ≠ 0 || o.pitch % 16 ≠ 0 || o.pitch < o.len sp || mxClass o.fmt = 9
    || o.saddr.toNat % 16 ≠ 0 || o.iaddr.toNat % 16 ≠ 0 || (!isMx (mxClass o.fmt) && o.saddr ≠ 0)
    || (!o.gath && !o.lab && o.iaddr ≠ 0)
    || (if isA then o.lab || o.nmaj || (if o.gath then o.nrows = 0 || 65536 < o.nrows else o.nrows ≠ 0)
        else o.gath || o.nrows ≠ 0)

/-- The byte ranges that an operand covers, in the order of check 7 (14 R296): its rows or columns, then its scales. -/
def OpDesc.dataRanges (o : OpDesc) (sp : Bool) : List (Word × Nat) :=
  (List.range o.rows).map fun i => (o.addr + BitVec.ofNat 64 (i * o.pitch), o.len sp)

def OpDesc.scaleRange (o : OpDesc) : List (Word × Nat) :=
  if isMx (mxClass o.fmt) then [(o.saddr, (if o.gath then o.nrows else 128) * (mxK (mxClass o.fmt) / 32))] else []

def OpDesc.vecRange (o : OpDesc) : List (Word × Nat) :=
  if o.gath then [(o.iaddr, 512)] else if o.lab then [(o.iaddr, 4 * mxK (mxClass o.fmt))] else []

/-- The bytes of a metadata row (14 R297). -/
def metaBytes (cl : Nat) : Nat := mxK cl / 8

/-- The same for ranges that lie in the window of an allocation at `base`. -/
def State.meetsIn (s : State) (uid base : Nat) (rs : List (Word × Nat)) : State :=
  if s.mgmt.badBytes.isEmpty then s
  else rs.foldl (fun s r => match windowOff r.1 with
    | some o => s.meets uid (base + o) r.2
    | none => s) s

/-- An epilogue descriptor (14 R300). -/
structure EpiDesc where
  daddr : Word
  pitch : Nat
  fmt : Nat
  rnd : Nat
  sat : Bool
  trans : Bool
  act : Nat
  bmode : Nat
  alen : Bool
  raw : Bool
  after : Nat
  nr : Nat
  nc : Nat
  alpha : Nat
  baddr : Word
  saddr : Word
  bara : Word
  reserved : Bool
  deriving DecidableEq, Repr

def epiDesc (d : List Word) : EpiDesc :=
  let w := d.getD 1 0
  let f := fun lo len => field w.toNat lo len
  { daddr := d.getD 0 0, pitch := f 0 20, fmt := f 20 4, rnd := f 24 2, sat := w.getLsbD 26, trans := w.getLsbD 27,
    act := f 28 2, bmode := f 30 2, alen := w.getLsbD 32, raw := w.getLsbD 33, after := f 34 2, nr := f 36 7 + 1,
    nc := f 43 7 + 1, alpha := field (d.getD 2 0).toNat 0 32, baddr := d.getD 3 0, saddr := d.getD 4 0,
    bara := d.getD 5 0,
    reserved := f 50 14 ≠ 0 || field (d.getD 2 0).toNat 32 32 ≠ 0 || d.getD 6 0 ≠ 0 || d.getD 7 0 ≠ 0 }

/-- What `mma` reads at issue: the descriptors, and the vectors that they name (14 R296). -/
def State.mmaReads (s : State) (c : Ctx) (k : Nat) (va vb : Word) : List (Word × Nat) :=
  let desc := fun (va : Word) => opDesc (s.descWords (windowLoc (clusterOf k) c.allocBase (va.toNat % 2 ^ 40)) 4)
  [(va, 32), (vb, 32)] ++ (desc va).vecRange ++ (desc vb).vecRange

/-- The bytes of the window that an instruction reads at issue, with the register values that name them: descriptors, vectors, metadata, the
header of an area, the barrier object of `epi`, the headers of lists, and the fields of the descriptor that PDESC names (14 R296, R297, R301,
R302, R307; 15 R320). -/
def State.issueReads (s : State) (c : Ctx) (k : Nat) (i : Instr) (x : BitVec 5 → Word) : List (Word × Nat) :=
  let words := fun (va : Word) (n : Nat) => s.descWords (windowLoc (clusterOf k) c.allocBase (va.toNat % 2 ^ 40)) n
  if s.mgmt.badBytes.isEmpty then []
  else match i with
  | .mma b a _ => s.mmaReads c k (x a) (x b)
  | .mmaSp m b a _ =>
    let d := opDesc (words (x a) 4)
    s.mmaReads c k (x a) (x b) ++ [(x m, d.rows * metaBytes (mxClass d.fmt))]
  | .epi a _ => [(x a, 64), ((epiDesc (words (x a) 8)).bara, 16)]
  | .mrest a _ => [(x a + 0x10800#64, 8)]
  | .pred a => [(x a, 128)]
  | .punion a =>
    let w := fun (n : Nat) => (words (x a) 8).getD n 0
    [(x a, 64), (w 2, 8)]
      ++ (List.range (field (w 1).toNat 24 7 + 1)).map fun n => (w 0 + BitVec.ofNat 64 (n * field (w 1).toNat 0 24), 8)
  | .sparge a =>
    let w := fun (n : Nat) => (words (x a) 16).getD n 0
    [(x a, 128), (w 1, 8), (w 0 + 11, 1), (w 0 + 16, 3), (w 0 + 56, 8), (w 0 + 80, 8)]
  | _ => []

/-- Issue an instruction of a matrix unit or predictor (14 R287, R288): it reads what the context has stored to the window,
makes its checks, and is put in its queue; a check that fails leaves everything as it was. -/
def mxGated {α : Type} (i : Instr) (scope : Nat) (check : State → Nat → Ctx → Nat → Chk α)
    (room : State → Nat → Bool) (put : State → Nat → Ctx → Nat → α → State) (s : State) : Out :=
  gated i s fun s k c ls =>
    leading s k c ls fun l =>
      if !s.windowDone k then s
      else
        let s := s.meetsIn c.uid (windowLoc (clusterOf k) c.allocBase 0) (s.issueReads c k i fun r => ((c.lane l).rx r.toNat).v)
        match check s k c l with
        | .error e => e.act s k (encode i)
        | .ok a => s.mxIssue k scope c ls (room s k) fun s => put s k c l a

/-- Issue an instruction of a matrix unit, with its release at `.clu`: `op` is the entry of the queue, and `tag` the tag that its
slots have from now on. -/
def matrixIssue {α : Type} (i : Instr) (check : State → Nat → Ctx → Nat → Chk α) (op : Nat → Ctx → Nat → α → MxOp)
    (tag : α → SlotTag) (s : State) : Out :=
  mxGated i 1 check (fun s k => (s.engine (unitOf k)).queue.length < 8)
    (fun s k c l a => s.mxPut (unitOf k) (op k c l a) (tag a)) s

/-- A signed 32-bit vector read at issue. -/
def State.intVec (s : State) (loc n : Nat) : List Int :=
  (List.range n).map fun i => (BitVec.ofNat 32 (s.value (loc + 4 * i) 4)).toInt

/-- The bytes of a vector that lie in the allocation carry poison (check 4). -/
def State.vecClean (s : State) (base : Nat) (c : Ctx) (v : List (Word × Nat)) (r : Nat) : Chk Unit :=
  match v with
  | (va, n) :: _ =>
    (match windowOff va with
     | some o => s.cleanAt (base + o) (min n (c.allocSize - o)) r
     | none => .ok ())
  | [] => .ok ()

/-- A range list's first byte outside the allocation raises BOUNDS. -/
def Ctx.inAlloc (c : Ctx) (rs : List (Word × Nat)) : Chk Unit :=
  match rs.findSome? fun r => c.winBad r.1 r.2 with
  | some b => .error (.trap 24 b)
  | none => .ok ()

/-- The slot rules of an `mma` of a class (14 R285, R286). -/
def Engine.mmaSlot (e : Engine) (uid n cl : Nat) : Chk Unit :=
  if cl = 7 then
    if n % 2 = 1 then .error (.sub 1)
    else if e.slotBusy uid n || e.slotBusy uid (n + 1) then .error .stall
    else
      let ok := fun (t : SlotTag) => t == .none || t == .pair
      stopIf (!ok (e.slot n).tag || !ok (e.slot (n + 1)).tag) (.sub 1)
  else if e.slotBusy uid n then .error .stall
  else stopIf ((e.slot n).tag != .none && (e.slot n).tag != mxTag cl) (.sub 1)

/-- A 2:4 nibble is legal: its second position exceeds its first (14 R297). -/
def nibbleOk (c : Nat) : Bool := c % 4 < c / 4

/-- Metadata: the used rows are read at issue; a poisoned byte raises POISON for rs3, then an illegal code METADATA. -/
def State.readMeta (s : State) (base cl : Nat) (va : Word) (idx : Option (List Int)) (r : Nat) : Chk (List Nat) :=
  let m := metaBytes cl
  let row := fun i : Nat =>
    match idx with
    | some v => (if v.getD i 0 < 0 then none else some (v.getD i 0).toNat)
    | none => some i
  let at_ := fun q : Nat => base + (va.toNat % 2 ^ 40) + q * m
  let rows := (List.range 128).map row
  if rows.any fun q =>
      match q with
      | some q => s.anyPoison (at_ q) m
      | none => false
  then .error (.trap 26 (poisonTval 0 r))
  else
    let vals := rows.map fun q => q.map fun q => s.value (at_ q) m
    let bad := (List.range 128).findSome? fun i =>
      match vals.getD i none with
      | none => none
      | some v => ((List.range (2 * m)).find? fun g => !nibbleOk (v / 16 ^ g % 16)).map fun g =>
          BitVec.ofNat 64 (i + g * 2 ^ 7 + v / 16 ^ g % 16 * 2 ^ 12)
    match bad with
    | some t => .error (.trap 25 t)
    | none => .ok (vals.map fun v => v.getD 0)

/-- Every check of `mma` (14 R296) and, with a metadata address, of `mma.sp` (R297); the work to queue and its tag. Only A is
stored in half (R292). INT8 is no class of `mma.sp`, as R297 lists them, where 01 R23 counts INT8 among the formats with 2:4
sparsity (DEDUCED, L67). -/
def State.mmaCheck (s : State) (k : Nat) (c : Ctx) (n : Nat) (a b : Nat × Reg) (m : Option (Nat × Reg)) :
    Chk (MxWork × SlotTag) :=
  let sp := m.isSome
  let base := windowLoc (clusterOf k) c.allocBase 0
  let mva := (m.map fun x => x.2.v).getD 0
  do
    stopIf a.2.p (.trap 26 (poisonTval 0 a.1))
    stopIf b.2.p (.trap 26 (poisonTval 0 b.1))
    stopAny (match m with
      | some (r, v) => [if v.p then some (.trap 26 (poisonTval 0 r)) else none]
      | none => [])
    let la ← c.descAt k a.2.v 32
    let lb ← c.descAt k b.2.v 32
    stopIf (sp && (windowOff mva).isNone) (.trap 5 mva)
    stopIf (sp && mva.toNat % 8 ≠ 0) (.trap 4 mva)
    let wa := s.descWords la 4
    let wb := s.descWords lb 4
    let da := opDesc wa
    let db := opDesc wb
    s.cleanAt la 32 a.1
    s.vecClean base c da.vecRange a.1
    s.cleanAt lb 32 b.1
    s.vecClean base c db.vecRange b.1
    stopIf (da.bad true sp || db.bad false false || mxClass da.fmt ≠ mxClass db.fmt || (sp && 4 ≤ mxClass da.fmt)) (.sub 1)
    let cl := mxClass da.fmt
    (s.engine (unitOf k)).mmaSlot c.uid n cl
    c.inAlloc (da.dataRanges sp ++ db.dataRanges false ++ da.scaleRange ++ db.scaleRange ++ da.vecRange ++ db.vecRange)
    stopAny [if sp then (c.winBad mva (da.rows * metaBytes cl)).map (MxStop.trap 24) else none]
    let idx := if da.gath then some (s.intVec (base + da.iaddr.toNat % 2 ^ 40) 128) else none
    let lab := if db.lab then some (s.intVec (base + db.iaddr.toNat % 2 ^ 40) (mxK cl)) else none
    stopAny [(idx.bind fun v => v.find? fun i => i < -1 || (da.nrows : Int) ≤ i).map fun i =>
      MxStop.trap 24 (da.addr + BitVec.ofInt 64 (i * da.pitch))]
    let md ← match m with
      | some (r, _) => s.readMeta base cl mva idx r
      | none => .ok []
    .ok (.mma sp wa wb idx lab md, mxTag cl)

/-- Issue a multiply. -/
def mmaIssue (i : Instr) (n : BitVec 5) (a b : BitVec 5) (m : Option (BitVec 5)) (s : State) : Out :=
  matrixIssue i
    (fun s k c l =>
      let reg := fun (r : BitVec 5) => (r.toNat, (c.lane l).rx r.toNat)
      s.mmaCheck k c n.toNat (reg a) (reg b) (m.map reg))
    (fun k c _ w => .fresh c k n.toNat w.2 w.1) (fun w => w.2) s

/-- `mma accN, rs1, rs2` (14 R296). -/
def execMma (b a n : BitVec 5) (s : State) : Out := mmaIssue (.mma b a n) n a b none s

/-- `mma.sp accN, rs1, rs2, rs3` (14 R297). -/
def execMmaSp (m b a n : BitVec 5) (s : State) : Out := mmaIssue (.mmaSp m b a n) n a b (some m) s

/-! ## The products and sums of an mma -/

/-- An operand element: its exact value, scale included, and its poison. -/
structure MxEl where
  v : Val
  p : Bool
  deriving DecidableEq, Repr

def MxEl.zero : MxEl := { v := .fin false 0 0, p := false }

/-- The value of an element code of a format (08 R145, R146, R148). -/
def elemVal (fmt code : Nat) : Val :=
  match fmt with
  | 1 => decodeFp tf32 (code / 2 ^ 13)
  | 2 => decodeFp bf16 code
  | 3 => decodeFp fp16 code
  | 4 | 7 => decodeFp e4m3 code
  | 5 | 8 => decodeFp e5m2 code
  | 6 | 9 => decodeFp e2m1 code
  | 13 => decodeFp fp64 code
  | _ => if code < 128 then .fin false code 0 else .fin true (256 - code) 0

/-- A value under a scale byte (08 R149). -/
def scaleVal (x : Nat) (v : Val) : Val :=
  if x = 255 then .nan false
  else match v with
    | .fin s m e => .fin s m (e + x - 127)
    | w => w

/-- Element `j` of a stored row or column at a location: its value without scale. -/
def State.elemAt (s : State) (loc fmt j : Nat) : MxEl :=
  let b := mxBits (mxClass fmt)
  let r := if b = 4 then s.opByte (loc + j / 2) else s.opValue (loc + j * (b / 8)) (b / 8)
  { v := elemVal fmt (if b = 4 then r.1 / 16 ^ (j % 2) % 16 else r.1), p := r.2 }

def State.scaledEl (s : State) (mx : Bool) (sloc : Nat) (e : MxEl) : MxEl :=
  if mx then
    let x := s.opByte sloc
    { v := scaleVal x.1 e.v, p := e.p || x.2 }
  else e

/-- Element k of A row i (14 R294, R295): stored element `j` of row `q`, which faces dense position `k`. -/
def State.elemA (s : State) (base : Nat) (o : OpDesc) (q j k : Nat) : MxEl :=
  let cl := mxClass o.fmt
  s.scaledEl (isMx cl) (base + o.saddr.toNat % 2 ^ 40 + q * (mxK cl / 32) + k / 32)
    (s.elemAt (base + (o.addr.toNat + q * o.pitch) % 2 ^ 40) o.fmt j)

/-- Element k of B column j. -/
def State.elemB (s : State) (base : Nat) (o : OpDesc) (k j : Nat) : MxEl :=
  let cl := mxClass o.fmt
  let sc := if o.nmaj then 128 * (k / 32) + j else j * (mxK cl / 32) + k / 32
  s.scaledEl (isMx cl) (base + o.saddr.toNat % 2 ^ 40 + sc)
    (if o.nmaj then s.elemAt (base + (o.addr.toNat + k * o.pitch) % 2 ^ 40) o.fmt j
     else s.elemAt (base + (o.addr.toNat + j * o.pitch) % 2 ^ 40) o.fmt k)

/-- Insert a number in an ascending list without repeats. -/
def insertNat (n : Nat) : List Nat → List Nat
  | [] => [n]
  | m :: t => if n < m then n :: m :: t else if n = m then m :: t else m :: insertNat n t

/-- The sum of a group of products, rounded to the accumulator's format (08 R157). -/
def groupSum (f : Fmt) (ps : List Val) : Nat :=
  let neg := ps.any fun v => v.isInf && v.neg
  let pos := ps.any fun v => v.isInf && !v.neg
  if ps.any Val.isNan || (neg && pos) then f.nan
  else if neg || pos then signBit f neg + f.maxCode + 1
  else
    let (m, e) := ps.foldl (fun (t : Int × Int) v =>
      match v with
      | .fin s m e => addExact t.1 t.2 (signed s m) e
      | _ => t) (0, 0)
    if m = 0 then signBit f (ps.all Val.neg) else (roundFp f .rne (m < 0) m.natAbs 1 e).1

/-- Apply the groups, in ascending number, to an accumulator code. -/
def applyGroups (f : Fmt) (c : Nat) (ps : List (Nat × Val)) : Nat :=
  let gs := ps.foldl (fun l e => insertNat e.1 l) []
  gs.foldl (fun c g =>
    (addVal f .rne (decodeFp f c) (decodeFp f (groupSum f ((ps.filter fun e => e.1 == g).map (·.2))))).1) c

/-- The exact integer sum of INT8 products. -/
def intSum (ps : List (Nat × Val)) : Int :=
  ps.foldl (fun t e => match e.2 with
    | .fin s m _ => t + signed s m
    | _ => t) 0

/-- The products that enter element (i, j): the group and the value of each, with its poison (14 R295, R297; 08 R158). -/
def State.products (s : State) (base : Nat) (sp : Bool) (da db : OpDesc) (idx lab : Option (List Int)) (md : List Nat)
    (i j : Nat) : List (Nat × Val × Bool) :=
  let cl := mxClass da.fmt
  let row := match idx with
    | some v => if v.getD i 0 < 0 then none else some (v.getD i 0).toNat
    | none => some i
  let dense := fun k : Nat =>
    match lab with
    | some v => if v.getD k 0 < 0 then none else some (v.getD k 0).toNat
    | none => some k
  let prod := fun (k : Nat) (a : MxEl) =>
    (dense k).map fun d =>
      let b := s.elemB base db k j
      (d / mxG cl, mulExact a.v b.v, a.p || b.p)
  if sp then
    match row with
    | none => []
    | some q => (List.range (mxK cl / 2)).filterMap fun m =>
        let nib := md.getD i 0 / 16 ^ (m / 2) % 16
        let k := 4 * (m / 2) + (if m % 2 = 0 then nib % 4 else nib / 4)
        prod k (s.elemA base da q m k)
  else (List.range (mxK cl)).filterMap fun k =>
    prod k (match row with
      | none => MxEl.zero
      | some q => s.elemA base da q k k)

/-- The elements of a slot computed from a function of the element's number; elements at the default are not listed. -/
def slotElems (f : Nat → BitVec 32 × Bool) : Tbl (BitVec 32 × Bool) :=
  ((List.range 16384).map fun n => (n, f n)).filter fun e => e.2 != (0, false)

/-- The new value of element n of an accumulator tile, from its old value and the products. -/
def mmaElem (tag : SlotTag) (lo hi : BitVec 32 × Bool) (ps : List (Nat × Val × Bool)) : Nat × Bool :=
  let vs := ps.map fun e => (e.1, e.2.1)
  let p := lo.2 || hi.2 || ps.any fun e => e.2.2
  match tag with
  | .int32 => (((lo.1.toInt + intSum vs) % 2 ^ 32).toNat, p)
  | .pair => (applyGroups fp64 (lo.1.toNat + 2 ^ 32 * hi.1.toNat) vs, p)
  | _ => (applyGroups fp32 lo.1.toNat vs, p)

/-- The array applies an `mma` to its slot. -/
def State.runMma (s : State) (u : Nat) (o : MxOp) (sp : Bool) (a b : List Word) (idx lab : Option (List Int))
    (md : List Nat) : State :=
  let e := s.engine u
  let lo := e.slot o.slot
  let hi := if o.tag == .pair then e.slot (o.slot + 1) else Slot.free
  let new := fun n => mmaElem o.tag (lo.elem n) (hi.elem n)
    (s.products o.winBase sp (opDesc a) (opDesc b) idx lab md (n / 128) (n % 128))
  let e := e.setSlot o.slot { lo with elems := slotElems fun n => (BitVec.ofNat 32 (new n).1, (new n).2) }
  let e := if o.tag == .pair then
      e.setSlot (o.slot + 1) { hi with elems := slotElems fun n => (BitVec.ofNat 32 ((new n).1 / 2 ^ 32), (new n).2) }
    else e
  s.setEngine u e

/-! ## mzero and mlink -/

/-- `mzero accN` (14 R298). -/
def execMzero (n : BitVec 5) (s : State) : Out :=
  matrixIssue (.mzero n) (fun s k c _ => (s.engine (unitOf k)).nameSlot c.uid n.toNat true)
    (fun k c _ a => .fresh c k a.1 a.2 .mzero) (fun _ => .none) s

/-- The wave of the issuer's crew with an index, on the issuer's engine, resident or saved (14 R299). -/
def State.crewWave (s : State) (k : Nat) (c : Ctx) (w : Nat) : Option Nat :=
  let hit := fun (e : Nat × Ctx) => e.2.status != .vacant && e.2.crew == c.crew && e.2.launch == c.launch && e.2.waveIdx == w
  match s.ctxs.find? fun e => isWave e.1 && unitOf e.1 == unitOf k && hit e with
  | some e => some e.2.uid
  | none => (s.saved.find? fun e => hit e && e.2.tagUnit == unitOf k).map fun e => e.2.uid

/-- The checks of `mlink` at issue (14 R299): the slot, its tag and the wave that receives it. -/
def State.mlinkCheck (s : State) (k : Nat) (c : Ctx) (n : Nat) (a : BitVec 5) (r : Reg) : Chk (Nat × SlotTag × Nat) := do
  let e := s.engine (unitOf k)
  let target := s.crewWave k c (r.v.toNat % 32)
  stopIf r.p (.trap 26 (poisonTval 0 a.toNat))
  stopIf (c.gath || c.crew.isNone || 32 ≤ r.v.toNat || target.isNone || target == some c.uid
    || (e.slot n).holder != some c.uid) (.sub 1)
  let (m, t) ← e.nameSlot c.uid n false
  .ok (m, t, target.getD 0)

/-- `mlink accN, rs1` (14 R299). -/
def execMlink (a n : BitVec 5) (s : State) : Out :=
  matrixIssue (.mlink a n) (fun s k c l => s.mlinkCheck k c n.toNat a ((c.lane l).rx a.toNat))
    (fun k c _ x => .fresh c k x.1 x.2.1 (.mlink x.2.2)) (fun x => x.2.1) s

/-! ## The epilogue -/

/-- The bits of an element of a format code of 08 R151. -/
def fmtBits (f : Nat) : Nat :=
  match f with
  | 0 | 1 | 12 => 32
  | 2 | 3 => 16
  | 6 | 9 | 11 => 4
  | 13 | 14 => 64
  | _ => 8

def fmtMx (f : Nat) : Bool := f = 7 || f = 8 || f = 9

/-- W, and the number of written rows (14 R301). -/
def EpiDesc.width (e : EpiDesc) : Nat := if e.trans then e.nr else e.nc
def EpiDesc.height (e : EpiDesc) : Nat := if e.trans then e.nc else e.nr
def EpiDesc.rowBytes (e : EpiDesc) : Nat := e.width * fmtBits e.fmt / 8

/-- A field breaks R300 or R301, but for the tag part of RAW. -/
def EpiDesc.bad (e : EpiDesc) : Bool :=
  e.reserved || 14 ≤ e.fmt || e.rnd = 3 || e.act = 3 || e.bmode = 3 || e.after = 3 || e.daddr.toNat % 16 ≠ 0
    || e.pitch % 16 ≠ 0 || (fmtBits e.fmt = 4 && e.width % 2 ≠ 0) || (fmtMx e.fmt && e.width % 32 ≠ 0)
    || e.pitch < e.rowBytes || e.baddr.toNat % 16 ≠ 0 || (e.bmode = 0 && e.baddr ≠ 0) || e.saddr.toNat % 16 ≠ 0
    || (!fmtMx e.fmt && e.saddr ≠ 0)
    || (e.raw && (!(e.fmt = 0 || e.fmt = 12 || e.fmt = 13) || e.act ≠ 0 || e.bmode ≠ 0 || e.alen || e.rnd ≠ 0 || e.sat))

/-- The tag part of RAW (14 R301). -/
def EpiDesc.rawTag (e : EpiDesc) (t : SlotTag) : Bool :=
  !e.raw || (match t with
    | .none => e.fmt = 0 || e.fmt = 12
    | .fp32 => e.fmt = 0
    | .int32 => e.fmt = 12
    | .pair => e.fmt = 13)

/-- The byte ranges of the allocation that an epilogue covers. -/
def EpiDesc.ranges (e : EpiDesc) : List (Word × Nat) :=
  (List.range e.height).map (fun r => (e.daddr + BitVec.ofNat 64 (r * e.pitch), e.rowBytes))
    ++ (if e.bmode = 0 then [] else [(e.baddr, 512)])
    ++ (if fmtMx e.fmt then [(e.saddr, e.height * (e.width / 32))] else [])
    ++ (if e.bara ≠ 0 && (windowOff e.bara).isSome && e.bara.toNat % 16 = 0 then [(e.bara, 16)] else [])

/-- A place where a barrier object in memory may lie (11 R234). -/
def State.barPlace (s : State) (p : Spot) : Bool :=
  isHbm s.dies p.loc && (p.home == .uncached || (p.home == .cached && p.pinned))

/-- The checks of BARA at issue: those of `bar.arrive` (11 R234, R236; 14 R301). The object is read at its home once the context's own
stores are there and no L1 owns its line (03 R54). -/
def State.baraCheck (s : State) (k : Nat) (c : Ctx) (va : Word) : Chk Unit := do
  stopIf (va.toNat % 16 ≠ 0) (.trap 6 va)
  let loc ← match windowOff va with
    | some o => (.ok (windowLoc (clusterOf k) c.allocBase o) : Chk Nat)
    | none =>
      if inWindow va then .error (.trap 7 va)
      else match s.xlat k 1 va with
        | .miss v => .error (.walk 1 v)
        | .fault cause v => .error (.trap cause v)
        | .ok p => if s.barPlace p then .ok p.loc else .error (.trap 7 va)
  stopIf (!isWindowLoc loc && (!s.mayAct (.ctx (s.ctx k).uid) loc || s.ownStores k loc)) (.home loc)
  stopIf (!s.barOk loc) (.trap 7 va)

/-- The checks of `epi` at issue (14 R300, R301): the descriptor, its ranges and its barrier, and then the slot rules, with the
tag part of RAW. -/
def State.epiCheck (s : State) (k : Nat) (c : Ctx) (n : Nat) (a : BitVec 5) (r : Reg) : Chk (Nat × SlotTag × List Word) := do
  stopIf r.p (.trap 26 (poisonTval 0 a.toNat))
  let loc ← c.descAt k r.v 64
  s.cleanAt loc 64 a.toNat
  let d := s.descWords loc 8
  stopIf (epiDesc d).bad (.sub 1)
  c.inAlloc (epiDesc d).ranges
  if (epiDesc d).bara = 0 then pure () else s.baraCheck k c (epiDesc d).bara
  let (m, t) ← (s.engine (unitOf k)).nameSlot c.uid n false
  stopIf (!(epiDesc d).rawTag t) (.sub 1)
  .ok (m, t, d)

/-- `epi accN, rs1` (14 R300, R301). It takes `srseed` at issue (08 R156; DESIGN CHOICE, L85). -/
def execEpi (a n : BitVec 5) (s : State) : Out :=
  matrixIssue (.epi a n) (fun s k c l => s.epiCheck k c n.toNat a ((c.lane l).rx a.toNat))
    (fun k c _ x => .fresh c k x.1 x.2.1 (.epi x.2.2 c.csr.srseed c.csr.satp c.dataMode (c.csr.mstatus.getLsbD 18)))
    (fun x => if (epiDesc x.2.2).after = 0 then x.2.1 else .none) s

/-- The exact sum of two values; an exact zero is +0. -/
def sumVal (a b : Val) : Val :=
  match a, b with
  | .nan _, _ => .nan false
  | _, .nan _ => .nan false
  | .inf s, .inf t => if s = t then .inf s else .nan false
  | .inf s, _ => .inf s
  | _, .inf t => .inf t
  | .fin s m e, .fin t n g =>
    let (v, x) := addExact (signed s m) e (signed t n) g
    .fin (v < 0) v.natAbs x

/-- A value is greater than zero. -/
def Val.positive : Val → Bool
  | .nan _ => false
  | .inf s => !s
  | .fin s m _ => !s && m != 0

/-- The activations of R301. -/
def actVal (act : Nat) (v : Val) : Val :=
  if act = 0 || v.isNan then v
  else if !v.positive then .fin false 0 0
  else if act = 1 then v else mulExact v v

/-- The exact value of an accumulator element by its tag. -/
def accVal (t : SlotTag) (lo hi : BitVec 32) : Val :=
  match t with
  | .int32 => .fin (lo.toInt < 0) lo.toInt.natAbs 0
  | .pair => decodeFp fp64 (lo.toNat + 2 ^ 32 * hi.toNat)
  | _ => decodeFp fp32 lo.toNat

/-- The target of a conversion to a format code. -/
def fmtTarget (f : Nat) : Target :=
  match f with
  | 0 => .fp fp32
  | 1 => .fp tf32
  | 2 => .fp bf16
  | 3 => .fp fp16
  | 4 | 7 => .fp e4m3
  | 5 | 8 => .fp e5m2
  | 6 | 9 => .fp e2m1
  | 10 => .int 8
  | 11 => .int 4
  | 12 => .int 32
  | _ => .fp fp64

/-- A rounding code of 08 R152 for element `idx` of lane 0. -/
def rndCode (r : Nat) (seed : Word) (idx : Nat) : Rnd :=
  if r = 0 then .rne else if r = 1 then .rtz else .sr (srDraw seed 0 idx)

/-- floor(log2) of a finite non-zero value. -/
def floorLog2 (v : Val) : Int :=
  match v with
  | .fin _ m e => (bitLen m : Int) - 1 + e
  | _ => 0

/-- The scale byte of a block (08 R150). -/
def mxScale (f : Nat) (vs : List Val) : Nat :=
  if vs.any fun v => v.isNan || v.isInf then 255
  else
    let emax : Int := if f = 7 then 8 else if f = 8 then 15 else 2
    let ls := (vs.filter fun v => !v.isZero).map floorLog2
    let e := match ls with
      | [] => -127
      | l :: t => t.foldl max l - emax
    (min (max e (-127)) 127 + 127).toNat

/-- An element of a block under its scale byte. -/
def mxCode (f x : Nat) (r : Rnd) (v : Val) : Nat :=
  if x = 255 then 0
  else match v with
    | .fin s m e => cvtVal (fmtTarget f) r true (.fin s m (e + 127 - x))
    | _ => 0

/-- One written element: its exact value, its index for stochastic rounding, its poison, and its raw bits. -/
structure EpiEl where
  v : Val
  idx : Nat
  p : Bool
  raw : Nat
  deriving DecidableEq, Repr

/-- Element q of written row r (14 R301). -/
def State.epiEl (s : State) (o : MxOp) (lo hi : Slot) (e : EpiDesc) (r q : Nat) : EpiEl :=
  let i := if e.trans then q else r
  let j := if e.trans then r else q
  let n := 128 * i + j
  let x := lo.elem n
  let y := hi.elem n
  let bias := if e.bmode = 0 then (0, false)
    else s.opValue (o.winBase + e.baddr.toNat % 2 ^ 40 + 4 * (if e.bmode = 1 then i else j)) 4
  let a := if e.alen then decodeFp fp32 e.alpha else .fin false 1 0
  let b := if e.bmode = 0 then .fin false 0 0 else decodeFp fp32 bias.1
  { v := actVal e.act (sumVal (mulExact (accVal o.tag x.1 y.1) a) b), idx := n, p := x.2 || y.2 || bias.2,
    raw := x.1.toNat + 2 ^ 32 * y.1.toNat }

/-- The code of an element that is not of an MX block. -/
def EpiDesc.code (e : EpiDesc) (seed : Word) (x : EpiEl) : Nat :=
  if e.raw then x.raw % 2 ^ fmtBits e.fmt
  else
    let c := cvtVal (fmtTarget e.fmt) (rndCode e.rnd seed x.idx) e.sat x.v
    if e.fmt = 1 then c * 2 ^ 13 else c

/-- Write the codes of a row: whole bytes, or two elements to a byte with the even one low (08 R148). -/
def State.writeCodes (s : State) (loc b : Nat) (cs : List (Nat × Bool)) : State :=
  if b = 4 then
    (List.range (cs.length / 2)).foldl (fun s i =>
      let x := cs.getD (2 * i) (0, false)
      let y := cs.getD (2 * i + 1) (0, false)
      s.putByte (loc + i) (BitVec.ofNat 8 (x.1 % 16 + 16 * (y.1 % 16))) (x.2 || y.2)) s
  else cs.zipIdx.foldl (fun s c => s.putValue (loc + c.2 * (b / 8)) (b / 8) c.1.1 c.1.2) s

/-- Write one row of an epilogue. -/
def State.epiRow (s : State) (o : MxOp) (lo hi : Slot) (e : EpiDesc) (seed : Word) (r : Nat) : State :=
  let els := (List.range e.width).map fun q => s.epiEl o lo hi e r q
  let loc := o.winBase + (e.daddr.toNat + r * e.pitch) % 2 ^ 40
  if fmtMx e.fmt then
    let nb := e.width / 32
    (List.range nb).foldl (fun s b =>
      let blk := (els.drop (32 * b)).take 32
      let x := mxScale e.fmt (blk.map (·.v))
      let s := s.putByte (o.winBase + e.saddr.toNat % 2 ^ 40 + r * nb + b) (BitVec.ofNat 8 x) (blk.any (·.p))
      s.writeCodes (loc + 32 * b * fmtBits e.fmt / 8) (fmtBits e.fmt)
        (blk.map fun c => (mxCode e.fmt x (rndCode e.rnd seed c.idx) c.v, c.p))) s
  else s.writeCodes loc (fmtBits e.fmt) (els.map fun c => (e.code seed c, c.p))

/-- The epilogue converts the slot, writes it, and AFTER acts (14 R285, R301). -/
def State.runEpi (s : State) (u : Nat) (o : MxOp) (d : List Word) (seed : Word) : State :=
  let g := s.engine u
  let lo := g.slot o.slot
  let hi := if o.tag == .pair then g.slot (o.slot + 1) else Slot.free
  let e := epiDesc d
  let s := (List.range e.height).foldl (fun s r => s.epiRow o lo hi e seed r) s
  if e.after = 0 then s
  else s.setEngine u (o.slots.foldl (fun g n =>
    g.setSlot n (if e.after = 2 then Slot.free else { g.slot n with elems := [] })) (s.engine u))

/-- The arrival of step 4 (14 R301), and whether it is over: it waits for a translation, for the object's line, for room in the home's
de-duplication table and while LEFT is 0. An arrival that cannot be made writes a machine-check record. -/
def State.epiArrive (s : State) (u : Nat) (o : MxOp) (va satp : Word) (mode : Mode) (sum : Bool) : State × Bool :=
  let c := (s.byUid o.uid).getD Ctx.vacant
  let k := (s.keyOf o.uid).getD (u * 32)
  let fail := fun (s : State) (pa : Nat) => (s.mcRecord 11 5 pa (unitCode u) c.ctxid.toNat, true)
  let at_ := fun (s : State) (loc : Nat) =>
    if !s.barOk loc then fail s (if isWindowLoc loc then 0 else loc)
    else if field (s.barD0 loc) 16 16 = 0 || (!isWindowLoc loc && !s.tagRoom loc 1 (c.tag k)) then (s, false)
    else ((s.barrierTag k loc c).setBarrier loc (s.barD0 loc - 2 ^ 16) (s.barD1 loc), true)
  match windowOff va with
  | some off => at_ s (o.winBase + off)
  | none =>
    match s.engineXlat { who := .ctx o.uid, unit := u, tlb := some (dtlb u), satp := satp, mode := mode, sum := sum, mxr := false }
        1 va with
    | (s, .wait) => (s, false)
    | (s, .fault _) => fail s 0
    | (s, .ok p) =>
      if !s.barPlace p || s.mgmt.failedHomes.contains (s.homeOf p.loc) then fail s p.loc
      else if (s.l1Line u (p.loc / 128)).isSome then (s.flushLine u c.nextPc p.loc, false)
      else if s.writingTo u p.loc 16 then (s, false)
      else s.inTurn (.ctx o.uid) p.loc false false (at_ s p.loc)

/-! ## msave and mrest -/

/-- The bytes of a save area (15 R321). -/
def areaBytes : Nat := 0x10880

/-- Where a save area lies: the allocation, or pages of HBM4 of KIND normal that are not core-pinned (15 R320); `acc` is 1
for `msave` and 0 for `mrest`. -/
def State.areaAt (s : State) (k : Nat) (c : Ctx) (acc : Nat) (va : Word) (n : Nat) : Chk (List (Nat × Nat)) :=
  if inWindow va then
    if (windowOff va).isNone then .error (.trap (accessFault acc) va)
    else match c.winBad va n with
      | some b => .error (.trap 24 b)
      | none =>
        if acc = 1 && s.sealed (windowLoc (clusterOf k) c.allocBase ((windowOff va).getD 0)) n then .error (.trap 7 va)
        else .ok []
  else if 2 ^ 64 ≤ va.toNat + n then .error (.trap (accessFault acc) va)
  else s.pagesOf k acc (fun p => isHbm s.dies p.loc && (p.home == .cached || p.home == .uncached))
    (fun a => .trap (accessFault acc) a) va.toNat n

/-- The header of a slot's area: its tag, HALF and VALID. -/
def tagCode : SlotTag → Nat
  | .none => 0
  | .fp32 => 1
  | .int32 => 2
  | .pair => 3

def tagOf (n : Nat) : SlotTag := if n = 0 then .none else if n = 1 then .fp32 else if n = 2 then .int32 else .pair

def headerOf (t : SlotTag) (odd : Bool) : Nat := tagCode t + (if odd then 4 else 0) + 8

/-- The lines of an instruction's ranges in memory that an L1 owns, or that wait at their home: the homes recall them before the
instruction reads or writes there (03 R54). A home that is being retired serves none (20 R402). -/
def State.ownedLines (s : State) (pages : List (Nat × Nat)) (ranges : List (Word × Nat)) : List Nat :=
  let meets := fun (l : Nat) => pages.any fun p => p.2 / 65536 == l / 512 && ranges.any fun r =>
    let a := p.1 * 65536 + l % 512 * 128
    a < r.1.toNat + r.2 && r.1.toNat < a + 128
  (s.slices.flatMap fun (e : Nat × Slice) =>
      ((e.2.dir.map fun (d : DirEnt) => d.line) ++ e.2.stalled.map fun (x : Nat × NetMsg) => x.2.loc / 128).filter meets)
    ++ ((pages.map (·.2)).filter s.homeMoving).map (· / 128)

/-- Write bytes of an operand to a location: at the bank, or at the home slice. -/
def State.putArea (s : State) (loc n v : Nat) : State :=
  let s := s.putValue loc n v false
  if isWindowLoc loc || loc % 128 ≠ 0 || n ≠ 128 || s.mark (loc / 128) == .clean then s
  else (s.setMark (loc / 128) .clean).setFull (loc / 128 * 128) 32 false

/-- The value of `n` elements of a slot from element `i`, 4 bytes each. -/
def Slot.elemBytes (v : Slot) (i n : Nat) : Nat :=
  (List.range n).foldr (fun j t => (v.elem (i + j)).1.toNat + 2 ^ 32 * t) 0

def Slot.poisonBits (v : Slot) (i n : Nat) : Nat :=
  (List.range n).foldr (fun j t => (if (v.elem (i + j)).2 then 1 else 0) + 2 * t) 0

/-- Write a slot to its area, one line at a time (15 R321). -/
def State.saveSlot (s : State) (base : Nat) (pages : List (Nat × Nat)) (va : Nat) (v : Slot) (t : SlotTag) (odd : Bool) :
    State :=
  let s := (List.range 512).foldl (fun s i => s.putArea (opLoc base pages (va + 128 * i)) 128 (v.elemBytes (32 * i) 32)) s
  let s := (List.range 16).foldl (fun s i =>
    s.putArea (opLoc base pages (va + 0x10000 + 128 * i)) 128 (v.poisonBits (1024 * i) 1024)) s
  s.putArea (opLoc base pages (va + 0x10800)) 128 (headerOf t odd)

/-- Read a slot's elements from an area: poison from the map, or from the element's bytes (15 R321). -/
def State.restElems (s : State) (base : Nat) (pages : List (Nat × Nat)) (va : Nat) : Tbl (BitVec 32 × Bool) :=
  slotElems fun n =>
    let e := s.opValue (opLoc base pages (va + 4 * n)) 4
    let m := s.opByte (opLoc base pages (va + 0x10000 + n / 8))
    (BitVec.ofNat 32 e.1, e.2 || m.2 || m.1 / 2 ^ (n % 8) % 2 = 1)

/-- The common checks of `msave` and `mrest` (15 R320). -/
def areaOperand (r : Reg) (a : BitVec 5) (save : Bool) : Chk Unit := do
  stopIf r.p (.trap 26 (poisonTval 0 a.toNat))
  stopIf (r.v.toNat % 128 ≠ 0) (.trap (if save then 6 else 4) r.v)

/-- The checks of `msave` at issue (15 R320): the slot, its tag and the pages of its areas. -/
def State.msaveCheck (s : State) (k : Nat) (c : Ctx) (n : Nat) (a : BitVec 5) (r : Reg) :
    Chk (Nat × SlotTag × List (Nat × Nat)) := do
  areaOperand r a true
  let pages ← s.areaAt k c 1 r.v areaBytes
  let (m, t) ← (s.engine (unitOf k)).nameSlot c.uid n false
  let more ← if t == .pair then s.areaAt k c 1 (r.v + BitVec.ofNat 64 areaBytes) areaBytes else .ok []
  .ok (m, t, pages ++ more)

/-- `msave accN, (rs1)` (15 R320). -/
def execMsave (a n : BitVec 5) (s : State) : Out :=
  matrixIssue (.msave a n) (fun s k c l => s.msaveCheck k c n.toNat a ((c.lane l).rx a.toNat))
    (fun k c l x => .fresh c k x.1 x.2.1 (.msave ((c.lane l).rx a.toNat).v x.2.2)) (fun x => x.2.1) s

/-- The header of an area, read at issue. -/
def State.header (s : State) (base : Nat) (pages : List (Nat × Nat)) (va : Word) : Nat :=
  s.value (opLoc base pages (va.toNat + 0x10800)) 8

/-- The header of the area at an address, read at issue: valid as `ok` says, and free of poison, or cause 5 (15 R320, R321). -/
def State.headerCheck (s : State) (k base : Nat) (pages : List (Nat × Nat)) (va : Word) (ok : Nat → Bool) : Chk Nat := do
  let loc := opLoc base pages (va.toNat + 0x10800)
  s.readsHome k loc
  stopIf (!ok (s.header base pages va) || (s.opValue loc 8).2) (.trap 5 (va + 0x10800#64))
  .ok (s.header base pages va)

/-- A header is valid: VALID is 1, HALF is 0 unless TAG is 3, and every other bit is 0 (15 R321). -/
def headerOk (h : Nat) : Bool := h < 16 && h.testBit 3 && (!h.testBit 2 || h % 4 = 3)

/-- The checks of `mrest` at issue (15 R320): the tag that the header gives, and the pages of the areas. A poisoned header is no
valid header. -/
def State.mrestCheck (s : State) (k : Nat) (c : Ctx) (n : Nat) (a : BitVec 5) (r : Reg) : Chk (SlotTag × List (Nat × Nat)) := do
  let e := s.engine (unitOf k)
  let base := windowLoc (clusterOf k) c.allocBase 0
  let va2 := r.v + BitVec.ofNat 64 areaBytes
  areaOperand r a false
  let pages ← s.areaAt k c 0 r.v areaBytes
  let h ← s.headerCheck k base pages r.v headerOk
  let t := tagOf (h % 4)
  if t == .pair then
    let more ← s.areaAt k c 0 va2 areaBytes
    let _ ← s.headerCheck k base more va2 fun h => h = headerOf .pair true
    stopIf (n % 2 = 1) (.sub 1)
    stopIf (e.slotBusy c.uid n || e.slotBusy c.uid (n + 1)) .stall
    stopIf ((e.slot (n + 1)).tag == .fp32 || (e.slot (n + 1)).tag == .int32) (.sub 1)
    .ok (t, pages ++ more)
  else
    let _ ← e.nameSlot c.uid n false
    .ok (t, pages)

/-- `mrest accN, (rs1)` (15 R320). -/
def execMrest (a n : BitVec 5) (s : State) : Out :=
  matrixIssue (.mrest a n) (fun s k c l => s.mrestCheck k c n.toNat a ((c.lane l).rx a.toNat))
    (fun k c l x => .fresh c k n.toNat x.1 (.mrest ((c.lane l).rx a.toNat).v x.2)) (fun x => x.1) s

/-! ## Start and completion -/

/-- The path of the unit that an instruction takes: 0 the multiply array, 1 the epilogue engine, 2 neither. -/
def MxOp.path (o : MxOp) : Nat :=
  match o.work with
  | .mma _ _ _ _ _ _ => 0
  | .epi _ _ _ _ _ | .msave _ _ | .mrest _ _ => 1
  | .mzero | .mlink _ => 2

/-- Every earlier instruction has finished with the slots, and the path takes its instructions in order (14 R289). -/
def Engine.mayStart (e : Engine) (n : Nat) (o : MxOp) : Bool :=
  (e.queue.take n).all fun p =>
    p.written || (!(p.slots.any fun i => o.slots.contains i) && (o.path = 2 || p.path != o.path))

def Engine.modOp (e : Engine) (n : Nat) (f : MxOp → MxOp) : Engine :=
  { e with queue := e.queue.zipIdx.map fun x => if x.2 = n then f x.1 else x.1 }

/-- `MATRIX_UNIT_START`: an instruction of the queue starts on its slot (14 R289). -/
def execMatrixUnitStart (eng n : Nat) (s : State) : Out :=
  .next (match (s.engine eng).queue.drop n with
    | o :: _ =>
      if !o.started && (s.engine eng).mayStart n o then
        s.setEngine eng ((s.engine eng).modOp n fun o => { o with started := true })
      else s
    | [] => s)

/-- The ranges that an instruction reads when it is carried out: the rows that enter the products, and the scales; the bias of an epilogue;
the area of `mrest`. -/
def MxOp.reads (o : MxOp) : List (Word × Nat) :=
  match o.work with
  | .mma sp a b idx _ _ =>
    let da := opDesc a
    let db := opDesc b
    (match idx with
     | some v => (v.filter fun i => 0 ≤ i).map fun i => (da.addr + BitVec.ofInt 64 (i * da.pitch), da.len sp)
     | none => da.dataRanges sp) ++ db.dataRanges false ++ da.scaleRange ++ db.scaleRange
  | .epi d _ _ _ _ => if (epiDesc d).bmode = 0 then [] else [((epiDesc d).baddr, 512)]
  | .mrest va _ => if o.tag == .pair then [(va, 2 * areaBytes)] else [(va, areaBytes)]
  | _ => []

/-- The save area that an instruction reads or writes (15 R320). -/
def MxOp.area (o : MxOp) (va : Word) : List (Word × Nat) := [(va, if o.tag == .pair then 2 * areaBytes else areaBytes)]

/-- The writes of an instruction (14 R290 step 1), and whether they are made: `mlink` waits for its target to be resident, and
`msave` and `mrest` for the lines of their areas. -/
def State.mxWrite (s : State) (u : Nat) (o : MxOp) : State × Bool :=
  let slots := fun (s : State) (f : Nat → Slot → Slot) =>
    (s.setEngine u (o.slots.foldl (fun g n => g.setSlot n (f n (g.slot n))) (s.engine u)), true)
  let lines := fun (va : Word) (pages : List (Nat × Nat)) (forRead : Bool) (go : State × Bool) =>
    s.inTurns (.ctx o.uid) (s.ownedLines pages (o.area va)) forRead false go
  match o.work with
  | .mma sp a b idx lab md => (s.runMma u o sp a b idx lab md, true)
  | .mzero => slots s fun _ v => { v with elems := [] }
  | .epi d seed _ _ _ => (s.runEpi u o d seed, true)
  | .mlink w =>
    if (s.byUid w).isNone then slots s fun _ _ => Slot.free
    else if (s.keyOf w).isNone then (s, false)
    else slots s fun _ v => { v with holder := some w, linked := true }
  | .msave va pages =>
    lines va pages false <|
      let g := s.engine u
      let s := s.saveSlot o.winBase pages va.toNat (g.slot o.slot) o.tag false
      let s := if o.tag == .pair then
          s.saveSlot o.winBase pages (va.toNat + areaBytes) (g.slot (o.slot + 1)) .pair true
        else s
      slots s fun _ _ => Slot.free
  | .mrest va pages =>
    lines va pages true <|
      slots s fun n v =>
        { v with elems := s.restElems o.winBase pages (va.toNat + (n - o.slot) * areaBytes) }

/-- The arrival of an instruction, if it has one, and whether it is over. -/
def State.mxArrive (s : State) (u : Nat) (o : MxOp) : State × Bool :=
  match o.work with
  | .epi d _ satp mode sum =>
    let va := (epiDesc d).bara
    if va = 0 then (s, true) else s.epiArrive u o va satp mode sum
  | _ => (s, true)

/-- `MATRIX_COMPLETION`: the writes, then the barrier arrival, then `mx` falls (14 R290, R301). -/
def execMatrixCompletion (eng n : Nat) (s : State) : Out :=
  .next (match (s.engine eng).queue.drop n with
    | o :: _ =>
      if !o.started then s
      else
        let w := if o.written then (s, true) else (s.meetsIn o.uid o.winBase o.reads).mxWrite eng o
        if !w.2 then w.1
        else
          let s := w.1.setEngine eng ((w.1.engine eng).modOp n fun o => { o with written := true })
          let a := s.mxArrive eng o
          if !a.2 then a.1
          else
            (a.1.setEngine eng { a.1.engine eng with queue := (a.1.engine eng).queue.eraseIdx n }).modUid o.uid fun c =>
              c.uncount .mx
    | [] => s)

end Sys2Proof.Machine
end

