-- ==== Sys2Proof/Machine/Predictor.lean ====
section
/-! DEFINITION. The row predictor and its check stage: `pred`, `punion`, `sparge`, and the start and completion of queued
instructions (14 R288 to R291, R302 to R308). -/
namespace Sys2Proof.Machine

/-! ## Regions and their errors -/

/-- A byte range that an instruction reads or writes, with the double of the descriptor that names it; an input may lie in
memory (14 R302). -/
structure PReg where
  dbl : Nat
  out : Bool
  va : Word
  n : Nat
  deriving DecidableEq, Repr

def PReg.input (dbl : Nat) (va : Word) (n : Nat) : PReg := { dbl := dbl, out := false, va := va, n := n }
def PReg.output (dbl : Nat) (va : Word) (n : Nat) : PReg := { dbl := dbl, out := true, va := va, n := n }

/-- What the regions of an instruction come to: descriptor errors as (double, reason), the first translation fault, and the
pages in memory. -/
structure PredChk where
  errs : List (Nat × Nat)
  fault : Option MxStop
  pages : List (Nat × Nat)
  deriving DecidableEq, Repr

/-- The place of one region (14 R302): in the allocation, or, for an input, in HBM4 of KIND normal with HOME cached,
uncached or slice-pinned. Any other place is reason 4. The lists, scores and statuses that a predictor writes are not in the table of 05
R97, and no seal stops them (DESIGN CHOICE, L81). -/
def State.regPages (s : State) (k : Nat) (c : Ctx) (r : PReg) : Chk (List (Nat × Nat)) :=
  if inWindow r.va then
    if (c.winBad r.va r.n).isSome then .error (.sub 4) else .ok []
  else if r.out || 0xFFFFFE0000000000 < r.va.toNat + r.n then .error (.sub 4)
  else s.pagesOf k 0 (fun p => isHbm s.dies p.loc && (p.home == .cached || p.home == .uncached)) (fun _ => .sub 4)
    r.va.toNat r.n

/-- Collect the outcome of every region; a miss stops the check. -/
def State.regsCheck (s : State) (k : Nat) (c : Ctx) (errs : List (Nat × Nat)) (rs : List PReg) : Chk PredChk :=
  rs.foldl (fun (t : Chk PredChk) r =>
    match t with
    | .error e => .error e
    | .ok t =>
      match s.regPages k c r with
      | .ok ps => .ok { t with pages := t.pages ++ ps }
      | .error (.walk acc va) => .error (.walk acc va)
      | .error (.sub n) => .ok { t with errs := t.errs ++ [(r.dbl, n)] }
      | .error e => .ok { t with fault := some (t.fault.getD e) }) (.ok { errs := errs, fault := none, pages := [] })

/-- Two regions share a byte. -/
def PReg.meets (a b : PReg) : Bool := a.va.toNat < b.va.toNat + b.n && b.va.toNat < a.va.toNat + a.n

/-- Reason 5: an output region overlaps a region that another double names; the higher double is the offender. -/
def overlaps (rs : List PReg) : List (Nat × Nat) :=
  (rs.filter (·.out)).flatMap fun a =>
    (rs.filter fun b => b.dbl != a.dbl && a.meets b).map fun b => (max a.dbl b.dbl, 5)

/-- The error that is reported: the lowest double, and of its errors the lowest reason. -/
def leastErr : List (Nat × Nat) → Option (Nat × Nat)
  | [] => none
  | e :: t =>
    match leastErr t with
    | none => some e
    | some f => if f.1 < e.1 || (f.1 = e.1 && f.2 < e.2) then some f else some e

/-- `tval` of PREDICTOR (14 R302). -/
def predTval (e : Nat × Nat) : Word := BitVec.ofNat 64 (e.2 + e.1 * 256)

/-- A descriptor error traps, then a translation fault; else the pages. -/
def PredChk.result (t : PredChk) : Chk (List (Nat × Nat)) :=
  match leastErr t.errs, t.fault with
  | some e, _ => .error (.trap 48 (predTval e))
  | none, some f => .error f
  | none, none => .ok t.pages

/-- An error where a condition holds. -/
def errIf (b : Bool) (dbl reason : Nat) : List (Nat × Nat) := if b then [(dbl, reason)] else []

/-! ## Lists -/

/-- The header of an input list, read once, at issue: its count, whether it is bad, and whether a byte of it is poisoned (14 R291, R302). -/
structure ListHead where
  count : Nat
  bad : Bool
  poison : Bool
  deriving DecidableEq, Repr

/-- Read the header of a list. One that cannot be reached counts 0: its region then fails. -/
def State.listHead (s : State) (k : Nat) (c : Ctx) (base dbl : Nat) (va : Word) : Chk ListHead :=
  match s.regPages k c (PReg.input dbl va 8) with
  | .error (.walk acc v) => .error (.walk acc v)
  | .error _ => .ok { count := 0, bad := false, poison := false }
  | .ok ps => do
    let loc := opLoc base ps va.toNat
    s.readsHome k loc
    let h := s.opValue loc 8
    .ok { count := h.1 % 2 ^ 32, bad := h.1 / 2 ^ 32 ≠ 0, poison := h.2 }

def State.listHeads (s : State) (k : Nat) (c : Ctx) (base : Nat) : List (Nat × Word) → Chk (List ListHead)
  | [] => .ok []
  | (d, va) :: t => do
    let h ← s.listHead k c base d va
    let r ← s.listHeads k c base t
    .ok (h :: r)

def listRegs (ls : List (Nat × Word)) (ns : List Nat) : List PReg :=
  (ls.zip ns).map fun e => PReg.input e.1.1 e.1.2 (8 + 4 * e.2)

def listErrs (ls : List (Nat × Word)) (hs : List ListHead) : List (Nat × Nat) :=
  (ls.zip hs).flatMap fun e => errIf e.2.bad e.1.1 2

/-- What an instruction keeps of its lists' headers: counts and poison. -/
def ListHead.kept (h : ListHead) : Nat × Bool := (h.count, h.poison)

/-! ## Descriptors -/

def dword (d : List Word) (i lo len : Nat) : Nat := field (d.getD i 0).toNat lo len

/-- An FP32 field is a NaN or an infinity; or, for a field that must be at least +0, negative. -/
def notFinite (c : Nat) : Bool := isNan32 c || isInf32 c
def notAtLeast0 (c : Nat) : Bool := notFinite c || 2 ^ 31 ≤ c

/-- The fields of a `pred` descriptor (14 R303). -/
structure PredDesc where
  x : Word
  fmt : Nat
  xpitch : Nat
  t : Nat
  d : Nat
  r : Nat
  h : Nat
  kcap : Nat
  v : Word
  u : Word
  sigma : Nat
  tau : Nat
  bias : Word
  sout : Word
  lout : Word
  lpitch : Nat
  nout : Word
  deriving DecidableEq, Repr

def predDesc (d : List Word) : PredDesc :=
  { x := d.getD 0 0, fmt := dword d 1 0 4, xpitch := dword d 1 4 20, t := dword d 1 24 6 + 1, d := dword d 1 32 17,
    r := dword d 1 49 9, h := dword d 2 0 17, kcap := dword d 2 32 32, v := d.getD 3 0, u := d.getD 4 0,
    sigma := dword d 5 0 32, tau := dword d 5 32 32, bias := d.getD 6 0, sout := d.getD 7 0, lout := d.getD 8 0,
    lpitch := dword d 9 0 24, nout := d.getD 10 0 }

/-- The bytes of an input element. -/
def PredDesc.esize (p : PredDesc) : Nat := if p.fmt = 2 || p.fmt = 3 then 2 else 1

/-- The address of item t of a field. -/
def itemAt (a : Word) (pitch t : Nat) : Word := a + BitVec.ofNat 64 (pitch * t)

def hBad (h : Nat) : Bool := h < 32 || 65536 < h || h % 32 ≠ 0

def predErrs (w : List Word) : List (Nat × Nat) :=
  let p := predDesc w
  errIf (!(p.fmt = 2 || p.fmt = 3 || p.fmt = 4 || p.fmt = 5) || dword w 1 30 2 ≠ 0 || dword w 1 58 6 ≠ 0) 1 1
    ++ errIf (p.xpitch % 16 ≠ 0 || p.d < 32 || 65536 < p.d || p.d % 32 ≠ 0 || p.r < 16 || 256 < p.r || p.r % 16 ≠ 0) 1 2
    ++ errIf (dword w 2 17 15 ≠ 0) 2 1 ++ errIf (hBad p.h || p.kcap = 0 || p.h < p.kcap) 2 2
    ++ errIf (notFinite p.sigma || notFinite p.tau) 5 2
    ++ errIf (dword w 9 24 40 ≠ 0) 9 1 ++ errIf (p.lpitch % 16 ≠ 0 || p.lpitch < 8 + 4 * p.kcap) 9 2
    ++ [11, 12, 13, 14].flatMap fun i => errIf (w.getD i 0 ≠ 0) i 1

def predRegs (w : List Word) (va : Word) : List PReg :=
  let p := predDesc w
  let ts := List.range p.t
  ts.map (fun t => PReg.input 0 (itemAt p.x p.xpitch t) (p.d * p.esize))
    ++ [PReg.input 3 p.v (p.r * p.d), PReg.input 4 p.u (p.h * p.r)]
    ++ (if p.bias = 0 then [] else [PReg.input 6 p.bias (4 * p.h)])
    ++ [PReg.output 7 p.sout (4 * p.h * p.t)]
    ++ ts.map (fun t => PReg.output 8 (itemAt p.lout p.lpitch t) (8 + 4 * p.kcap))
    ++ [PReg.output 10 p.nout (4 * p.t), PReg.output 15 (va + 120#64) 8]

/-- The fields of a `punion` descriptor (14 R305). -/
structure UnionDesc where
  lin : Word
  pitch : Nat
  l : Nat
  ein : Word
  h : Nat
  chl : Nat
  gl : Nat
  out : Word
  ocap : Nat
  deriving DecidableEq, Repr

def unionDesc (d : List Word) : UnionDesc :=
  { lin := d.getD 0 0, pitch := dword d 1 0 24, l := dword d 1 24 7 + 1, ein := d.getD 2 0, h := dword d 3 0 17,
    chl := dword d 3 17 3, gl := dword d 3 20 3, out := d.getD 4 0, ocap := dword d 5 0 32 }

def UnionDesc.ch (p : UnionDesc) : Nat := 2 ^ (p.chl + 3)
def UnionDesc.g (p : UnionDesc) : Nat := 2 ^ (p.gl + 2)

def unionErrs (w : List Word) : List (Nat × Nat) :=
  let p := unionDesc w
  errIf (dword w 1 31 33 ≠ 0) 1 1 ++ errIf (p.pitch % 16 ≠ 0) 1 2
    ++ errIf (dword w 3 23 41 ≠ 0 || 5 ≤ p.chl || 6 ≤ p.gl) 3 1 ++ errIf (p.h < 32 || 65536 < p.h || p.ch < p.g) 3 2
    ++ errIf (dword w 5 32 32 ≠ 0) 5 1 ++ errIf (p.ocap % p.ch ≠ 0) 5 2 ++ errIf (w.getD 6 0 ≠ 0) 6 1

/-- The input lists of `punion`, each with the double that names it. -/
def unionLists (w : List Word) : List (Nat × Word) :=
  let p := unionDesc w
  (List.range p.l).map (fun i => (0, itemAt p.lin p.pitch i)) ++ (if p.ein = 0 then [] else [(2, p.ein)])

/-- The fields of a `sparge` descriptor (14 R307). -/
structure CheckDesc where
  pdesc : Word
  ulist : Word
  tab : Word
  eps : Nat
  ebud : Nat
  act : Nat
  rcap : Nat
  rout : Word
  pitch : Nat
  eout : Word
  deriving DecidableEq, Repr

def checkDesc (d : List Word) : CheckDesc :=
  { pdesc := d.getD 0 0, ulist := d.getD 1 0, tab := d.getD 2 0, eps := dword d 3 0 32, ebud := dword d 3 32 32,
    act := dword d 4 0 2, rcap := dword d 4 32 32, rout := d.getD 5 0, pitch := dword d 6 0 24, eout := d.getD 7 0 }

def checkErrs (w : List Word) (p : PredDesc) : List (Nat × Nat) :=
  let q := checkDesc w
  errIf (hBad p.h) 0 2 ++ errIf (notAtLeast0 q.eps || notAtLeast0 q.ebud) 3 2
    ++ errIf (dword w 4 2 30 ≠ 0 || q.act = 0 || q.act = 3) 4 1 ++ errIf (q.rcap = 0 || p.h < q.rcap) 4 2
    ++ errIf (dword w 6 24 40 ≠ 0) 6 1 ++ errIf (q.pitch % 16 ≠ 0 || q.pitch < 8 + 4 * q.rcap) 6 2
    ++ [8, 9, 10, 11, 12, 13, 14].flatMap fun i => errIf (w.getD i 0 ≠ 0) i 1

/-- The regions of `sparge` but for its list; those that PDESC names must lie in the allocation. -/
def checkRegs (w : List Word) (p : PredDesc) (va : Word) : List PReg :=
  let q := checkDesc w
  [PReg.input 2 q.tab (8 * p.h)]
    ++ (List.range p.t).map (fun t => PReg.output 5 (itemAt q.rout q.pitch t) (8 + 4 * q.rcap))
    ++ (if q.eout = 0 then [] else [PReg.output 7 q.eout (4 * p.t)]) ++ [PReg.output 15 (va + 120#64) 8]

/-! ## Issue -/

/-- A queued instruction's parts that its checks give. -/
structure PredIn where
  desc : List Word
  pdesc : List Word
  counts : List (Nat × Bool)
  pages : List (Nat × Nat)
  deriving DecidableEq, Repr

def State.predCheck (s : State) (k : Nat) (c : Ctx) (w : List Word) (va : Word) : Chk PredIn := do
  let rs := predRegs w va
  let t ← s.regsCheck k c (predErrs w ++ overlaps rs) rs
  let ps ← t.result
  .ok { desc := w, pdesc := [], counts := [], pages := ps }

def State.unionCheck (s : State) (k : Nat) (c : Ctx) (base : Nat) (w : List Word) (va : Word) : Chk PredIn := do
  let ls := unionLists w
  let hs ← s.listHeads k c base ls
  let p := unionDesc w
  let rs := listRegs ls (hs.map (·.count)) ++ [PReg.output 4 p.out (8 + 4 * p.ocap), PReg.output 7 (va + 56#64) 8]
  let t ← s.regsCheck k c (unionErrs w ++ listErrs ls hs ++ overlaps rs) rs
  let ps ← t.result
  .ok { desc := w, pdesc := [], counts := hs.map ListHead.kept, pages := ps }

/-- The `pred` descriptor that PDESC names (14 R307): 128-byte aligned, and in the allocation. -/
def pdescAt (k : Nat) (c : Ctx) (va : Word) : Chk Nat :=
  if va.toNat % 128 ≠ 0 then .error (.trap 48 (predTval (0, 3)))
  else match windowOff va with
    | some o => if c.allocSize < o + 128 then .error (.trap 48 (predTval (0, 4)))
                else .ok (windowLoc (clusterOf k) c.allocBase o)
    | none => .error (.trap 48 (predTval (0, 4)))

def State.checkCheck (s : State) (k : Nat) (c : Ctx) (base : Nat) (w : List Word) (va : Word) (r : Nat) : Chk PredIn := do
  let loc ← pdescAt k c (checkDesc w).pdesc
  stopIf (s.anyPoison (loc + 11) 1 || s.anyPoison (loc + 16) 3 || s.anyPoison (loc + 56) 8 || s.anyPoison (loc + 80) 8)
    (.trap 26 (poisonTval 0 r))
  let pw := s.descWords loc 16
  let p := predDesc pw
  let ls := [(1, (checkDesc w).ulist)]
  let hs ← s.listHeads k c base ls
  let own := [PReg.input 0 p.sout (4 * p.h * p.t), PReg.input 0 p.nout (4 * p.t)]
  let far := own.flatMap fun r => errIf (c.winBad r.va r.n).isSome 0 4
  let both := errIf ((PReg.input 0 p.sout (4 * p.h * p.t)).meets (PReg.input 0 p.nout (4 * p.t))) 0 5
  let rs := listRegs ls (hs.map (·.count)) ++ checkRegs w p va
  let t ← s.regsCheck k c (checkErrs w p ++ far ++ both ++ listErrs ls hs ++ overlaps (PReg.input 0 (checkDesc w).pdesc 128 :: own ++ rs)) rs
  let ps ← t.result
  .ok { desc := w, pdesc := pw, counts := hs.map ListHead.kept, pages := ps }

/-- The checks of a predictor instruction at issue, in the order of R302: kind 0 `pred`, 1 `punion`, 2 `sparge`. -/
def State.predIssueCheck (s : State) (k : Nat) (c : Ctx) (kind : Nat) (a : BitVec 5) (r : Reg) : Chk PredIn := do
  let n := if kind = 1 then 64 else 128
  stopIf r.p (.trap 26 (poisonTval 0 a.toNat))
  let loc ← c.descAt k r.v n
  s.cleanAt loc n a.toNat
  let w := s.descWords loc (n / 8)
  if kind = 0 then s.predCheck k c w r.v
  else if kind = 1 then s.unionCheck k c (windowLoc (clusterOf k) c.allocBase 0) w r.v
  else s.checkCheck k c (windowLoc (clusterOf k) c.allocBase 0) w r.v a.toNat

/-- The predictor's queue holds 16 instructions (14 R288). -/
def State.predRoom (s : State) (k : Nat) : Bool := (s.cluster (clusterOf k)).preds.length < 16

/-- Put a checked instruction in the predictor's queue of the cluster. -/
def State.predPut (s : State) (k kind : Nat) (c : Ctx) (va : Word) (p : PredIn) : State :=
  let base := windowLoc (clusterOf k) c.allocBase 0
  let g := s.cluster (clusterOf k)
  s.setCluster (clusterOf k) { g with preds := g.preds ++
    [{ uid := c.uid, kind := kind, desc := p.desc, pdesc := p.pdesc, counts := p.counts,
       status := opLoc base [] va.toNat + (if kind = 1 then 64 else 128) - 8, started := false, winBase := base,
       pages := p.pages }] }

/-- Issue a predictor instruction, with its release at `.pkg` (14 R288). -/
def predIssue (i : Instr) (a : BitVec 5) (kind : Nat) (s : State) : Out :=
  mxGated i 3 (fun s k c l => s.predIssueCheck k c kind a ((c.lane l).rx a.toNat)) State.predRoom
    (fun s k c l p => s.predPut k kind c ((c.lane l).rx a.toNat).v p) s

/-- `pred rs1` (14 R302 to R304). -/
def execPred (a : BitVec 5) (s : State) : Out := predIssue (.pred a) a 0 s

/-- `punion rs1` (14 R305, R306). -/
def execPunion (a : BitVec 5) (s : State) : Out := predIssue (.punion a) a 1 s

/-- `sparge rs1` (14 R307, R308). -/
def execSparge (a : BitVec 5) (s : State) : Out := predIssue (.sparge a) a 2 s

/-! ## Results -/

/-- The location of an address of a queued instruction. -/
def PredOp.loc (o : PredOp) (va : Word) : Nat := opLoc o.winBase o.pages va.toNat

/-- A run of bytes of an operand: each item's value, and the poison of the whole. -/
def State.items (s : State) (o : PredOp) (va : Word) (size n : Nat) : List Nat × Bool :=
  let l := (List.range n).map fun i => s.opValue (o.loc (va + BitVec.ofNat 64 (size * i))) size
  (l.map (·.1), l.any (·.2))

/-- Write FP32 codes to an output. -/
def State.putCodes (s : State) (o : PredOp) (va : Word) (cs : List Nat) (p : Bool) : State :=
  cs.zipIdx.foldl (fun s c => s.putValue (o.loc (va + BitVec.ofNat 64 (4 * c.2))) 4 c.1 p) s

/-- Write a list: its count, then its indices (14 R303). -/
def State.putList (s : State) (o : PredOp) (va : Word) (l : List Int) (p : Bool) : State :=
  (s.putValue (o.loc va) 8 l.length p).putCodes o (va + 8#64) (l.map fun i => (BitVec.ofInt 32 i).toNat) p

/-- The status double (14 R302). -/
def statusWord (err nonfin capCut : Bool) (why count : Nat) : Nat :=
  1 + (if err then 2 else 0) + (if nonfin then 4 else 0) + (if capCut then 8 else 0) + why * 2 ^ 8 + count % 2 ^ 32 * 2 ^ 16

/-- A finite value as an integer and an exponent. -/
def Val.exact : Val → Int × Int
  | .fin s m e => (signed s m, e)
  | _ => (0, 0)

def mulE (a b : Int × Int) : Int × Int := (a.1 * b.1, a.2 + b.2)
def addE (a b : Int × Int) : Int × Int := addExact a.1 a.2 b.1 b.2
def sumE (l : List (Int × Int)) : Int × Int := l.foldl addE (0, 0)
def ltE (a b : Int × Int) : Bool := (addExact a.1 a.2 (-b.1) b.2).1 < 0

/-- Insert into a list kept in descending order of a value; equal values keep their order. -/
def insertDesc {α : Type} (lt : α → α → Bool) (x : α) : List α → List α
  | [] => [x]
  | y :: t => if lt y x then x :: y :: t else y :: insertDesc lt x t

def sortDesc {α : Type} (lt : α → α → Bool) (l : List α) : List α := l.foldl (fun t x => insertDesc lt x t) []

def ascending (l : List Nat) : List Nat := l.foldl (fun t n => insertNat n t) []

/-- The results of `pred` for one token: its scores, norm, list, whether it is not finite, whether KCAP cut it. -/
structure TokenRes where
  scores : List Nat
  norm : Nat
  list : List Nat
  nonfin : Bool
  cut : Bool
  deriving DecidableEq, Repr

/-- The computation of R304. -/
def predToken (p : PredDesc) (x v u b : List Val) : TokenRes :=
  if (x ++ v ++ u ++ b).any fun w => w.isNan || w.isInf then
    { scores := List.replicate p.h fpInf, norm := fpInf, list := List.range (min p.h p.kcap), nonfin := true,
      cut := p.kcap < p.h }
  else
    let xs := x.map Val.exact
    let dot := fun (row ys : List (Int × Int)) => sumE ((row.zip ys).map fun e => mulE e.1 e.2)
    let ys := (List.range p.r).map fun j => dot (((v.drop (j * p.d)).take p.d).map Val.exact) xs
    let sg := (decodeFp fp32 p.sigma).exact
    let tau := (decodeFp fp32 p.tau).exact
    let ss := (List.range p.h).map fun n =>
      addE (mulE sg (dot (((u.drop (n * p.r)).take p.r).map Val.exact) ys)) (b.getD n (.fin false 0 0)).exact
    let sq := sumE (xs.map fun e => mulE e e)
    let root := sqrtExact 32 sq.1.natAbs sq.2
    let act := (ss.zipIdx.filter fun e => ltE tau e.1)
    let kept := if p.kcap < act.length then (sortDesc (fun a b => ltE a.1 b.1) act).take p.kcap else act
    { scores := ss.map fun e => ceil32 e.1 e.2, norm := ceil32 root.1 root.2, list := ascending (kept.map (·.2)),
      nonfin := false, cut := p.kcap < act.length }

/-- The values of an input vector's codes. -/
def predVals (fmt : Nat) (l : List Nat) : List Val := l.map (elemVal fmt)

def State.runPred (s : State) (o : PredOp) : State :=
  let p := predDesc o.desc
  let v := s.items o p.v 1 (p.r * p.d)
  let u := s.items o p.u 1 (p.h * p.r)
  let b := if p.bias = 0 then ([], false) else s.items o p.bias 4 p.h
  let res := (List.range p.t).map fun t =>
    let x := s.items o (itemAt p.x p.xpitch t) p.esize p.d
    (predToken p (predVals p.fmt x.1) (predVals 4 v.1) (predVals 4 u.1) (b.1.map (decodeFp fp32)),
      x.2 || v.2 || u.2 || b.2)
  let s := res.zipIdx.foldl (fun s e =>
    let t := e.2
    let s := s.putCodes o (itemAt p.sout (4 * p.h) t) e.1.1.scores e.1.2
    let s := s.putCodes o (itemAt p.nout 4 t) [e.1.1.norm] e.1.2
    s.putList o (itemAt p.lout p.lpitch t) (e.1.1.list.map Int.ofNat) e.1.2) s
  let cut := (res.filter fun e => e.1.cut).length
  s.putValue o.status 8 (statusWord false (res.any fun e => e.1.nonfin) (cut ≠ 0) 0 cut) false

/-- The entries of an input list: its indices without −1, and whether one is out of range or not ascending (14 R306). -/
def listEntries (h : Nat) (l : List Int) : List Nat × Bool :=
  let es := l.filter (· ≠ -1)
  let bad := es.any (fun i => i < 0 || (h : Int) ≤ i) || (es.zip (es.drop 1)).any fun e => e.2 ≤ e.1
  (es.map Int.toNat, bad)

/-- An input list at execution: its entries as signed numbers, with the poison of every byte read; of its header, what was read at issue
(14 R291). -/
def State.readList (s : State) (o : PredOp) (va : Word) (h : Nat × Bool) : List Int × Bool :=
  let e := s.items o (va + 8#64) 4 h.1
  (e.1.map fun c => (BitVec.ofNat 32 c).toInt, h.2 || e.2)

/-- Pad with −1 to the next multiple of `ch`. -/
def padTo (ch : Nat) (l : List Int) : List Int :=
  if l.length % ch = 0 then l else l ++ List.replicate (ch - l.length % ch) (-1)

/-- Place the groups of a union (14 R306): the result list, and whether OCAP cut it. -/
def placeGroups (ch ocap : Nat) : List (List Nat) → List Int → List Int × Bool
  | [], l => (padTo ch l, false)
  | g :: gs, l =>
    let l := if ch < l.length % ch + g.length then padTo ch l else l
    if ocap < l.length + g.length then (padTo ch l, true)
    else placeGroups ch ocap gs (l ++ g.map Int.ofNat)

def State.runUnion (s : State) (o : PredOp) : State :=
  let p := unionDesc o.desc
  let ls := ((unionLists o.desc).zip o.counts).map fun e => s.readList o e.1.2 e.2
  let es := ls.map fun l => listEntries p.h l.1
  let bad := es.any (·.2)
  let all := ascending (es.flatMap (·.1))
  let gs := ascending (all.map (· / p.g))
  let r := if bad then ([], false) else placeGroups p.ch p.ocap (gs.map fun g => all.filter fun n => n / p.g == g) []
  let s := s.putList o p.out r.1 (ls.any (·.2))
  s.putValue o.status 8 (statusWord bad false r.2 (if bad then 1 else 0) r.1.length) false

/-! ### The check stage -/

/-- A value with the two infinities (14 R308). -/
inductive Ext where
  | ninf
  | fin (m e : Int)
  | pinf
  deriving DecidableEq, Repr

/-- A score or a norm: a NaN counts as +∞. -/
def Ext.of32 (c : Nat) : Ext :=
  match decodeFp fp32 c with
  | .nan _ => .pinf
  | .inf s => if s then .ninf else .pinf
  | .fin s m e => .fin (signed s m) e

/-- The sum: +∞ wins over −∞. -/
def Ext.add : Ext → Ext → Ext
  | .pinf, _ => .pinf
  | _, .pinf => .pinf
  | .ninf, _ => .ninf
  | _, .ninf => .ninf
  | .fin m e, .fin n g => let r := addExact m e n g; .fin r.1 r.2

/-- The product: 0 × ∞ is 0. -/
def Ext.mul : Ext → Ext → Ext
  | .fin m e, .fin n g => .fin (m * n) (e + g)
  | .fin m _, b => if m = 0 then .fin 0 0 else if (m < 0) = (b = .ninf) then .pinf else .ninf
  | a, .fin m _ => if m = 0 then .fin 0 0 else if (m < 0) = (a = .ninf) then .pinf else .ninf
  | a, b => if a = b then .pinf else .ninf

def Ext.lt : Ext → Ext → Bool
  | .pinf, _ => false
  | .ninf, b => b != .ninf
  | .fin _ _, .pinf => true
  | .fin _ _, .ninf => false
  | .fin m e, .fin n g => ltE (m, e) (n, g)

def Ext.zero : Ext := .fin 0 0

def Ext.sum (l : List Ext) : Ext := l.foldl Ext.add Ext.zero

/-- The estimate ↑(v). -/
def Ext.ceil : Ext → Nat
  | .pinf => fpInf
  | .ninf => fpNegInf
  | .fin m e => ceil32 m e

/-- Take suspects, in order, while any remain and E = 0 or what is left sums above E. -/
def takeSuspects (ebud : Ext) : List (Ext × Nat) → List Nat × List (Ext × Nat)
  | [] => ([], [])
  | x :: t =>
    if ebud = Ext.zero || ebud.lt (Ext.sum ((x :: t).map (·.1))) then
      let r := takeSuspects ebud t
      (x.2 :: r.1, r.2)
    else ([], x :: t)

/-- One token of `sparge` (14 R308): the replay list, the estimate, whether RCAP cut it. -/
def checkToken (q : CheckDesc) (h : Nat) (u : List Nat) (scores : List Nat) (norm : Nat) (tab : List Nat) :
    List Nat × Nat × Bool :=
  let eps := Ext.of32 q.eps
  let sus := (List.range h).filterMap fun n =>
    if u.contains n then none
    else
      let res := Ext.of32 (tab.getD n 0 % 2 ^ 32)
      let dn := Ext.of32 (tab.getD n 0 / 2 ^ 32)
      let un := ((Ext.of32 (scores.getD n 0)).add (res.mul (Ext.of32 norm))).add eps
      if Ext.zero.lt un then some ((if q.act = 1 then dn.mul un else dn.mul (un.mul un)), n) else none
  let ord := sortDesc (fun (a b : Ext × Nat) => a.1.lt b.1) sus
  let ebud : Ext := match Ext.of32 q.ebud with
    | .fin m e => if m = 0 then Ext.zero else .fin m e
    | x => x
  let r := takeSuspects ebud ord
  if q.rcap < r.1.length then
    (ascending (r.1.take q.rcap), (Ext.sum ((ord.drop q.rcap).map (·.1))).ceil, true)
  else (ascending r.1, (Ext.sum (r.2.map (·.1))).ceil, false)

/-- A TAB entry that is negative, NaN or infinite. -/
def tabBad (e : Nat) : Bool :=
  [e % 2 ^ 32, e / 2 ^ 32].any fun c =>
    match decodeFp fp32 c with
    | .fin s m _ => s && m != 0
    | _ => true

def State.runCheck (s : State) (o : PredOp) : State :=
  let q := checkDesc o.desc
  let p := predDesc o.pdesc
  let ul := s.readList o q.ulist (o.counts.getD 0 (0, false))
  let ue := listEntries p.h ul.1
  let tb := (List.range p.h).map fun n => s.opValue (o.loc (itemAt q.tab 8 n)) 8
  let why := if ue.2 then 1 else if tb.any (fun e => tabBad e.1) then 2 else 0
  let used := ul.2 || tb.zipIdx.any fun e => e.1.2 && !ue.1.contains e.2
  let res := (List.range p.t).map fun t =>
    let sc := s.items o (itemAt p.sout (4 * p.h) t) 4 p.h
    let nm := s.items o (itemAt p.nout 4 t) 4 1
    (if why ≠ 0 then ([], fpInf, false) else checkToken q p.h ue.1 sc.1 (nm.1.getD 0 0) (tb.map (·.1)),
      used || sc.2 || nm.2)
  let s := res.zipIdx.foldl (fun s e =>
    let s := s.putList o (itemAt q.rout q.pitch e.2) (e.1.1.1.map Int.ofNat) e.1.2
    if q.eout = 0 then s else s.putCodes o (itemAt q.eout 4 e.2) [e.1.1.2.1] e.1.2) s
  let n := res.foldl (fun n e => n + e.1.1.length) 0
  s.putValue o.status 8 (statusWord (why ≠ 0) false (res.any fun e => e.1.2.2) why n) false

/-! ## Start and completion -/

/-- `PREDICTOR_START`: the oldest instruction of a cluster's predictor starts (14 R289). -/
def execPredictorStart (cl : Nat) (s : State) : Out :=
  .next (match (s.cluster cl).preds with
    | o :: t => if o.started then s else s.setCluster cl { s.cluster cl with preds := { o with started := true } :: t }
    | [] => s)

/-- The ranges that an instruction reads: its input regions and lists. -/
def PredOp.reads (o : PredOp) : List (Word × Nat) :=
  let ins := fun (rs : List PReg) => (rs.filter fun r => !r.out).map fun r => (r.va, r.n)
  let heads := o.counts.map (·.1)
  if o.kind = 0 then ins (predRegs o.desc 0)
  else if o.kind = 1 then ins (listRegs (unionLists o.desc) heads)
  else
    let p := predDesc o.pdesc
    ins ([PReg.input 0 p.sout (4 * p.h * p.t), PReg.input 0 p.nout (4 * p.t)]
      ++ listRegs [(1, (checkDesc o.desc).ulist)] heads ++ checkRegs o.desc p 0)

/-- `PREDICTOR_COMPLETION`: results, status, and `mx` falls (14 R290, R302); it waits for input lines that an L1 owns. -/
def execPredictorCompletion (cl : Nat) (s : State) : Out :=
  .next (match (s.cluster cl).preds with
    | o :: t =>
      if !o.started then s
      else s.atTurns (.ctx o.uid) (s.ownedLines o.pages o.reads) true <|
        let s := s.meetsIn o.uid o.winBase o.reads
        let s := if o.kind = 0 then s.runPred o else if o.kind = 1 then s.runUnion o else s.runCheck o
        (s.setCluster cl { s.cluster cl with preds := t }).modUid o.uid fun c => c.uncount .mx
    | [] => s)

end Sys2Proof.Machine
end

