-- ==== Sys2Proof/Machine/Reliab.lean ====
section
/-! DEFINITION. Errors and their treatment (20 R400; 03 R69), failed and retired units (20 R402), trips and resets of the
device (20 R404; 06 R123), and start-up (20 R405, R406). Unit numbers beside cores and engines: 2^20 + h is slice h,
2^21 + c is cluster c, 2^22 + 128 d + t is HBM4 target t of die d. -/
namespace Sys2Proof.Machine

/-! ## Marking lines -/

/-- The home marks a line, counts it and writes a record (03 R69); a future load that waits for the line waits no more (R70). Lines of
the host have no home slice. A line that is marked already keeps its mark and is not counted again; the error has its record all the
same (20 R399; DESIGN CHOICE, L75). -/
def State.markLine (s : State) (line : Nat) (m : Mark) (src unit : Nat) : State :=
  let a := s.canon (line * 128)
  let sev := if m == .lost then 2 else 1
  if s.mark (a / 128) != .clean then s.mcRecord src sev a unit 0
  else
    let s := s.setMark (a / 128) m
    let s := if isHost a then s else (s.bump (s.homeOf a) 4).wakeFld (s.homeOf a)
    s.mcRecord src sev a unit 0

/-- A line whose owner's bytes are gone: lost, with its directory entry freed and its queue answered (03 R54, R69). -/
def State.loseOwned (s : State) (u line : Nat) : State :=
  (((s.markLine line .lost 3 (unitCode u)).delLine u line).serveDir line).serveHost

/-! ## Corrected errors and the self-test -/

def State.modMgmt (s : State) (f : Mgmt → Mgmt) : State := { s with mgmt := f s.mgmt }

/-- `CORRECTED_ERROR`: the error is corrected and counted for its unit (20 R400). -/
def execCorrectedError (unit : Nat) (s : State) : Out :=
  .next (s.modMgmt fun g => { g with errors := Tbl.set 0 g.errors unit (Tbl.get 0 g.errors unit + 1) })

/-- The code of a unit in a record, and the source of its errors (20 R399). -/
def recordUnit (u : Nat) : Nat :=
  if u < 2 ^ 20 then unitCode u
  else if u < 2 ^ 21 then (u - 2 ^ 20) / 64 % 4
  else if u < 2 ^ 22 then (u - 2 ^ 21) / 16 % 4 + (u - 2 ^ 21) % 16 * 4
  else (u - 2 ^ 22) / 128 % 4

def errorSource (u : Nat) : Nat := if u < 2 ^ 20 then 3 else if u < 2 ^ 21 then 2 else if u < 2 ^ 22 then 4 else 1

/-- `COUNTER_SAMPLE`: the management controller reads the counters; a unit with more than 1,024 corrected errors in one second
is due for the self-test, with a record of SEV 0 (20 R400); the second is a fixed window (DESIGN CHOICE, L90). -/
def execCounterSample (s : State) : Out :=
  .next (
    let g := s.mgmt
    let high := g.errors.filter fun e => 1024 < e.2 - Tbl.get 0 g.samples e.1 && !g.testDue.contains e.1
    let s := high.foldl (fun s e => s.mcRecord (errorSource e.1) 0 0 (recordUnit e.1) 0) s
    s.modMgmt fun g =>
      let g := { g with testDue := g.testDue ++ high.map (·.1) }
      if g.sampleAt + 1900000000 ≤ s.clk then { g with samples := g.errors, sampleAt := s.clk } else g)

/-- The spares of a unit's kind: the count that is mapped in, and how many are built (01 R14). An HBM4 stack has spare channels of
its own, whose number the spec does not give. -/
def spareKey (u : Nat) : Nat × Nat :=
  if u < 2 ^ 20 then (if u % 128 < 64 then (clusterOfUnit u, 4) else (2 ^ 22, 0))
  else if u < 2 ^ 21 then (2 ^ 20 + (u - 2 ^ 20) / 64, 2)
  else (2 ^ 21 + (u - 2 ^ 21) / 16, 1)

/-- A unit of HBM4: its data goes to a spare row or channel of its stack, and the target keeps its number (20 R402). -/
def isHbmUnit (u : Nat) : Bool := decide (2 ^ 22 ≤ u)

/-- The unit that a retirement takes: an engine is spared with its cluster only (01 R14). -/
def sparedWith (u : Nat) : Nat := if u < 2 ^ 20 && 64 ≤ u % 128 then 2 ^ 21 + clusterOfUnit u else u

/-- A spare of a unit's kind is left. -/
def Mgmt.hasSpare (g : Mgmt) (u : Nat) : Bool := Tbl.get 0 g.spares (spareKey u).1 < (spareKey u).2

/-- The cores and engines of a unit number. -/
def unitMembers (u : Nat) : List Nat :=
  if u < 2 ^ 20 then [u]
  else if u < 2 ^ 21 || isHbmUnit u then []
  else (List.range 68).map ((u - 2 ^ 21) * 128 + ·)

/-- A unit number belongs to a unit: it is that unit, or a core, an engine or a Dray of that cluster. -/
def partOf (u x : Nat) : Bool := x == u || (2 ^ 21 ≤ u && u < 2 ^ 22 && x < 2 ^ 20 && clusterOfUnit x == u - 2 ^ 21)

/-- What a unit is known by under another number: that of `u` where it is `v` or part of it; what was known of `u` goes. -/
def renumber (u v x : Nat) : Option Nat :=
  if partOf v x then some (if x = v then u else (u - 2 ^ 21) * 128 + x % 128)
  else if partOf u x then none
  else some x

def Tbl.rekey {α : Type} [DecidableEq α] (d : α) (f : Nat → Option Nat) (t : Tbl α) : Tbl α :=
  t.foldl (fun t e => match f e.1 with
    | some k => Tbl.set d t k e.2
    | none => t) []

/-- The management controller's records of physical units, under new numbers. -/
def Mgmt.rekey (g : Mgmt) (f : Nat → Option Nat) : Mgmt :=
  { g with errors := Tbl.rekey 0 f g.errors, samples := Tbl.rekey 0 f g.samples, tested := Tbl.rekey 0 f g.tested,
           usedAt := Tbl.rekey 0 f g.usedAt, testDue := g.testDue.filterMap f, retired := g.retired.filterMap f }

/-- What is known of a unit's parts goes with it: a spare brings parts of its own, a cluster 64 cores and four spare ones (01 R14). -/
def Mgmt.fresh (g : Mgmt) (u : Nat) : Mgmt :=
  let g := g.rekey fun x => if partOf u x then none else some x
  if 2 ^ 21 ≤ u then { g with spares := Tbl.set 0 g.spares (u - 2 ^ 21) 0 } else g

/-- A spare takes the logical number of a unit, or, where none is left, the unit leaves the active counts (20 R402). Its number is then
unused until no running launch is in the way (DESIGN CHOICE, L45). A data copy keeps an HBM4 target in use. -/
def Mgmt.withdraw (g : Mgmt) (u : Nat) : Mgmt :=
  let key := (spareKey u).1
  let g := { g with testDue := g.testDue.filter fun x => !partOf u x, moving := g.moving.filter (·.1 != u) }
  if isHbmUnit u then g
  else if g.hasSpare u then { g.fresh u with spares := Tbl.set 0 (g.fresh u).spares key (Tbl.get 0 g.spares key + 1) }
  else if g.retired.contains u then g else { g with retired := g.retired ++ [u] }

def State.withdraw (s : State) (u : Nat) : State := s.modMgmt fun g => g.withdraw (sparedWith u)

/-- The step of a start that is made while the built units are tested (20 R401). -/
def Mgmt.testing (g : Mgmt) : Bool := g.bootAt.isSome && (bits 0 5 g.bootst).toNat == 3

/-- The clk of a unit's last test: its own, or that of all built units at a start (20 R401, R402). -/
def Mgmt.lastTest (g : Mgmt) (u : Nat) : Nat := max (Tbl.get 0 g.tested u) g.allTested

/-- A unit is tested: in start-up, when it is scheduled, when it is being retired, after 100,000 clk without use, and after 24 hours
(20 R401, R402). An engine and a Dray are tested by themselves, and retired with their cluster. -/
def Mgmt.mayTest (g : Mgmt) (u clk : Nat) : Bool :=
  g.testing || g.testDue.contains u || g.moving.any (·.1 == sparedWith u) || Tbl.get 0 g.usedAt u + 100000 ≤ clk
    || g.lastTest u + 24 * 3600 * 1900000000 ≤ clk

/-- The contexts of units that a retirement saves: all but the handler sets, whose queues move with the core (20 R402). -/
def State.moveCtxs (s : State) (us : List Nat) : List Nat :=
  s.ctxs.filterMap fun e => if us.contains (unitOf e.1) && !isHandler e.1 && e.2.status == .resident then some e.1 else none

/-- A unit holds a context, or a handler set that runs a task. -/
def State.holdsWork (s : State) (u : Nat) : Bool :=
  s.ctxs.any fun e => unitOf e.1 == u && e.2.status != .vacant && (!isHandler e.1 || e.2.task.isSome)

/-- The work of a unit has left it: no context is left but idle handler sets, and no line, queued store or request at a slice. Armed regions
have ended by then (06 R123). -/
def State.moved (s : State) (u : Nat) : Bool :=
  if u < 2 ^ 20 || 2 ^ 21 ≤ u then
    (unitMembers u).all fun v => !s.holdsWork v && (Tbl.get [] s.storeQ v).isEmpty && !s.unitWriting v
      && ((s.l1 v).all fun l => l.st == .valid)
  else (s.slice (u - 2 ^ 20)).waiting.isEmpty

/-- The retirement of a unit, or of its cluster with it, goes on (20 R402): the contexts are to be saved where a spare takes them, else they stay
to their end, and no new work comes (DESIGN CHOICE, L45); once they are gone the lines are written back, and then the unit is withdrawn,
with a record that names the one that failed. A slice completes its queue; its tables pass to the spare as they are. -/
def State.retireStep (s : State) (unit : Nat) : State :=
  let u := sparedWith unit
  if s.moved u then (s.withdraw u).mcRecord 7 3 0 (recordUnit unit) 0
  else
    let us := unitMembers u
    if us.any s.holdsWork then
      (if s.mgmt.hasSpare u then (s.moveCtxs us).foldl (fun s k => s.modCtx k Ctx.ask) s else s)
    else us.foldl (fun s v => s.flushUnit v) s

/-- `UNIT_SELF_TEST`: a unit that passes goes on; one that fails is replaced by a spare at start-up, and in the field its work and
its logical number pass to a spare; the data of HBM4 is first copied, in which time accesses wait (20 R401, R402). -/
def execUnitSelfTest (unit : Nat) (pass : Bool) (s : State) : Out :=
  .next (
    let u := sparedWith unit
    if !s.mgmt.mayTest unit s.clk then s
    else if pass then s.modMgmt fun g => { g with testDue := g.testDue.filter (· != unit), tested := Tbl.set 0 g.tested unit s.clk }
    else if s.mgmt.testing then (s.withdraw u).mcRecord 7 3 0 (recordUnit unit) 0
    else if s.mgmt.retired.contains u then s
    else if s.mgmt.moving.any (·.1 == u) then s.retireStep unit
    else
      let s := s.modMgmt fun g => { g with moving := g.moving ++ [(u, g.hasSpare u)] }
      if isHbmUnit u then s else s.retireStep unit)

/-! ## Dense numbers -/

/-- The last logical number of a unit's kind in its die or cluster that is not retired. -/
def Mgmt.lastOf (g : Mgmt) (u : Nat) : Nat :=
  let n := if u < 2 ^ 20 then 128 else 16
  let base := if u < 2 ^ 20 then u / 128 * 128 else 2 ^ 21 + (u - 2 ^ 21) / 16 * 16
  (((List.range (min n 64)).reverse.map (base + ·)).find? fun x => !g.retired.contains x).getD u

/-- A retired core or cluster leaves no gap (01 R15): the unit with the last number takes its number, at a moment when no launch runs whose
placement that would change (20 R402) and both have no work; slices keep the numbers that the home function gives them (DESIGN CHOICE,
L45). -/
def State.closeGap (s : State) (u : Nat) : State :=
  let v := s.mgmt.lastOf u
  let runs := s.launches.any fun e => e.2.any (·.admitted)
  if (2 ^ 20 ≤ u && u < 2 ^ 21) || v ≤ u || !s.mgmt.retired.contains u || runs || s.mgmt.moving.any (fun e => partOf v e.1) || !s.moved v
    || !s.moved u then s
  else s.modMgmt fun g =>
    let n := Tbl.get 0 g.spares (v - 2 ^ 21)
    let g := { g.rekey (renumber u v) with retired := (g.rekey (renumber u v)).retired.filter (· != u) ++ [v] }
    if 2 ^ 21 ≤ u then { g with spares := Tbl.set 0 (Tbl.set 0 g.spares (u - 2 ^ 21) n) (v - 2 ^ 21) 0 } else g

def State.closeGaps (s : State) : State := s.mgmt.retired.foldl (fun s u => s.closeGap u) s

/-! ## Units that fail -/

/-- The contexts of a unit end (20 R402): nothing of them runs on, their transfers are cancelled (04 R90), and the launches that their
handler task holds are discarded, with the accounting on their barrier objects (04 R77). -/
def State.endContexts (s : State) (u : Nat) : State :=
  let mine := s.ctxs.filter fun e => unitOf e.1 == u && e.2.status != .vacant
  let uids := mine.map fun e => e.2.uid
  let s := mine.foldl (fun s e => ((e.2.task.map (·.held)).getD []).foldl (fun s h =>
    match h with
    | .launch x => s.discardLaunch x
    | _ => s) s) s
  let s := { s with ctxs := s.ctxs.filter fun e => unitOf e.1 != u, storeQ := Tbl.set [] s.storeQ u [] }
  uids.foldl (fun s uid => s.cancelAll uid) s

/-- The Dirty lines of a unit that fails (03 R69): where its tag array cannot be read they are lost without marking, with a record;
else those that its L1 can read are written back, and it reports the others, which are marked lost. -/
def State.failDirty (s : State) (u : Nat) : State :=
  let dirty := (s.l1 u).filter fun l => l.st == .dirty
  if dirty.isEmpty then s
  else
    let (s, n) := s.draw
    if Config.failing n then
      let hosts := (dirty.filter fun l => isHost (l.line * 128)).map (·.line)
      { s.mcRecord 7 2 0 (unitCode u) 0 with port := { s.port with lost := s.port.lost ++ hosts } }
    else dirty.foldl (fun s l =>
      let (s, n) := s.draw
      if Config.failing n then (s.markLine l.line .lost 3 (unitCode u)).delLine u l.line
      else (s.sendBack u l 0 none).delLine u l.line) s

/-- A core or an engine is declared failed: the lines that it owns are lost, its Dirty bytes go as they can, and its contexts end
(03 R69; 06 R123; 20 R402). -/
def State.failUnit (s : State) (u : Nat) : State :=
  let owned := s.slices.flatMap fun e => (e.2.dir.filter fun d => d.owner == u).map (·.line)
  let s := ((s.mcRecord 7 3 0 (unitCode u) 0).failDirty u).endContexts u
  (owned.foldl (fun s line => s.loseOwned u line) s).powerDown u

/-- The lines of an HBM4 target of a die: both lines of one granule in every 32 KiB (02 R30). -/
def targetLines (d t : Nat) : List Nat :=
  (List.range (2 ^ 23)).flatMap fun b =>
    let g := t ^^^ (b % 128) ^^^ (b / 2 ^ 7 % 128) ^^^ (b / 2 ^ 14 % 128)
    let line := d * 2 ^ 31 + b * 256 + g * 2
    [line, line + 1]

/-- An HBM4 channel fails without warning: every copy that it holds has an uncorrectable error (20 R402; 03 R69). -/
def State.failTarget (s : State) (d t : Nat) : State :=
  (targetLines d t).foldl (fun s line => s.markLine line .poisoned 1 d) s

/-- The lines of a slice's home. -/
def State.sliceLines (s : State) (h : Nat) : List Nat :=
  ((List.range (2 ^ 22)).filter fun f => s.homeOf (h / 64 * 2 ^ 38 + f * 65536) == h).flatMap fun f =>
    (List.range 512).map (h / 64 * 2 ^ 31 + f * 512 + ·)

/-- A slice fails without warning: the lines whose current copy it held are poisoned (20 R402; 03 R69). Which lines those are the model
does not hold (DESIGN CHOICE, L60). -/
def State.failSlice (s : State) (h : Nat) : State :=
  (s.sliceLines h).foldl (fun s line =>
    let (s, n) := s.draw
    if Config.failing n then s.markLine line .poisoned 2 (recordUnit (2 ^ 20 + h)) else s) s

/-- `UNIT_DECLARED_FAILED`: a unit fails without warning (20 R402). -/
def execUnitDeclaredFailed (unit : Nat) (s : State) : Out :=
  .next (
    let s := if 2 ^ 20 ≤ unit then s.mcRecord 7 3 0 (recordUnit unit) 0 else s
    let s := if isHbmUnit unit then s.failTarget ((unit - 2 ^ 22) / 128 % 4) (unit % 128)
      else if 2 ^ 20 ≤ unit && unit < 2 ^ 21 then s.failSlice (unit - 2 ^ 20) else s
    ((unitMembers unit).foldl (fun s u => s.failUnit u) s).withdraw unit)

/-! ## Uncorrectable errors -/

/-- An uncorrectable error in an L1 or L1I line of a unit; a line that is read again from its home has a record with SEV 4, no data being
lost (20 R399, R400). -/
def State.l1Error (s : State) (u line : Nat) (modified : Bool) : State :=
  let noted := fun (s : State) => s.mcRecord 3 4 (line * 128) (unitCode u) 0
  match s.l1Line u line with
  | none =>
    if modified || !(s.l1iLines u).any (·.1 == line) then s
    else noted { s with l1i := Tbl.set [] s.l1i u (Tbl.set 0 (s.l1iLines u) line 0) }
  | some l =>
    match l.st with
    | .valid => if modified then s else noted (s.delLine u line)
    | .dirty => if modified then (s.markLine line .lost 3 (unitCode u)).delLine u line else s
    | .owned =>
      if !modified then s
      else
        let s := match s.leasedBy u line with
          | some k => s.breakRegion k
          | none => s
        s.loseOwned u line

/-- The poison that an uncorrectable error leaves in SRAM: a context that reads the byte meets the error (20 R400). -/
def State.sramError (s : State) (loc : Nat) : State :=
  let core := isCoreSram s.dies loc
  let seq := s.mgmt.mcSeq.toNat
  let unit := if core then unitCode (coreOf loc) else unitCode ((loc - 2 ^ 52) / 2 ^ 23 * 128)
  let s := s.mcRecord 4 1 (if core then loc / 128 * 128 else 0) unit 0
  (s.putByte loc (s.byte loc) true).modMgmt fun g => { g with badBytes := g.badBytes ++ [(loc, seq)] }

/-- Poison on a register, with a machine check for its context. Registers count as in `Instr.regs`. -/
def State.regError (s : State) (k lane r : Nat) : State :=
  let c := s.ctx k
  if c.status != .resident then s
  else
    let seq := s.mgmt.mcSeq
    let s := s.mcRecord 3 1 0 (unitCode (unitOf k)) c.ctxid.toNat
    s.modCtx k fun c =>
      let c := c.raiseCheck seq
      if r < 32 then c.modLane lane fun l => l.wx r { (l.rx r) with p := r != 0 }
      else if r < 64 then c.modLane lane fun l => l.wf (r - 32) { (l.rf (r - 32)) with p := true }
      else { c with w := Tbl.set WReg.zero c.w (r - 64) { (Tbl.get WReg.zero c.w (r - 64)) with p := 255 } }

/-- `UNCORRECTABLE_ERROR` (20 R400): site 0 a Valid L1 or L1I line and 1 Dirty or Owned bytes, both at unit + 2^16 × line; 2 a
slice copy and 3 an HBM4 copy of a line; 4 an SRAM byte; 5 a register, at (place × 64 + lane) × 128 + register; 6 the host port,
which the next signal meets (17 R347; DESIGN CHOICE, L8). -/
def execUncorrectableError (site index : Nat) (s : State) : Out :=
  .next (match site with
    | 0 => s.l1Error (index % 2 ^ 16) (index / 2 ^ 16) false
    | 1 => s.l1Error (index % 2 ^ 16) (index / 2 ^ 16) true
    | 2 => if isHbm s.dies (index * 128) then s.markLine index .poisoned 2 (homeDie (index * 128)) else s
    | 3 => if isHbm s.dies (index * 128) then s.markLine index .poisoned 1 (homeDie (index * 128)) else s
    | 4 => if isWindowLoc index || isCoreSram s.dies index then s.sramError index else s
    | 5 => s.regError (index / 8192) (index / 128 % 64) (index % 128)
    | 6 => s.modMgmt fun g => { g with hostFails := true }
    | _ => s)

/-! ## Start-up -/

def bootStage (g : Mgmt) : Nat := (bits 0 4 g.bootst).toNat
def bootReady (g : Mgmt) : Bool := g.bootst.getLsbD 4
def bootFails (g : Mgmt) : Nat := (bits 6 2 g.bootst).toNat

def bootWord (stage : Nat) (ready mini : Bool) (fails reason : Nat) : Word :=
  BitVec.ofNat 64 (stage + (if ready then 16 else 0) + (if mini then 32 else 0) + fails * 64 + reason * 256)

/-- The start has failed: it is counted, with its reason; STAGE names the last step that it reached (20 R398, R405). -/
def Mgmt.failStart (g : Mgmt) (reason : Nat) : Mgmt :=
  { g with bootst := bootWord (bootStage g) false (g.bootst.getLsbD 5) (min (bootFails g + 1) 3) reason, bootAt := none }

/-! ## Trips and resets -/

/-- Break every region of some units and write back what their L1s hold (06 R123). -/
def State.breakAndFlush (s : State) (us : List Nat) : State :=
  us.foldl (fun s u => (unitPlaces u).foldl (fun s k => s.breakRegion k) s |>.flushUnit u) s

/-- `THERMAL_TRIP`: the power manager lowers an operating point, or gates the island: regions break, lines are written back, and
when the writes are acknowledged the contents are lost and the contexts end (20 R404; 06 R123). -/
def execThermalTrip (island : Nat) (point : BitVec 4) (gate : Bool) (s : State) : Out :=
  .next (
    let v := s.island island
    if !gate then (if point.toNat < v.point.toNat then s.setIsland island (v.setPoint s.clk point) else s)
    else if 48 ≤ island % 64 || v.gated then s
    else
      let us := islandUnits island
      let s := s.breakAndFlush us
      if us.any s.unitWriting then s
      else (us.foldl (fun s u => (s.endContexts u).powerDown u) s).setIsland island { v with gated := true })

/-- Every write that is on its way reaches its home, those of marked lines last: the end of the write-backs of a reset. -/
def State.drainWrites (s : State) : State :=
  let s := s.inFlight.foldl (fun s m =>
    match m.body with
    | .write _ _ line data mask poison home _ _ => s.mergeLine line data mask poison home
    | .giveUp _ _ line data mask poison _ => s.mergeLine line data mask poison .cached
    | .recallRep _ line data mask poison => s.mergeLine line data mask poison .cached
    | _ => s) s
  s.inFlight.foldl (fun s m =>
    match m.body with
    | .marked _ u l _ _ _ =>
      let (s, dest) := s.retranslated u l
      (match dest with
       | some (line, home) => s.mergeLine line l.data l.mask l.poison home
       | none => s)
    | _ => s) s

/-- Dirty lines of the host that a unit holds at the limit of a reset are written back with CXL poison (19 R393); which they are the spec
leaves open (DESIGN CHOICE, L73). -/
def State.lateHost (s : State) (u : Nat) : State :=
  if !s.mgmt.cxl then s
  else ((s.l1 u).filter fun l => l.st == .dirty && isHost (l.line * 128) && !l.marked).foldl (fun s l =>
    let (s, n) := s.draw
    if Config.pastLimit n then (s.mergeLine l.line l.data l.mask l.mask .uncached).delLine u l.line else s) s

/-- The reset of the package: regions break, Owned and Dirty lines are written back, and the machine starts over with its HBM4,
its marks, the count of failed starts and the units that are retired, whose spares stay mapped; a start that goes on has stopped before step 7
and counts as failed, with no reason of its own (06 R123; 19 R393; 20 R401, R405; DESIGN CHOICE, L45, L75). -/
def State.resetAll (s : State) : State :=
  let us := (s.l1d.map (·.1))
  let t := ((s.ctxs.map (·.1)).foldl (fun s k => s.breakRegion k) s)
  let t := (us.foldl (fun s u => (s.lateHost u).flushUnit u) t).drainWrites
  let keep := fun (a : Nat) => !isWindowLoc a && !isCoreSram s.dies a
  let g := if s.mgmt.bootAt.isSome then s.mgmt.failStart (bits 8 8 s.mgmt.bootst).toNat else s.mgmt
  { State.reset with
    cur := s.cur, agenda := s.agenda, clk := s.clk, fresh := s.fresh, dies := s.dies,
    mem := t.mem.filter fun e => keep e.1, memPoison := t.memPoison.filter fun e => keep e.1, fullBits := t.fullBits,
    marks := t.marks, port := { HostPort.reset with sent := t.port.sent },
    mgmt := { Mgmt.reset with bootst := g.bootst &&& 0xFFC0#64, bootAt := some s.clk, retired := g.retired, spares := g.spares } }

/-- `DEVICE_RESET`: of the package, or of one core (06 R123). -/
def execDeviceReset (core : Option Nat) (s : State) : Out :=
  .next (match core with
    | none => s.resetAll
    | some u =>
      if 64 ≤ u % 128 then s
      else
        let s := s.breakAndFlush [u]
        if s.unitWriting u then s else (s.endContexts u).powerDown u)

/-- A start-up step passes (20 R405, R406). The fourth is the test of every built unit: those that fail it are named by `UNIT_SELF_TEST`
before the step passes, and the others have passed (20 R401; DESIGN CHOICE, L45). A die has four Span ports (01 R14). After three failed
starts, the first step sets MINI, and the Span ports stay untrained. -/
def State.startStep (s : State) (stage ports pkg : Nat) : State :=
  let g := s.mgmt
  let mini : Bool := if stage = 1 then decide (bootFails g = 3) else g.bootst.getLsbD 5
  let reason := (bits 8 8 g.bootst).toNat
  let fails := if stage = 7 then 0 else bootFails g
  let s := s.modMgmt fun g => { g with bootst := bootWord stage (stage = 7) mini fails reason }
  if stage = 2 && pkg = 1 then { s with dies := 1 }
  else if stage = 2 && pkg = 4 then { s with dies := 4 }
  else if stage = 4 then s.modMgmt fun g => { g with allTested := s.clk, testDue := [] }
  else if stage = 6 then
    let up := if mini then 0 else min (ports % 32) (4 * s.dies)
    s.modMgmt fun g => { g with cxl := ports / 32 % 2 = 1,
                                podcfg := if mini then 0 else podcfgWith (BitVec.ofNat 64 (pkg % 256)) up,
                                portsDown := span up (16 - up) }
  else if stage = 7 then { s with idCount := BitVec.ofNat 46 (s.dies * 1024 + 1), mgmt := { s.mgmt with bootAt := none } }
  else s

/-- The active counts of every die are met: no unit that failed its test is left without a spare, among those that the start brings up
(20 R401, R405, R406). -/
def Mgmt.countsMet (g : Mgmt) : Bool :=
  let mini := g.bootst.getLsbD 5
  g.retired.all fun u => mini &&
    (if u < 2 ^ 20 then clusterOfUnit u % 16 ≠ 0
     else if u < 2 ^ 21 then 4 ≤ (u - 2 ^ 20) % 64 else (u - 2 ^ 21) % 16 ≠ 0)

/-- The reason for which a step fails, 0 where it passes: the checks of the image, the dies found, the training, and the active counts;
`none` where the step cannot fail so (20 R405). -/
def Mgmt.stepReason (g : Mgmt) (stage reason pkg : Nat) : Option Nat :=
  if stage = 2 && (pkg = 2 || pkg = 3) then some 6
  else if stage = 4 then some (if g.countsMet then 0 else 5)
  else if reason = 0 || (stage = 1 && reason ≤ 2) || (stage = 3 && (reason = 3 || reason = 4)) then some reason
  else none

/-- A step may come next: the first where no start goes on, else the one after the last. -/
def Mgmt.nextStage (g : Mgmt) (stage : Nat) : Bool :=
  !bootReady g && stage ≤ 7 && stage = (if g.bootAt.isSome then bootStage g + 1 else 1)

/-- `START_UP`: the next step of the start, with the reason where it fails; `ports` counts the trained Span ports, plus 32 in
CXL mode; at step 2 `pkg` is the number of dies found, and at step 6 the package number (20 R405). -/
def execStartUp (stage : Nat) (reason : BitVec 8) (ports pkg : Nat) (s : State) : Out :=
  .next (
    if !s.mgmt.nextStage stage then s
    else match s.mgmt.stepReason stage reason.toNat pkg with
      | none => s
      | some 0 => (s.modMgmt fun g => { g with bootAt := some (g.bootAt.getD s.clk) }).startStep stage ports pkg
      | some r => s.modMgmt fun g => g.failStart r)

/-- `START_UP_WATCHDOG_EXPIRY`: a start that has not become ready within 10 s counts as failed with reason 7 (20 R405). -/
def execStartUpWatchdogExpiry (s : State) : Out :=
  .next (match s.mgmt.bootAt with
    | some t => if bootReady s.mgmt || s.clk < t + 19000000000 then s else s.modMgmt fun g => g.failStart 7
    | none => s)

end Sys2Proof.Machine
end

