-- ==== Sys2Proof/Machine/Fetch.lean ====
section
/-! DEFINITION. Instruction fetch (05 R104; 02 R45), and the events that are due at an instruction boundary
(18 R368, R379, R380; 15 R317, R319). -/
namespace Sys2Proof.Machine

/-! ## Fetch -/

/-- The result of a fetch: a word, a trap with its `tval`, or a wait (a walk, or the recall of a line). -/
inductive Fetched where
  | word (w : BitVec 32) (s : State)
  | fault (cause : Nat) (tval : Word)
  | wait (s : State)

/-- The four bytes of an instruction at a location. -/
def State.fetchBytes (s : State) (loc : Nat) : BitVec 32 :=
  wordOfBytes (s.byte loc) (s.byte (loc + 1)) (s.byte (loc + 2)) (s.byte (loc + 3))

/-- Install a line in an L1I of 32 sets, 4 ways for a core and 8 for an engine (05 R101). -/
def State.installI (s : State) (u line : Nat) (d : LineBits) : State :=
  let t := s.l1iLines u
  let same := t.filter fun (e : Nat × LineBits) => e.1 % 32 == line % 32
  if (if u % 128 < 64 then 4 else 8) ≤ same.length then
    let (s, n) := s.draw
    let v := (same.getD (Config.victim n % same.length) (line, 0)).1
    { s with l1i := Tbl.set [] s.l1i u (Tbl.set 0 (Tbl.set 0 t v 0) line d) }
  else { s with l1i := Tbl.set [] s.l1i u (Tbl.set 0 t line d) }

/-- A fetch of a context that reads a home takes its turn there (03 R53). -/
def State.turnToFetch (s : State) (k loc : Nat) (go : Fetched) : Fetched :=
  let who := Agent.ctx (s.ctx k).uid
  if s.atHome loc then go
  else if s.heldFor who loc then
    match go with
    | .word w t => .word w (t.pass who loc)
    | r => r
  else .wait (s.askLine who loc true)

/-- Fetch the word at a translated address. Cached code is read through the L1I, other code at the place where it lives;
a line that an L1 owns is recalled first (03 R54), and a core-pinned page comes behind the owner atomics that wait (05 R99). -/
def State.fetchAt (s : State) (k : Nat) (va : Word) (p : Spot) : Fetched :=
  let u := unitOf k
  let a := s.canon p.loc
  match p.home with
  | .reduction | .device | .window => .fault 1 va
  | .core => if !(s.core (coreOf a)).owners.isEmpty then .wait s else .word (s.fetchBytes a) (s.meets (s.ctx k).uid a 4)
  | .uncached | .future => s.turnToFetch k a (.word (s.fetchBytes a) s)
  | .cached =>
    let t := s.l1iLines u
    if t.any fun e => e.1 == a / 128 then
      let d := Tbl.get 0 t (a / 128)
      .word (BitVec.ofNat 32 (d.toNat / 256 ^ (a % 128))) s
    else
      s.turnToFetch k a (.word (s.fetchBytes a) (s.installI u (a / 128) (BitVec.ofNat 1024 (s.value (a / 128 * 128) 128))))

/-- Fetch the next instruction of a context. -/
def State.fetch (s : State) (k : Nat) : Fetched :=
  let pc := (s.ctx k).nextPc
  if pc.toNat % 4 ≠ 0 then .fault 0 pc
  else match s.xlat k 2 pc with
    | .fault c v => .fault c v
    | .miss v => .wait (s.startWalk k 2 v)
    | .ok p => s.fetchAt k pc p

/-! ## Events at a boundary -/

/-- Interrupts that are pending for a context, whether or not they are enabled (15 R317; 18 R367). -/
def Ctx.pending (c : Ctx) : Bool := c.csr.mip != 0 || c.preempt || c.mcPend.isSome || !c.uPend.isEmpty

/-- The context waits in `wfi`, out of issue (15 R317). -/
def Ctx.waits (c : Ctx) : Bool := c.wfi && !c.pending

/-- An event of steps 2 and 6 waits for the return to U mode, and for the end of a lease region (06 R123; 18 R368). -/
def Ctx.openU (c : Ctx) : Bool := c.mode = .u && c.region.isNone

def Ctx.dwDue (c : Ctx) : Bool := c.pendDw && c.openU
def Ctx.pxDue (c : Ctx) : Bool := c.pendPx && c.openU

/-- The standard interrupts in the order of the privileged architecture. -/
def irqOrder : List Nat := [11, 3, 7, 9, 1, 5]

/-- The interrupt to take at a boundary: M-level ones first, then S-level ones, pre-emption last (18 R368). -/
def Ctx.irqDue (c : Ctx) : Option Nat :=
  if c.region.isSome then none
  else
    let on := fun n => c.csr.mip.getLsbD n && c.csr.mie.getLsbD n
    let mOn := c.mode != .m || c.csr.mstatus.getLsbD 3
    let sOn := c.mode = .u || (c.mode = .s && c.csr.mstatus.getLsbD 1)
    match irqOrder.find? fun n => on n && !c.csr.mideleg.getLsbD n && mOn with
    | some n => some n
    | none => irqOrder.find? fun n => on n && c.csr.mideleg.getLsbD n && sOn

/-- A save point in U mode (18 R379). -/
def Ctx.savePointU (c : Ctx) : Bool := c.mode = .u && c.region.isNone

/-- The pre-emption interrupt is due: the first save point of a request with `sie` bit 21 set (18 R380). -/
def Ctx.preIrqDue (c : Ctx) : Bool := c.preempt && c.savePointU && c.csr.mie.getLsbD 21 && !c.preTaken

/-- A hardware save is due (18 R379, R380). -/
def Ctx.saveDue (c : Ctx) : Bool :=
  c.preempt && ((c.savePointU && !c.preIrqDue) || (c.mode != .u && c.wfi))

/-- A user interrupt is due (15 R319). -/
def Ctx.userDue (c : Ctx) : Bool := !c.uPend.isEmpty && !c.inUser && c.openU

/-- The handler set stands between two tasks. -/
def Ctx.idleHandler (c : Ctx) (k : Nat) : Bool := isHandler k && c.lanes.isEmpty && c.task.isNone

/-- DEFERRED_WRITE has a boundary to be taken at: in the handler set only between tasks, with no aborted task (15 R324). -/
def Ctx.dwReady (c : Ctx) (k : Nat) (ready : Bool) : Bool := if isHandler k then c.idleHandler k && c.aborted.isNone else ready

/-- The event that is taken at the next boundary of a place, in the order of 18 R368. An event with lanes to enter waits for a
lane that is runnable; a crossed thread takes none but the save, and a context whose tag flush has no reply, or whose `sfence.vma` has
begun its broadcast (02 R46: it issues nothing until the last step ends), takes none. -/
def State.boundaryEvent (s : State) (p : Place) : Option Instr :=
  let k := p.key
  let c := s.ctx k
  let ready := !c.executing.isEmpty
  if c.status != .resident || c.flushWait || (s.shootOf c.uid).isSome then none
  else if c.crossed then (if c.preempt && c.savePointU then some (.hardwareSave p) else none)
  else if c.mcPend.isSome && ready then some (.machineCheck p)
  else if c.dwDue && c.dwReady k ready then some (.deferredWrite p)
  else if c.pxDue && (ready || c.idleHandler k) then some (.poisonExport p)
  else match (if ready then c.irqDue else none) with
    | some n => some (.interruptTaken p n)
    | none =>
      if c.preIrqDue && ready then some (.preemptionInterrupt p)
      else if c.saveDue || (c.preIrqDue && !ready) then some (.hardwareSave p)
      else if c.userDue && ready then some (.userInterrupt p)
      else if s.budgetDue k then some (.budgetExpiry p)
      else none

end Sys2Proof.Machine
end

