-- ==== Sys2Proof/Machine/Traps.lean ====
section
/-! DEFINITION. Trap entry and the events of an instruction boundary (18 R365 to R380; 15 R319), the hardware save and the resume
(18 R381 to R385), absent registers (15 R326), and the trap-handler watchdog (18 R378). -/
namespace Sys2Proof.Machine

/-! ## Traps and interrupts -/

/-- What comes before a trap of the next instruction: the end of a region whose budget is over. -/
def State.firstDue (s : State) (k : Nat) (go : State) : State := if (s.ctx k).expired (s.now k) then s.breakRegion k else go

/-- `TRAP_ENTRY`: the context that issues enters its trap handler (18 R366). The fetch of an instruction raises its faults here;
an instruction's own exceptions enter from its meaning. -/
def execTrapEntry (cause : Nat) (tval : BitVec 64) (s : State) : Out :=
  .next (
    let k := s.here
    let c := s.ctx k
    if c.status != .resident || c.executing.isEmpty || c.wfi || c.flushWait || c.crossed || (s.shootOf c.uid).isSome then s
    else s.firstDue k (s.trap k cause tval c.nextPc (c.trapLanes c.executing)))

/-- An event of a boundary, where it is the one that is due there (18 R368). -/
def atBoundary (s : State) (p : Place) (e : Instr) (go : Nat → Ctx → State) : Out :=
  .next (if s.boundaryEvent p = some e then go p.key (s.ctx p.key) else s)

/-- `INTERRUPT_TAKEN`: an M-level or S-level interrupt (18 R367, R368). -/
def execInterruptTaken (p : Place) (code : Nat) (s : State) : Out :=
  atBoundary s p (.interruptTaken p code) fun k _ => s.interrupt k code 0

/-- `MACHINE_CHECK`: interrupt 20 into M mode, with the record's sequence number. A second one before the `mret` of the first is
not taken: the unit is reset, and its contexts are treated as failed (18 R377). -/
def execMachineCheck (p : Place) (s : State) : Out :=
  atBoundary s p (.machineCheck p) fun k c =>
    if c.mcBusy.isSome || c.mcTwice then s.failUnit (unitOf k)
    else (s.interrupt k 20 (zext (c.mcPend.getD 0))).modCtx k fun c => { c with mcPend := none, mcBusy := some c.depth }

/-- `PREEMPTION_INTERRUPT`: interrupt 21 into S mode, at the first save point of a request (18 R380). -/
def execPreemptionInterrupt (p : Place) (s : State) : Out :=
  atBoundary s p (.preemptionInterrupt p) fun k _ => (s.interrupt k 21 0).modCtx k fun c => { c with preTaken := true }

/-- A handler set between two tasks takes a deferred trap on its lane 0; the PC that it reports is open. -/
def State.wakeHandler (s : State) (k : Nat) : State :=
  if (s.ctx k).idleHandler k then
    let (s, n) := s.draw
    s.modCtx k fun c => { c with lanes := [(0, { Lane.idle with st := .runnable, pc := Config.freeWord n })] }
  else s

/-- A pending deferred trap (18 R365, R375). -/
def State.deferredTrap (s : State) (k cause : Nat) (tval : Word) : State :=
  let s := s.wakeHandler k
  s.trap k cause tval (s.ctx k).nextPc (s.ctx k).executing

/-- `DEFERRED_WRITE`: cause 27, with the number of records held (18 R374, R375). -/
def execDeferredWrite (p : Place) (s : State) : Out :=
  atBoundary s p (.deferredWrite p) fun k c =>
    (s.modCtx k fun c => { c with pendDw := false }).deferredTrap k 27 (BitVec.ofNat 64 c.faultQ.length)

/-- `POISON_EXPORT`: cause 26, with FILE 3 and REG 0 (18 R375). -/
def execPoisonExport (p : Place) (s : State) : Out :=
  atBoundary s p (.poisonExport p) fun k _ =>
    (s.modCtx k fun c => { c with pendPx := false }).deferredTrap k 26 (poisonTval 3 0)

/-- The entry into a user-interrupt handler (15 R319). -/
def Ctx.enterUser (c : Ctx) (id : BitVec 16) (hdl : Word) : Ctx :=
  let ls := c.executing
  let csr := { c.csr with uepc := c.nextPc, ucause := 1, uxid := zext id }
  { (c.mapLanes fun i (l : Lane) =>
      if ls.contains i then { l with pc := hdl } else if l.st == .runnable then { l with st := .uint } else l) with
    csr := csr, inUser := true, uPend := c.uPend.drop 1, wfi := false }

/-- `USER_INTERRUPT`: a copy completion enters its handler at a U-mode boundary (15 R319; 04 R89): an acquiring set is Idle again (06 R122),
and the entry acquires the completion's release (04 R87; 16 R332). -/
def execUserInterrupt (p : Place) (s : State) : Out :=
  atBoundary s p (.userInterrupt p) fun k c =>
    match c.uPend.head? with
    | some (id, hdl) =>
      (((s.cancelWaits k).breakRegion k).acquire (unitOf k) (s.copyScope c.uid)).modCtx k fun c => c.enterUser id hdl
    | none => s

/-- `WATCHDOG_EXPIRY`: 1,000,000 clk in S mode trap into M mode with BUDGET and `tval` 2; in M mode a machine-check record is
written and the context goes on (18 R378). A context that waits for the last step of an `sfence.vma` takes it after that (02 R46). -/
def execWatchdogExpiry (p : Place) (s : State) : Out :=
  .next (
    let k := p.key
    let c := s.ctx k
    match c.dog with
    | none => s
    | some t =>
      if c.status != .resident || s.now k < t + 1000000 || (s.shootOf c.uid).isSome then s
      else
        let restart := fun (s : State) => s.modCtx k fun c => { c with dog := some (s.now k) }
        match c.mode with
        | .u => s
        | .m => restart (s.mcRecord 9 4 0 (unitCode (unitOf k)) c.ctxid.toNat)
        | .s =>
          if c.executing.isEmpty then s
          else
            let s := ((s.cancelWaits k).breakRegion k).abortTask k
            restart (s.enterIn k false false 28 2 (s.ctx k).nextPc (s.ctx k).executing))

/-! ## Hardware save -/

/-- The first free granule of a cluster's reserve (17 R355), as a location. -/
def State.reserveArea (s : State) (cl : Nat) : Option Nat :=
  let g := s.granules cl
  ((span g (128 - g)).find? fun g => s.granuleFree cl g).map fun g => windowLoc cl (g * 65536) 0

/-- The first free granule of the save pool (20 R403). The search looks at no more granules than are in use. -/
def State.poolArea (s : State) : Option Nat :=
  let base := (bits 16 36 s.mgmt.spbase).toNat * 65536
  let used := s.areasUsed
  ((List.range (min (bits 0 32 s.mgmt.spsize).toNat (used.length + 1))).map fun i => base + i * 65536).find? fun a =>
    isHbm s.dies a && !used.contains a

/-- The save area of a context: its own, or a new one; none where the pool is full (18 R382). -/
def State.areaFor (s : State) (k : Nat) : Option Nat :=
  match (s.ctx k).area with
  | some a => some a
  | none =>
    match s.reserveArea (clusterOf k) with
    | some a => some a
    | none => s.poolArea

/-- The context as it stands while it is saved; the watchdog keeps the clks that have passed. -/
def Ctx.saveState (c : Ctx) (area clk : Nat) : Ctx :=
  { c with area := some area, preempt := false, preTaken := false, wfi := false, phase := 0, look := [], walkFault := [],
           demoted := none, yieldTil := none, spin := Spin.none, dog := c.dog.map fun t => clk - t }

/-- `HARDWARE_SAVE` (18 R381): waiting instructions are cancelled, the outstanding loads return, the area is written, the tag entry
is Departed, and the place is free. A forced fence that is owed comes first. -/
def execHardwareSave (p : Place) (s : State) : Out :=
  atBoundary s p (.hardwareSave p) fun k _ =>
    let s := (s.cancelWaits k).breakRegion k
    let c := s.ctx k
    if !c.forced.isEmpty then s.forcedFence k
    else if s.awaiting c || c.blocked then s
    else match s.areaFor k with
      | none => s
      | some a =>
        let u := unitOf k
        let lines := areaLines (isWave k) a
        s.atTurns (.ctx c.uid) lines false <|
        let c := c.saveState a (s.now k)
        let s := (s.areaSave (isWave k) a c).setSaved a c
        ((s.keepTrap k).setTags u ((s.tagEnts u).map fun t =>
          if t.uid == c.uid && t.live then { t with live := false, area := some a } else t)).setCtx k Ctx.vacant

/-! ## Resume -/

/-- A launch whose units are saved may go on: in its floor slice, or where no launch is to come back in one and no launch of a higher
PRIO waits for room; a concurrent one only where it fits whole (17 R348, R354). -/
def State.mayResume (s : State) (l : Nat) (v : Launch) : Bool :=
  (v.inFloor s.clk
    || (!s.floorWaits && (!v.saved || !s.launches.any fun e => match e.2 with
      | some w => v.prio < w.prio && s.wantsRoom e.1 w
      | none => false)))
  && (v.cls ≠ 0 || s.allFit l)

/-- `CONTEXT_RESUME` (18 R385; 05 R107): the context is placed, it sends the tag flush when its unit differs from the old one, it
loads its blocks, and every register is absent. -/
def execContextResume (area : Nat) (p : Place) (s : State) : Out :=
  .next (
    let k := p.key
    let u := unitOf k
    let c := Tbl.get Ctx.vacant s.saved area
    let l := c.launch.bind fun l => (s.launch l).map fun v => (l, v)
    let free : Bool := match l with
      | some (l, v) => s.mayResume l v
      | none => true
    let lines := areaLines (isWave k) area
    if c.status != .resident || !s.fits c k || !free || s.unsynced c.uid then s
    else s.atTurns (.ctx c.uid) lines true <|
      let s := match l with
        | some (l, v) => if v.saved then s.setLaunch l (some { v with saved := false }) else s
        | none => s
      let s := s.setSaved area Ctx.vacant
      let away : Bool := c.tagUnit ≠ u
      let s := if away then s.send (freeLane s) 0 (.tagFlush c.tagUnit c.tagEnt c.ctxid c.uid c.uid) else s
      let s := match c.startAcq with
        | some sc => s.acquire u sc
        | none => s
      let d := s.areaLoad (isWave k) area c
      let dog := c.dog.map fun n => s.now k - n
      (s.setCtx k { d with tagUnit := u, flushWait := away, startAcq := none, tagAt := s.now k, dog := dog }).claimTag u c.uid c.ctxid)

/-! ## Absent registers -/

/-- `REGISTER_MISS`: the micro-trap of an absent register (15 R326). Where the fetch fails nothing comes: the instruction that uses the
register raises REGMISS. -/
def execRegisterMiss (p : Place) (lane file reg : Nat) (s : State) : Out :=
  .next (
    let k := p.key
    let r := file * 32 + reg
    let c := s.ctx k
    if c.status != .resident || c.flushWait || 32 ≤ reg || !Tbl.get false c.absent (lane * 128 + r) || s.fetchFails k lane r then s
    else s.fetchHome k lane r)

/-- `BACKGROUND_REGISTER_FETCH`: an absent register is fetched while the register file's port is idle (18 R385). -/
def execBackgroundRegisterFetch (p : Place) (lane file reg : Nat) (s : State) : Out :=
  .next (
    let k := p.key
    let r := file * 32 + reg
    let c := s.ctx k
    if c.status != .resident || c.flushWait || 32 ≤ reg || !Tbl.get false c.absent (lane * 128 + r) || s.fetchFails k lane r then s
    else s.fetchHome k lane r)

end Sys2Proof.Machine
end

