-- ==== Sys2Proof/Machine/Dispatch.lean ====
section
/-! DEFINITION. One arm per constructor of Instr: the direct call of its meaning. -/
namespace Sys2Proof.Machine

def exec (i : Instr) (s : State) : Host.Outcome State Fault Refusal :=
  match i with
  | .lui im d => Sys2Proof.Machine.execLui im d s
  | .auipc im d => Sys2Proof.Machine.execAuipc im d s
  | .jal im d => Sys2Proof.Machine.execJal im d s
  | .jalr im a d => Sys2Proof.Machine.execJalr im a d s
  | .branch j b a f k => Sys2Proof.Machine.execBranch j b a f k s
  | .load im a f d => Sys2Proof.Machine.execLoad im a f d s
  | .store j b a f k => Sys2Proof.Machine.execStore j b a f k s
  | .opImm im a f d => Sys2Proof.Machine.execOpImm im a f d s
  | .slli sh a d => Sys2Proof.Machine.execSlli sh a d s
  | .srli sh a d => Sys2Proof.Machine.execSrli sh a d s
  | .srai sh a d => Sys2Proof.Machine.execSrai sh a d s
  | .addiw im a d => Sys2Proof.Machine.execAddiw im a d s
  | .slliw sh a d => Sys2Proof.Machine.execSlliw sh a d s
  | .srliw sh a d => Sys2Proof.Machine.execSrliw sh a d s
  | .sraiw sh a d => Sys2Proof.Machine.execSraiw sh a d s
  | .op b a f d => Sys2Proof.Machine.execOp b a f d s
  | .sub b a d => Sys2Proof.Machine.execSub b a d s
  | .sra b a d => Sys2Proof.Machine.execSra b a d s
  | .op32 b a f d => Sys2Proof.Machine.execOp32 b a f d s
  | .subw b a d => Sys2Proof.Machine.execSubw b a d s
  | .sraw b a d => Sys2Proof.Machine.execSraw b a d s
  | .fence f p sh a d => Sys2Proof.Machine.execFence f p sh a d s
  | .fenceI im a d => Sys2Proof.Machine.execFenceI im a d s
  | .ecall => Sys2Proof.Machine.execEcall s
  | .ebreak => Sys2Proof.Machine.execEbreak s
  | .mul b a f d => Sys2Proof.Machine.execMul b a f d s
  | .div b a f d => Sys2Proof.Machine.execDiv b a f d s
  | .mulw b a d => Sys2Proof.Machine.execMulw b a d s
  | .divw b a f d => Sys2Proof.Machine.execDivw b a f d s
  | .shadd b a f d => Sys2Proof.Machine.execShadd b a f d s
  | .addUw b a d => Sys2Proof.Machine.execAddUw b a d s
  | .shaddUw b a f d => Sys2Proof.Machine.execShaddUw b a f d s
  | .slliUw sh a d => Sys2Proof.Machine.execSlliUw sh a d s
  | .andnOrnXnor b a f d => Sys2Proof.Machine.execAndnOrnXnor b a f d s
  | .minMax b a f d => Sys2Proof.Machine.execMinMax b a f d s
  | .rolRor b a f d => Sys2Proof.Machine.execRolRor b a f d s
  | .rolwRorw b a f d => Sys2Proof.Machine.execRolwRorw b a f d s
  | .rori sh a d => Sys2Proof.Machine.execRori sh a d s
  | .roriw sh a d => Sys2Proof.Machine.execRoriw sh a d s
  | .clzCtzCpopSext f a d => Sys2Proof.Machine.execClzCtzCpopSext f a d s
  | .clzwCtzwCpopw f a d => Sys2Proof.Machine.execClzwCtzwCpopw f a d s
  | .orcB a d => Sys2Proof.Machine.execOrcB a d s
  | .rev8 a d => Sys2Proof.Machine.execRev8 a d s
  | .zextH a d => Sys2Proof.Machine.execZextH a d s
  | .fpLoad im a f d => Sys2Proof.Machine.execFpLoad im a f d s
  | .fpStore j b a f k => Sys2Proof.Machine.execFpStore j b a f k s
  | .fpFused c t b a r d o => Sys2Proof.Machine.execFpFused c t b a r d o s
  | .fpArith o t b a r d => Sys2Proof.Machine.execFpArith o t b a r d s
  | .fsqrt t a r d => Sys2Proof.Machine.execFsqrt t a r d s
  | .fsgnj t b a f d => Sys2Proof.Machine.execFsgnj t b a f d s
  | .fminFmax t b a f d => Sys2Proof.Machine.execFminFmax t b a f d s
  | .fcvtSD a r d => Sys2Proof.Machine.execFcvtSD a r d s
  | .fcvtDS a r d => Sys2Proof.Machine.execFcvtDS a r d s
  | .fpCompare t b a f d => Sys2Proof.Machine.execFpCompare t b a f d s
  | .fcvtToInt t f a r d => Sys2Proof.Machine.execFcvtToInt t f a r d s
  | .fcvtFromInt t f a r d => Sys2Proof.Machine.execFcvtFromInt t f a r d s
  | .fmvX t a d => Sys2Proof.Machine.execFmvX t a d s
  | .fclass t a d => Sys2Proof.Machine.execFclass t a d s
  | .fmvToF t a d => Sys2Proof.Machine.execFmvToF t a d s
  | .csrrw c a d => Sys2Proof.Machine.execCsrrw c a d s
  | .csrrs c a d => Sys2Proof.Machine.execCsrrs c a d s
  | .csrrc c a d => Sys2Proof.Machine.execCsrrc c a d s
  | .csrrwi c u d => Sys2Proof.Machine.execCsrrwi c u d s
  | .csrrsi c u d => Sys2Proof.Machine.execCsrrsi c u d s
  | .csrrci c u d => Sys2Proof.Machine.execCsrrci c u d s
  | .sfenceVma b a => Sys2Proof.Machine.execSfenceVma b a s
  | .mret => Sys2Proof.Machine.execMret s
  | .sret => Sys2Proof.Machine.execSret s
  | .wfi => Sys2Proof.Machine.execWfi s
  | .ldAcq z sh a d => Sys2Proof.Machine.execLdAcq z sh a d s
  | .stRel z sh b a => Sys2Proof.Machine.execStRel z sh b a s
  | .amoW o q l b a d => Sys2Proof.Machine.execAmoW o q l b a d s
  | .amoD o q l b a d => Sys2Proof.Machine.execAmoD o q l b a d s
  | .amoFaddF32 q l b a d => Sys2Proof.Machine.execAmoFaddF32 q l b a d s
  | .amoFaddBf16 q l b a d => Sys2Proof.Machine.execAmoFaddBf16 q l b a d s
  | .amoCasW c b a d => Sys2Proof.Machine.execAmoCasW c b a d s
  | .amoCasD c b a d => Sys2Proof.Machine.execAmoCasD c b a d s
  | .lease2 c b a d => Sys2Proof.Machine.execLease2 c b a d s
  | .red o t b a => Sys2Proof.Machine.execRed o t b a s
  | .fld a d => Sys2Proof.Machine.execFld a d s
  | .fldD a d => Sys2Proof.Machine.execFldD a d s
  | .fst b a => Sys2Proof.Machine.execFst b a s
  | .fstD b a => Sys2Proof.Machine.execFstD b a s
  | .frst a => Sys2Proof.Machine.execFrst a s
  | .frstD a => Sys2Proof.Machine.execFrstD a s
  | .lease b a d => Sys2Proof.Machine.execLease b a d s
  | .lclose => Sys2Proof.Machine.execLclose s
  | .labort => Sys2Proof.Machine.execLabort s
  | .waitcnt a p => Sys2Proof.Machine.execWaitcnt a p s
  | .fenceOwn => Sys2Proof.Machine.execFenceOwn s
  | .fenceForce a => Sys2Proof.Machine.execFenceForce a s
  | .bseal b a => Sys2Proof.Machine.execBseal b a s
  | .bopen a => Sys2Proof.Machine.execBopen a s
  | .cwb a => Sys2Proof.Machine.execCwb a s
  | .cwbCtx => Sys2Proof.Machine.execCwbCtx s
  | .cinv a => Sys2Proof.Machine.execCinv a s
  | .pfL1 im a k => Sys2Proof.Machine.execPfL1 im a k s
  | .pfL2 im a => Sys2Proof.Machine.execPfL2 im a s
  | .barInit b a => Sys2Proof.Machine.execBarInit b a s
  | .barArrive a d => Sys2Proof.Machine.execBarArrive a d s
  | .barExpect b a => Sys2Proof.Machine.execBarExpect b a s
  | .barWait b a => Sys2Proof.Machine.execBarWait b a s
  | .barTry b a d => Sys2Proof.Machine.execBarTry b a d s
  | .msend n sh b a => Sys2Proof.Machine.execMsend n sh b a s
  | .hend => Sys2Proof.Machine.execHend s
  | .carm b a d => Sys2Proof.Machine.execCarm b a d s
  | .cdec a => Sys2Proof.Machine.execCdec a s
  | .spawn b a d => Sys2Proof.Machine.execSpawn b a d s
  | .migrateAddr a => Sys2Proof.Machine.execMigrateAddr a s
  | .migrateRank a => Sys2Proof.Machine.execMigrateRank a s
  | .uiret => Sys2Proof.Machine.execUiret s
  | .yield => Sys2Proof.Machine.execYield s
  | .qsend n b a => Sys2Proof.Machine.execQsend n b a s
  | .qrecv n q d => Sys2Proof.Machine.execQrecv n q d s
  | .qpoll q d => Sys2Proof.Machine.execQpoll q d s
  | .msave a n => Sys2Proof.Machine.execMsave a n s
  | .mrest a n => Sys2Proof.Machine.execMrest a n s
  | .rtabSet b a => Sys2Proof.Machine.execRtabSet b a s
  | .ctxTag a => Sys2Proof.Machine.execCtxTag a s
  | .islandQuery b a d => Sys2Proof.Machine.execIslandQuery b a d s
  | .islandSetPoint b a d => Sys2Proof.Machine.execIslandSetPoint b a d s
  | .islandGate b a d => Sys2Proof.Machine.execIslandGate b a d s
  | .islandUngate b a d => Sys2Proof.Machine.execIslandUngate b a d s
  | .wavego b a => Sys2Proof.Machine.execWavego b a s
  | .wret => Sys2Proof.Machine.execWret s
  | .wflush a => Sys2Proof.Machine.execWflush a s
  | .regroup a => Sys2Proof.Machine.execRegroup a s
  | .wsync => Sys2Proof.Machine.execWsync s
  | .voteAny a d => Sys2Proof.Machine.execVoteAny a d s
  | .voteAll a d => Sys2Proof.Machine.execVoteAll a d s
  | .ballot a d => Sys2Proof.Machine.execBallot a d s
  | .shfl b a d => Sys2Proof.Machine.execShfl b a d s
  | .shflXor b a d => Sys2Proof.Machine.execShflXor b a d s
  | .rdlane b a d => Sys2Proof.Machine.execRdlane b a d s
  | .quadSx a d => Sys2Proof.Machine.execQuadSx a d s
  | .quadSy a d => Sys2Proof.Machine.execQuadSy a d s
  | .quadSd a d => Sys2Proof.Machine.execQuadSd a d s
  | .quadBc im a d => Sys2Proof.Machine.execQuadBc im a d s
  | .ishelper d => Sys2Proof.Machine.execIshelper d s
  | .bxt b a d => Sys2Proof.Machine.execBxt b a d s
  | .trt b a d => Sys2Proof.Machine.execTrt b a d s
  | .vlW im a d => Sys2Proof.Machine.execVlW im a d s
  | .vsW im b a j => Sys2Proof.Machine.execVsW im b a j s
  | .vadd t b a d => Sys2Proof.Machine.execVadd t b a d s
  | .vsub t b a d => Sys2Proof.Machine.execVsub t b a d s
  | .vmul t b a d => Sys2Proof.Machine.execVmul t b a d s
  | .vmin t b a d => Sys2Proof.Machine.execVmin t b a d s
  | .vmax t b a d => Sys2Proof.Machine.execVmax t b a d s
  | .vbc t a d => Sys2Proof.Machine.execVbc t a d s
  | .bsort t a d => Sys2Proof.Machine.execBsort t a d s
  | .bmerge t b a d => Sys2Proof.Machine.execBmerge t b a d s
  | .vfma c t b a d => Sys2Proof.Machine.execVfma c t b a d s
  | .mma b a n => Sys2Proof.Machine.execMma b a n s
  | .mzero n => Sys2Proof.Machine.execMzero n s
  | .epi a n => Sys2Proof.Machine.execEpi a n s
  | .mlink a n => Sys2Proof.Machine.execMlink a n s
  | .pred a => Sys2Proof.Machine.execPred a s
  | .punion a => Sys2Proof.Machine.execPunion a s
  | .sparge a => Sys2Proof.Machine.execSparge a s
  | .mmaSp c b a n => Sys2Proof.Machine.execMmaSp c b a n s
  | .cplaunch d => Sys2Proof.Machine.execCplaunch d s
  | .cpstatSelect v => Sys2Proof.Machine.execCpstatSelect v s
  | .cpstatCancel v => Sys2Proof.Machine.execCpstatCancel v s
  | .cpstatRead d => Sys2Proof.Machine.execCpstatRead d s
  | .sdwqRead d => Sys2Proof.Machine.execSdwqRead d s
  | .sdwnDiscard => Sys2Proof.Machine.execSdwnDiscard s
  | .wendWrite cl v => Sys2Proof.Machine.execWendWrite cl v s
  | .cqDoorbell q v => Sys2Proof.Machine.execCqDoorbell q v s
  | .slpinWrite sl n v => Sys2Proof.Machine.execSlpinWrite sl n v s
  | .tunctlWrite cl v => Sys2Proof.Machine.execTunctlWrite cl v s
  | .registerWrite pa v => Sys2Proof.Machine.execRegisterWrite pa v s
  | .pageWalk die => Sys2Proof.Machine.execPageWalk die s
  | .tableLineReply k => Sys2Proof.Machine.execTableLineReply k s
  | .tlbShootdown k tlb => Sys2Proof.Machine.execTlbShootdown k tlb s
  | .sliceRead k => Sys2Proof.Machine.execSliceRead k s
  | .sliceWrite k => Sys2Proof.Machine.execSliceWrite k s
  | .ownershipRequest k => Sys2Proof.Machine.execOwnershipRequest k s
  | .giveUpOwnership k => Sys2Proof.Machine.execGiveUpOwnership k s
  | .recall k => Sys2Proof.Machine.execRecall k s
  | .recallReply k => Sys2Proof.Machine.execRecallReply k s
  | .taggedRequest k => Sys2Proof.Machine.execTaggedRequest k s
  | .bareAcknowledgement p home => Sys2Proof.Machine.execBareAcknowledgement p home s
  | .refusedResend k => Sys2Proof.Machine.execRefusedResend k s
  | .taggedResendTimeout k => Sys2Proof.Machine.execTaggedResendTimeout k s
  | .pathDeclaredFailed home => Sys2Proof.Machine.execPathDeclaredFailed home s
  | .fldResend k => Sys2Proof.Machine.execFldResend k s
  | .fldCancel k => Sys2Proof.Machine.execFldCancel k s
  | .l1Fill k => Sys2Proof.Machine.execL1Fill k s
  | .writeBackAck k => Sys2Proof.Machine.execWriteBackAck k s
  | .storeQueueDrain unit => Sys2Proof.Machine.execStoreQueueDrain unit s
  | .bankAccess k => Sys2Proof.Machine.execBankAccess k s
  | .coreSramAccess k => Sys2Proof.Machine.execCoreSramAccess k s
  | .tagFlush k => Sys2Proof.Machine.execTagFlush k s
  | .tagFlushReply k => Sys2Proof.Machine.execTagFlushReply k s
  | .lazyDrain unit entry => Sys2Proof.Machine.execLazyDrain unit entry s
  | .leaseArm p => Sys2Proof.Machine.execLeaseArm p s
  | .leaseExpiry p => Sys2Proof.Machine.execLeaseExpiry p s
  | .recallDeferralExpiry k => Sys2Proof.Machine.execRecallDeferralExpiry k s
  | .drayTransferStart dray => Sys2Proof.Machine.execDrayTransferStart dray s
  | .drayTileUnit x u => Sys2Proof.Machine.execDrayTileUnit x u s
  | .drayGatherUnit x u => Sys2Proof.Machine.execDrayGatherUnit x u s
  | .drayScatterUnit x u => Sys2Proof.Machine.execDrayScatterUnit x u s
  | .drayRowGatherUnit x u => Sys2Proof.Machine.execDrayRowGatherUnit x u s
  | .drayPodExchangeUnit x u => Sys2Proof.Machine.execDrayPodExchangeUnit x u s
  | .drayFaultStop x => Sys2Proof.Machine.execDrayFaultStop x s
  | .drayCompletion x => Sys2Proof.Machine.execDrayCompletion x s
  | .rankLookupReply k => Sys2Proof.Machine.execRankLookupReply k s
  | .heldMessageReread k => Sys2Proof.Machine.execHeldMessageReread k s
  | .messageAdmission k => Sys2Proof.Machine.execMessageAdmission k s
  | .arrivalAdmission k => Sys2Proof.Machine.execArrivalAdmission k s
  | .ownerAtomic core => Sys2Proof.Machine.execOwnerAtomic core s
  | .handlerTaskStart core => Sys2Proof.Machine.execHandlerTaskStart core s
  | .budgetExpiry p => Sys2Proof.Machine.execBudgetExpiry p s
  | .migrateTransitReply k => Sys2Proof.Machine.execMigrateTransitReply k s
  | .channelPushArrival k => Sys2Proof.Machine.execChannelPushArrival k s
  | .tunRequest k => Sys2Proof.Machine.execTunRequest k s
  | .tunBinTimeout cl bin => Sys2Proof.Machine.execTunBinTimeout cl bin s
  | .gatheredWavePlace cl => Sys2Proof.Machine.execGatheredWavePlace cl s
  | .regroupMerge launch crew => Sys2Proof.Machine.execRegroupMerge launch crew s
  | .waveRetire p => Sys2Proof.Machine.execWaveRetire p s
  | .matrixUnitStart eng n => Sys2Proof.Machine.execMatrixUnitStart eng n s
  | .matrixCompletion eng n => Sys2Proof.Machine.execMatrixCompletion eng n s
  | .predictorStart cl => Sys2Proof.Machine.execPredictorStart cl s
  | .predictorCompletion cl => Sys2Proof.Machine.execPredictorCompletion cl s
  | .packetRead q => Sys2Proof.Machine.execPacketRead q s
  | .launchAdmission => Sys2Proof.Machine.execLaunchAdmission s
  | .markerSignal q => Sys2Proof.Machine.execMarkerSignal q s
  | .unitPlacement launch => Sys2Proof.Machine.execUnitPlacement launch s
  | .launchCompletion launch => Sys2Proof.Machine.execLaunchCompletion launch s
  | .preemptionRequest launch => Sys2Proof.Machine.execPreemptionRequest launch s
  | .floorShareSlice launch => Sys2Proof.Machine.execFloorShareSlice launch s
  | .demotionExpiry p => Sys2Proof.Machine.execDemotionExpiry p s
  | .spinWake p => Sys2Proof.Machine.execSpinWake p s
  | .yieldExpiry p => Sys2Proof.Machine.execYieldExpiry p s
  | .trapEntry cause tval => Sys2Proof.Machine.execTrapEntry cause tval s
  | .interruptTaken p code => Sys2Proof.Machine.execInterruptTaken p code s
  | .machineCheck p => Sys2Proof.Machine.execMachineCheck p s
  | .preemptionInterrupt p => Sys2Proof.Machine.execPreemptionInterrupt p s
  | .deferredWrite p => Sys2Proof.Machine.execDeferredWrite p s
  | .poisonExport p => Sys2Proof.Machine.execPoisonExport p s
  | .userInterrupt p => Sys2Proof.Machine.execUserInterrupt p s
  | .hardwareSave p => Sys2Proof.Machine.execHardwareSave p s
  | .contextResume area p => Sys2Proof.Machine.execContextResume area p s
  | .registerMiss p lane file reg => Sys2Proof.Machine.execRegisterMiss p lane file reg s
  | .backgroundRegisterFetch p lane file reg => Sys2Proof.Machine.execBackgroundRegisterFetch p lane file reg s
  | .watchdogExpiry p => Sys2Proof.Machine.execWatchdogExpiry p s
  | .hostRead addr size => Sys2Proof.Machine.execHostRead addr size s
  | .hostWrite addr size v => Sys2Proof.Machine.execHostWrite addr size v s
  | .hostAtomic op size addr v c => Sys2Proof.Machine.execHostAtomic op size addr v c s
  | .hostSnoop line inval => Sys2Proof.Machine.execHostSnoop line inval s
  | .flitRetry link => Sys2Proof.Machine.execFlitRetry link s
  | .laneRepair link spare => Sys2Proof.Machine.execLaneRepair link spare s
  | .spanPortDown port => Sys2Proof.Machine.execSpanPortDown port s
  | .correctedError unit => Sys2Proof.Machine.execCorrectedError unit s
  | .uncorrectableError site index => Sys2Proof.Machine.execUncorrectableError site index s
  | .counterSample => Sys2Proof.Machine.execCounterSample s
  | .unitSelfTest unit pass => Sys2Proof.Machine.execUnitSelfTest unit pass s
  | .unitDeclaredFailed unit => Sys2Proof.Machine.execUnitDeclaredFailed unit s
  | .thermalTrip island point gate => Sys2Proof.Machine.execThermalTrip island point gate s
  | .deviceReset core => Sys2Proof.Machine.execDeviceReset core s
  | .startUp stage reason ports pkg => Sys2Proof.Machine.execStartUp stage reason ports pkg s
  | .startUpWatchdogExpiry => Sys2Proof.Machine.execStartUpWatchdogExpiry s
  | .taggedReply k => Sys2Proof.Machine.execTaggedReply k s
  | .linkRetrain link => Sys2Proof.Machine.execLinkRetrain link s
  | .operatingPointChange k granted => Sys2Proof.Machine.execOperatingPointChange k granted s
  | .islandPowerUp k granted => Sys2Proof.Machine.execIslandPowerUp k granted s
  | .wfiWakeWithoutCause p => Sys2Proof.Machine.execWfiWakeWithoutCause p s

end Sys2Proof.Machine
end

