-- ==== Sys2Proof/Machine/Schedule.lean ====
section
/-! DEFINITION. What happens around the issues of the package: the spin detector (17 R357), the halves of a ganged pair (R363), and the
events that are pending in one clk. Which agent moves when is timing: the agenda may name any order, and the plan made here is the one
that the model follows by itself (L3). -/
namespace Sys2Proof.Machine

/-! ## Ready contexts -/

/-- The next instruction of a context may be tried: it is not out of issue in a `wfi`. -/
def Ctx.mayTry (c : Ctx) : Bool :=
  !c.executing.isEmpty && !c.waits && !c.flushWait && !c.crossed && !(c.block.isSome && c.phase = 0 && c.remote.isEmpty)

/-! ## After an issue -/

/-- Issues of a ganged pair alternate between its halves (17 R363); an instruction made in several steps keeps its half. -/
def Ctx.swapHalf (before after : Ctx) : Bool :=
  if after.ganged && after.phase = 0 && after.look.isEmpty && after.walkFault.isEmpty then
    before.executing.all fun l => l < 32
  else after.half

/-- An instruction that breaks a run of quiet passes: a store, an atomic, a contribution or a channel pop (17 R357). -/
def spinBreaks : Instr → Bool
  | .store _ _ _ _ _ | .fpStore _ _ _ _ _ | .stRel _ _ _ _ | .vsW _ _ _ _ | .amoW _ _ _ _ _ _ | .amoD _ _ _ _ _ _
  | .amoFaddF32 _ _ _ _ _ | .amoFaddBf16 _ _ _ _ _ | .amoCasW _ _ _ _ | .amoCasD _ _ _ _ | .red _ _ _ _ | .fst _ _
  | .fstD _ _ | .frst _ | .frstD _ | .qrecv _ _ _ | .carm _ _ _ | .cdec _ | .barInit _ _ | .barArrive _ _ | .barExpect _ _ => true
  | _ => false

/-- The address of a load, by its register and offset, and its bytes. -/
def loadFrom : Instr → Option (Nat × Word × Nat)
  | .load i a f _ => some (a.toNat, sext i, (loadSize f).1)
  | .fpLoad i a f _ => some (a.toNat, sext i, if f = 1#1 then 8 else 4)
  | .vlW i a _ => some (a.toNat, sext i, 32)
  | .ldAcq z _ a _ => some (a.toNat, 0, 2 ^ z.toNat)
  | .fld a _ => some (a.toNat, 0, 4)
  | .fldD a _ => some (a.toNat, 0, 8)
  | .bxt b _ _ => some (b.toNat, 0, 24)
  | .trt b _ _ => some (b.toNat, 0, 36)
  | _ => none

/-- The lines of a load that a pass makes. -/
def State.spinLines (s : State) (k : Nat) (c : Ctx) (i : Instr) : List Nat :=
  match loadFrom i with
  | none => []
  | some (a, o, n) =>
    match s.pieces k 0 (((c.lane 0).rx a).v + o) n 1 with
    | .ok ps => (ps.map fun p => p.at_.loc / 128).eraseDups
    | _ => []

/-- The detector begins anew; what a demotion has recorded stays until its end. -/
def Ctx.respin (c : Ctx) : Ctx :=
  { c with spin := if c.demoted.isSome then { Spin.none with held := c.spin.held, chans := c.spin.chans } else Spin.none }

/-- A backward branch that was taken: a conditional branch or `jal`. -/
def mayLoop : Instr → Bool
  | .branch _ _ _ _ _ | .jal _ _ => true
  | _ => false

/-- The detector's view of one issue (17 R357): `c` before it and `d` after it. Four takes of one branch demote the set, and so does every
take after them once a demotion has run out. -/
def Ctx.watch (c d : Ctx) (i : Instr) (lines : List Nat) (copies : List Nat → List (Nat × Option L1Line)) (clk : Nat) : Ctx :=
  let x := (c.lane 0).x
  let f := (c.lane 0).f
  let x' := (d.lane 0).x
  let f' := (d.lane 0).f
  let sp := c.spin
  let still : Bool := sp.quiet && sp.x == x && sp.f == f && x == x' && f == f' && !spinBreaks i
  let at0 := (c.lane 0).pc
  let dest := (d.lane 0).pc
  let took : Bool := mayLoop i && dest.toNat ≤ at0.toNat && d.csr.instret != c.csr.instret
  if took && at0.toNat - dest.toNat ≤ 60 then
    let n := if sp.pc == at0 && still && 0 < sp.takes then sp.takes + 1 else 1
    let new : Bool := 4 ≤ n && d.demoted.isNone
    { d with spin := { pc := at0, takes := n, lines := [], held := if new then copies sp.lines.flatten else sp.held,
                       chans := if new then d.chans else sp.chans, quiet := true, x := x', f := f' },
             demoted := if new then some clk else d.demoted }
  else if took then d.respin
  else
    let loads := if lines.isEmpty then sp.lines else (sp.lines ++ [lines]).take 4
    { d with spin := { sp with quiet := still, lines := loads, x := x', f := f' } }

/-- The set is one that the detector watches. -/
def Ctx.watched (c : Ctx) (k : Nat) : Bool := !isWave k && !isHandler k && c.mode = .u && c.region.isNone

/-- The budget of a task runs from its first instruction (12 R248). -/
def Ctx.startBudget (c : Ctx) (clk budget : Nat) : Ctx :=
  { c with task := c.task.map fun t => if t.deadline.isSome then t else { t with deadline := some (clk + budget) } }

/-- The bookkeeping of an issue: who has waited, the halves, the spin detector, the budget of a task, and the lines at their homes that were
held for the instruction. -/
def State.noteIssue (s t : State) (k : Nat) (i : Instr) : State :=
  let c := s.ctx k
  let d := t.ctx k
  if d.status != .resident || d.uid != c.uid then t
  else if !c.moved d then t.modCtx k fun d => d.startBudget (s.now k) (t.core (unitOf k)).budget
  else
    let copies := fun (ls : List Nat) => ls.map fun n => (n, t.l1Line (unitOf k) n)
    let d := if c.watched k && d.watched k && d.depth = c.depth then c.watch d i (s.spinLines k c i) copies (t.now k) else d.respin
    let d := d.startBudget (s.now k) (t.core (unitOf k)).budget
    (t.setCtx k { d with half := Ctx.swapHalf c d, since := t.clk }).passAll (.ctx d.uid)

/-! ## Events that are pending -/

/-- The event that delivers a message. -/
def NetMsg.deliverBy (m : NetMsg) : Instr :=
  match m.body with
  | .lineRead _ _ => .sliceRead m.id
  | .lineFill _ _ _ _ _ => .l1Fill m.id
  | .prefetch _ _ => .sliceRead m.id
  | .ask _ _ _ => .sliceRead m.id
  | .read _ h => if h = .window then .bankAccess m.id else if h = .core then .coreSramAccess m.id else .sliceRead m.id
  | .write _ _ _ _ _ _ _ _ _ => .sliceWrite m.id
  | .marked _ _ _ _ _ _ => .sliceWrite m.id
  | .writeAck _ _ _ _ _ => .writeBackAck m.id
  | .own _ _ _ => .ownershipRequest m.id
  | .giveUp _ _ _ _ _ _ _ => .giveUpOwnership m.id
  | .recall _ _ _ => .recall m.id
  | .recallRep _ _ _ _ _ => .recallReply m.id
  | .tagged r => if r.op = .msg then .messageAdmission m.id else if r.op = .arrival then .arrivalAdmission m.id else .taggedRequest m.id
  | .taggedRep _ _ _ => .taggedReply m.id
  | .bankWrite _ _ _ _ _ _ _ _ => .bankAccess m.id
  | .bankAtomic r => if isHost r.loc then .taggedRequest m.id else .bankAccess m.id
  | .coreWrite _ _ _ _ _ _ _ _ => .coreSramAccess m.id
  | .tagFlush _ _ _ _ _ => .tagFlush m.id
  | .tagFlushRep _ => .tagFlushReply m.id
  | .cancel _ => .fldCancel m.id
  | .lookup _ _ _ => .rankLookupReply m.id
  | .heldMsg _ => .heldMessageReread m.id
  | .entry _ _ _ _ _ _ => .taggedRequest m.id
  | .transit _ _ _ => .migrateTransitReply m.id
  | .push _ _ _ _ => .channelPushArrival m.id
  | .tun _ _ _ _ _ => .tunRequest m.id
  | .shoot _ _ _ ts _ => .tlbShootdown m.id (ts.getD 0 0)
  | .island _ _ op _ _ _ _ => if op = 1 then .operatingPointChange m.id true else .islandPowerUp m.id true

/-- What a message has pending in this clk: its delivery, or, after a refusal, a loss or a deferral, what follows it. -/
def State.msgEvents (s : State) (m : NetMsg) : List Instr :=
  if m.lost then (m.request.map fun r => .taggedResendTimeout (r.uid * 65536 + r.seq.toNat)).toList
  else if m.due = 0 then
    match m.body with
    | .shoot _ _ _ ts _ => ts.map fun t => .tlbShootdown m.id t
    | _ => [m.deliverBy]
  else if m.stale && (match m.body with
      | .recall u line _ => !s.mayDefer u line
      | _ => false) then [.recallDeferralExpiry m.id]
  else if s.msgClk m < m.due then []
  else match m.body with
    | .recall _ _ _ => if m.stale then [.recallDeferralExpiry m.id] else [.refusedResend m.id]
    | .heldMsg _ => [.heldMessageReread m.id]
    | _ => if isFld m.body then [.fldResend m.id] else [.refusedResend m.id]

/-- A message is a write or an atomic of another context of a unit to a line, or a recall of the line, on its way. -/
def NetMsg.disturbs (m : NetMsg) (u line uid : Nat) : Bool :=
  match m.body with
  | .recall v l _ => v == u && l == line
  | .write w v l _ _ _ _ _ _ => v == u && l == line && w != uid
  | .giveUp w v l _ _ _ _ => v == u && l == line && w != uid
  | .bankWrite w v l _ _ _ _ _ => v == u && l == line && w != uid
  | .coreWrite w v l _ _ _ _ _ => v == u && l == line && w != uid
  | .bankAtomic r => unitOf r.place == u && r.loc / 128 == line && r.uid != uid
  | .tagged r => !r.carries && unitOf r.place == u && r.loc / 128 == line && r.uid != uid
  | _ => false

/-- A message is being admitted for a rank of a launch. -/
def NetMsg.comesFor (m : NetMsg) (launch : Option Nat) (rank : Option (BitVec 32)) : Bool :=
  m.due = 0 && match m.body with
  | .tagged r => (match r.cargo with
    | .message q => launch == some q.launch && rank == some q.rank
    | _ => false)
  | _ => false

/-- Another set has changed a recorded line: its copy in the unit is no longer the one recorded, and either is that set's, or a request
to the line is on its way. -/
def State.lineDisturbed (s : State) (k : Nat) (c : Ctx) (e : Nat × Option L1Line) : Bool :=
  let now := s.l1Line (unitOf k) e.1
  let theirs := fun (l : Option L1Line) => l.any fun l => l.st != .valid && l.tag != c.tagEnt
  (now != e.2 && (theirs now || theirs e.2)) || s.net.any fun m => m.disturbs (unitOf k) e.1 c.uid

/-- A wake event of 17 R357 stands: something has come for the set, or a recorded line has been changed or is recalled. -/
def State.spinWoken (s : State) (k : Nat) (c : Ctx) : Bool :=
  !c.uPend.isEmpty || c.chans != c.spin.chans || !c.forced.isEmpty || c.spin.held.any (s.lineDisturbed k c)
    || s.net.any fun m => m.comesFor c.launch c.rank

/-- What the lease of a context has pending. -/
def LeaseSt.events (l : LeaseSt) (p : Place) (clk : Nat) : List Instr :=
  match l with
  | .acquiring _ _ _ => [.leaseArm p]
  | .armed r => if r.deadline ≤ clk then [.leaseExpiry p] else []
  | .idle => []

/-- What the demotion of a set has pending. -/
def State.spinEvents (s : State) (k : Nat) (c : Ctx) : List Instr :=
  match c.demoted with
  | some t => if t + 1024 ≤ s.now k then [.demotionExpiry (Place.ofKey k)] else if s.spinWoken k c then [.spinWake (Place.ofKey k)] else []
  | none => []

/-- The next absent register of a context, where the port is idle. -/
def State.absentEvents (s : State) (k : Nat) (c : Ctx) : List Instr :=
  match c.absent.head? with
  | some e =>
    if s.now k % 4 = 0 && s.ticks (unitOf k) && !c.flushWait then
      [.backgroundRegisterFetch (Place.ofKey k) (e.1 / 128) (e.1 % 128 / 32) (e.1 % 32)]
    else []
  | none => []

/-- What a context has pending beside its issue. -/
def State.ctxEvents (s : State) (k : Nat) (c : Ctx) : List Instr :=
  let p := Place.ofKey k
  let es : List (List Instr) :=
    [c.lease.events p (s.now k), s.spinEvents k c, if c.yieldTil.any (· ≤ s.now k) then [.yieldExpiry p] else [],
     if c.dog.any (· + 1000000 ≤ s.now k) then [.watchdogExpiry p] else [], if c.status == .ending then [.waveRetire p] else [],
     s.absentEvents k c]
  es.flatten

/-- The bare acknowledgements that are due at a home: of each place that has had no tagged request for 4,096 clk and has an entry there
that it confirms (03 R57; 12 R242). -/
def State.ackEvents (s : State) (home : Nat) (ds : List Dedup) : List Instr :=
  let due := fun (d : Dedup) =>
    let c := s.ctx d.place
    c.tagAt + 4096 ≤ s.now d.place && s.confirmed d.place c.uid (c.unanswered.headD c.seq) d
  ((ds.filter due).map fun (d : Dedup) => d.place).eraseDups.map fun k => .bareAcknowledgement (Place.ofKey k) home

/-- What a Dray has pending: the start of its next transfer, or the next unit and the end of the one that runs. -/
def State.drayEvents (s : State) (n : Nat) (d : Dray) : List Instr :=
  match d.running with
  | none => if d.queue.isEmpty then [] else [.drayTransferStart n]
  | some x =>
    match s.xfer x with
    | none => []
    | some t =>
      let u := ((span t.done (t.units.length + 1)).find? fun i => !t.units.contains i).getD t.done
      [.drayTileUnit x u, .drayGatherUnit x u, .drayScatterUnit x u, .drayRowGatherUnit x u, .drayPodExchangeUnit x u,
       .drayFaultStop x, .drayCompletion x]

/-- What a cluster has pending: its bins, its gathered queue and its predictor. -/
def clusterEvents (n : Nat) (c : Cluster) : List Instr :=
  let es : List (List Instr) :=
    [c.bins.map (fun b => .tunBinTimeout n b.1), if c.gathQ.isEmpty then [] else [.gatheredWavePlace n],
     if c.preds.isEmpty then [] else [.predictorStart n, .predictorCompletion n]]
  es.flatten

/-- What a core has pending for its handler set. -/
def coreEvents (n : Nat) (c : Core) : List Instr := if c.inq.isEmpty && c.ring.isEmpty then [] else [.handlerTaskStart n]

/-- What the distributor has pending for a launch. -/
def launchEvents (n : Nat) (v : Launch) : List Instr :=
  let es : List (List Instr) :=
    [if v.marker then [.markerSignal v.queue] else [], if v.admitted then [.unitPlacement n, .launchCompletion n] else [],
     [.preemptionRequest n, .floorShareSlice n]]
  es.flatten

/-- The resume of a saved context at the first place that it fits. -/
def State.resumeEvent (s : State) (a : Nat) (c : Ctx) : List Instr :=
  match (placesOf (clusterOfUnit c.tagUnit)).find? (s.fits c) with
  | some k => [.contextResume a (Place.ofKey k)]
  | none => []

/-- Every event that is pending in this clk, apart from those that the outside brings: the host, errors, resets, trips. -/
def State.events (s : State) : List Instr :=
  let es : List (List Instr) :=
    [s.net.flatMap s.msgEvents,
     s.walks.map (fun w => .tableLineReply w.id),
     (if s.walkQ.isEmpty then [] else (List.range s.dies).map .pageWalk),
     s.storeQ.map (fun e => .storeQueueDrain e.1),
     s.ctxs.flatMap (fun e => s.ctxEvents e.1 e.2),
     s.slices.flatMap (fun e => s.ackEvents e.1 e.2.dedup),
     s.cores.flatMap (fun e => s.ackEvents (2 ^ 20 + e.1) e.2.dedup),
     (s.tags.flatMap fun e =>
           if s.unitClk e.1 % 8 = 0 && s.ticks e.1 then (e.2.filter fun t => !t.live).map fun t => .lazyDrain e.1 t.idx else []),
     s.drays.flatMap (fun e => s.drayEvents e.1 e.2),
     s.clusters.flatMap (fun e => clusterEvents e.1 e.2),
     s.cores.flatMap (fun e => coreEvents e.1 e.2),
     s.engines.flatMap (fun e => (List.range e.2.queue.length).flatMap fun n => [.matrixUnitStart e.1 n, .matrixCompletion e.1 n]),
     ((s.ctxs.filterMap fun e => match e.2.launch, e.2.crew with
           | some l, some n => if e.2.arrivedAt.isSome then some (l, n) else none
           | _, _ => none).eraseDups.map fun x => .regroupMerge x.1 x.2),
     s.queues.map (fun e => .packetRead e.1),
     (if s.heads.isEmpty then [] else [.launchAdmission]),
     s.launches.flatMap (fun e => match e.2 with
           | some v => launchEvents e.1 v
           | none => []),
     s.saved.flatMap (fun e => s.resumeEvent e.1 e.2),
     (if s.clk % 1900000 = 0 then [.counterSample] else [])]
  es.flatten

/-- The cores whose built-in handler has work. -/
def State.owing (s : State) : List Nat := s.cores.filterMap fun e => if e.2.owners.isEmpty then none else some e.1

/-- The turns of one clk: the pending events, and an issue of each unit that holds a context or has an owner atomic to
perform, where its own clock ticks. -/
def State.plan (s : State) : List Turn :=
  s.events.map .event ++ (((s.ctxs.map (fun e => unitOf e.1) ++ s.owing).filter s.ticks).eraseDups.map .unit)

/-- The units that are in use: cores, engines and Drays with work and their clusters, slices and HBM4 targets with requests (20 R402). -/
def State.unitsInUse (s : State) : List Nat :=
  let us := (s.ctxs.map (fun e => unitOf e.1)).eraseDups.filter s.holdsWork
    ++ (s.drays.filter fun e => e.2.running.isSome || !e.2.queue.isEmpty).map (·.1)
    ++ (s.engines.filter fun e => !e.2.queue.isEmpty).map (·.1)
    ++ (s.clusters.filter fun e => !e.2.preds.isEmpty).map fun e => e.1 * 128 + 70
  let locs := (s.net.map (·.loc)).filter (isHbm s.dies)
  (us ++ us.map (fun u => 2 ^ 21 + clusterOfUnit u) ++ locs.map (fun a => 2 ^ 20 + s.homeOf a)
    ++ (s.slices.filter fun (e : Nat × Slice) => !e.2.waiting.isEmpty || !e.2.deferred.isEmpty).map
        (fun (e : Nat × Slice) => 2 ^ 20 + e.1)
    ++ locs.map fun a => 2 ^ 22 + homeDie a * 128 + hbmTarget a).eraseDups

/-- A clk passes, and its turns are planned. -/
def State.nextClk (s : State) : State :=
  let used := s.unitsInUse.foldl (fun t u => Tbl.set 0 t u s.clk) s.mgmt.usedAt
  let s := { s with clk := s.clk + 1, mgmt := { s.mgmt with usedAt := used } }.endHolds.closeGaps
  let s := if s.hostTurn then s.serveHost else s
  { s with agenda := s.plan }

/-! ## What `step` puts around an instruction -/

/-- `island.req` is four rows of the table, told apart by OP in the lead lane's X[rs2] (15 R325). -/
def State.resolve (s : State) (i : Instr) : Instr :=
  let c := s.ctx s.here
  match i with
  | .islandQuery b a d =>
    match (bits 0 2 (c.leadX c.executing b.toNat).v).toNat with
    | 0 => .islandQuery b a d
    | 1 => .islandSetPoint b a d
    | 2 => .islandGate b a d
    | _ => .islandUngate b a d
  | i => i

/-- A word of `msave` or `mrest`, whatever slot it names (15 R320). -/
def slotWord (w : BitVec 32) : Bool :=
  bits 0 7 w == 0x2B#7 && bits 12 3 w == 4#3 && bits 20 5 w == 0#5 && (bits 25 7 w).toNat ≤ 1

/-- A word that encodes no instruction raises illegal instruction with the sub-code of the check that it fails (09 R166); `msave` and
`mrest` check the mode and the wave before the slot (15 R320; DEDUCED, L93). An instruction that acts once retires as a no-op in an issue of helper
lanes, whatever its operands (11 R449). -/
def State.undecoded (s : State) (w : BitVec 32) (e : DecodeError) : State :=
  let k := s.here
  let ls := (s.ctx k).executing
  s.firstDue k <|
    match e with
    | .unassigned => s.illegalTrap k w 0 ls
    | .operandLimit =>
      if ((decodeRow w).any Instr.once) && ((s.ctx k).lead ls).isNone then s.retire k ls
      else s.illegalTrap k w (if !slotWord w then 1 else if (s.ctx k).mode = .u then 4 else if !isWave k then 2 else 1) ls

/-- A context that waits in `wfi` wakes: an interrupt is pending for it (15 R317). -/
def State.wakePending (s : State) (k : Nat) : State := s.modCtx k fun c => { c with wfi := false }

/-! ## Placing an instruction -/

/-- A scalar context in M mode at address 0 with Bare translation, as firmware starts one (L4). -/
def Ctx.firmware : Ctx :=
  { Ctx.vacant with
    status := .resident, uid := 0, lanes := [(0, { Lane.idle with st := .runnable })], mode := .m, ctxid := 1 }

/-- The context at the next place can fetch its next instruction from plain memory, and nothing else is due there. -/
def State.canFetch (s : State) : Bool :=
  let k := s.cur.key
  let c := s.ctx k
  let pc := c.nextPc.toNat
  c.status == .resident && c.mayTry && !c.wfi && c.forced.isEmpty && (s.boundaryEvent s.cur).isNone && c.remote.isEmpty
    && pc % 4 = 0
    && match s.xlat k 2 c.nextPc with
       | .ok p => p.loc = pc && p.home = .cached && pc + 4 ≤ 2 ^ 38
       | _ => false

/-- The context that runs a placed word: the one at the current place, or a firmware context there. -/
def State.readyPlace (s : State) : State := if s.canFetch then s else s.setCtx s.cur.key Ctx.firmware

/-- Store a word at the next PC of the current place, with no stale copy of its line, and make the place move next. -/
def State.placeWord (s : State) (w : Nat) : State :=
  let s := s.readyPlace
  let a := (s.ctx s.cur.key).nextPc.toNat
  let u := unitOf s.cur.key
  let s := { s with l1i := Tbl.set [] s.l1i u (Tbl.set 0 (s.l1iLines u) (a / 128) 0) }
  { s.putValue a 4 w false with agenda := [.run s.cur] }

end Sys2Proof.Machine
end

