-- ==== Sys2Proof/Machine/Issue.lean ====
section
/-! DEFINITION. One issue of a context (18 R368), and the turn of a unit: which of its contexts are ready, and the choice of a scalar core
(17 R356) and of an engine (R359). -/
namespace Sys2Proof.Machine

/-- Run a fetched word: the instruction that it encodes, or the illegal-instruction exception of 09 R166. -/
def State.runWord (s : State) (w : BitVec 32) : Out :=
  match decode w with
  | .ok i =>
    let i := s.resolve i
    match exec i s with
    | .next t => .next (s.noteIssue t s.here i)
    | o => o
  | .error e => .next (s.undecoded w e)

/-- One issue of the context at a place (18 R368): the last step of the `sfence.vma` at which it waits (02 R46), the event due at its boundary, the forced fence that it owes, the end of a
`wfi`, or the instruction that it fetches. -/
def issue (p : Place) (s : State) : Out :=
  let s := { s with cur := p }
  let c := s.ctx p.key
  if c.status != .resident then .fault .noContext
  else if (s.shootOf c.uid).isSome then .next (s.noteIssue (s.endFence p.key) p.key (.sfenceVma 0#5 0#5))
  else match s.boundaryEvent p with
    | some e => exec e s
    | none =>
      if !c.forced.isEmpty && c.region.isNone then .next (s.forcedFence p.key)
      else if !c.mayTry then .next s
      else if c.wfi then .next (s.wakePending p.key)
      else match s.fetch p.key with
        | .fault cause va => exec (.trapEntry cause va) s
        | .wait s => .next s
        | .word w s => s.runWord w

/-! ## The turn of a unit -/

/-- A try of a context's next issue, or of the event at its boundary, and whether it goes forward. -/
def State.tryIssue (s : State) (k : Nat) : State × Bool :=
  match issue (Place.ofKey k) s with
  | .next t => (t, (s.ctx k).moved (t.ctx k))
  | _ => (s, false)

/-- A context is ready where its next issue goes forward. One that stalls only starts what it waits for (17 R356). -/
def State.attempt (s : State) (k : Nat) : State :=
  if (s.ctx k).status != .resident then s
  else
    let (t, r) := s.tryIssue k
    (if r then s else t).modCtx k fun c => { c with ready := r, since := if r && !c.ready then s.clk else c.since }

/-- The context at a place is resident and ready. -/
def State.isReady (s : State) (k : Nat) : Bool := (s.ctx k).status == .resident && (s.ctx k).ready

/-- The clk since which a place has waited; a handler set waits with the oldest owner atomic of its core too (17 R356). -/
def State.sinceOf (s : State) (k : Nat) : Nat :=
  let own := (s.core (unitOf k)).since
  if !isHandler k || (s.core (unitOf k)).owners.isEmpty then (s.ctx k).since
  else if s.isReady k then min own (s.ctx k).since else own

/-- The place that has waited longest; ties go to the lower number. -/
def State.longest (s : State) (ks : List Nat) : Option Nat :=
  ks.foldl (fun (b : Option Nat) k =>
    match b with
    | none => some k
    | some j => if s.sinceOf k < s.sinceOf j then some k else b) none

/-- A set or wave that is demoted or yields is chosen only where no other is ready; a trap handler takes its turn (17 R356; 12 R263). -/
def Ctx.standsBack (c : Ctx) : Bool := c.mode = .u && (c.demoted.isSome || c.yieldTil.isSome)

def State.eager (s : State) (ks : List Nat) : List Nat :=
  let front := ks.filter fun k => !(s.ctx k).standsBack
  if front.isEmpty then ks else front

/-- The clk at which a set's region was armed, where one is. -/
def Ctx.armedAt (c : Ctx) : Option Nat := c.region.map (·.armedAt)

/-- The set whose region was armed first (06 R121). -/
def State.firstArmed (s : State) (ks : List Nat) : Option Nat :=
  (ks.foldl (fun (b : Option (Nat × Nat)) k =>
    match (s.ctx k).armedAt, b with
    | some t, some (_, u) => if t < u then some (k, t) else b
    | some t, none => some (k, t)
    | none, _ => b) none).map (·.1)

/-- The set that a scalar core issues from (17 R356): an armed one first, of two the one armed first. The handler set is ready too where
an owner atomic waits, and no set issues while one holds the issue slot (12 R257). -/
def State.chooseSet (s : State) (u : Nat) : Option Nat :=
  let rs := ([0, 1, 2, 3, 4].map (u * 32 + ·)).filter fun k =>
    s.isReady k || (isHandler k && !(s.core u).owners.isEmpty)
  if s.unitClk u < (s.core u).busy then none
  else match s.firstArmed rs with
    | some k => some k
    | none => s.longest (s.eager rs)

/-- The beats of an issue: one for up to eight quads with an executing lane, else two (17 R358). -/
def Ctx.beats (c : Ctx) : Nat := if 8 < ((c.executing.map (· / 4)).eraseDups).length then 2 else 1

/-- The ready waves of the highest launch PRIO. -/
def State.topPrio (s : State) (ks : List Nat) : List Nat :=
  let p := ks.foldl (fun n k => max n (s.ctx k).prio) 0
  ks.filter fun k => (s.ctx k).prio = p

/-- The wave that an engine issues, with the passes of its arbiter after the issue (17 R359): the beats of the class that issues are
charged, and a class that has no ready wave is raised to the other's pass. -/
def State.chooseWave (s : State) (u : Nat) : State × Option Nat :=
  let ks := s.eager ((unitPlaces u).filter s.isReady)
  let e := s.engine u
  let ctl := (s.cluster (clusterOfUnit u)).arbctl
  let g := s.longest (ks.filter fun k => (s.ctx k).gath)
  let c := s.longest (s.topPrio (ks.filter fun k => !(s.ctx k).gath))
  let takeG := fun (k : Nat) => e.passG + (bits 4 4 ctl).toNat * (s.ctx k).beats
  let takeC := fun (k : Nat) => e.passC + (bits 0 4 ctl).toNat * (s.ctx k).beats
  match g, c with
  | none, none => (s, none)
  | some k, none => (s.setEngine u { e with passG := takeG k, passC := max e.passC (takeG k) }, some k)
  | none, some k => (s.setEngine u { e with passG := max e.passG (takeC k), passC := takeC k }, some k)
  | some j, some k =>
    if e.passG ≤ e.passC then (s.setEngine u { e with passG := takeG j }, some j)
    else (s.setEngine u { e with passC := takeC k }, some k)

/-- The place that a unit issues from. -/
def State.choose (s : State) (u : Nat) : State × Option Nat := if u % 128 < 64 then (s, s.chooseSet u) else s.chooseWave u

/-- The turn of a unit: its contexts are tried, and the one that it chooses issues; an owner atomic takes the turn of the handler set. -/
def unitTurn (u : Nat) (s : State) : Out :=
  let s := (unitPlaces u).foldl (fun s k => s.attempt k) s
  match s.choose u with
  | (s, some k) =>
    if isHandler k && !(s.core u).owners.isEmpty then exec (.ownerAtomic u) s else issue (Place.ofKey k) s
  | (s, none) => .next s

end Sys2Proof.Machine
end

