-- ==== Sys2Proof/Machine/Step.lean ====
section
/-! DEFINITION. The step of the package. The agenda names the agent that moves next: a context, a unit, an event of the device, or
the passing of time; an empty agenda is filled with the turns of the next clk (L3). -/
namespace Sys2Proof.Machine

/-- One step: the next turn of the agenda. -/
def step (s : State) : Host.Outcome State Fault Refusal :=
  match s.agenda with
  | [] => .next s.nextClk
  | .run p :: r => issue p { s with agenda := r }
  | .unit u :: r => unitTurn u { s with agenda := r }
  | .event i :: r => exec i { s with agenda := r }
  | .wait n :: r => .next { s with agenda := r, clk := s.clk + n }

/-- Place an instruction where the next step fetches and runs it (L4): a context that can issue, in a place of its own, at a PC
whose line is not yet in the L1I. -/
def State.withFetchWord (s : State) (nbits w : Nat) : State := s.placeWord (w % 2 ^ min nbits 32)

end Sys2Proof.Machine
end

