-- ==== Sys2Proof/Laws/Words.lean ====
section
/-! SUPPORT. The fields of instruction words: what a bit field of appended fields is. -/
namespace Sys2Proof.Laws

/-! ## Bit fields of appended fields -/

theorem bits_hi {n w lo len : Nat} (x : BitVec n) (y : BitVec w) (h : w ≤ lo) :
    bits lo len (x ++ y) = bits (lo - w) len x := BitVec.extractLsb'_append_eq_of_le h

theorem bits_lo {n w lo len : Nat} (x : BitVec n) (y : BitVec w) (h : lo + len ≤ w) :
    bits lo len (x ++ y) = bits lo len y := BitVec.extractLsb'_append_eq_of_add_le h

@[simp] theorem bits_all {n : Nat} (x : BitVec n) : bits 0 n x = x := BitVec.extractLsb'_eq_self

@[simp] theorem bits_bits {n lo len k m : Nat} (x : BitVec n) (h : lo + len ≤ m) :
    bits lo len (bits k m x) = bits (k + lo) len x := by
  apply BitVec.eq_of_getLsbD_eq
  intro i hi
  simp only [bits, BitVec.getLsbD_extractLsb']
  simp [hi, show lo + i < m by omega, Nat.add_assoc]

theorem bits_sub {n lo len k m : Nat} {x : BitVec n} {f : BitVec m} (hf : bits k m x = f) (h : lo + len ≤ m) :
    bits (k + lo) len x = bits lo len f := by
  rw [← hf, bits_bits _ h]

@[simp] theorem bits_ofNat {n lo len v : Nat} : bits lo len (BitVec.ofNat n v) = BitVec.ofNat len (v % 2 ^ n / 2 ^ lo) := by
  apply BitVec.eq_of_toNat_eq
  simp [bits, BitVec.extractLsb', Nat.shiftRight_eq_div_pow]

/-- Two adjacent fields make the field over both. -/
theorem bits_join {n : Nat} (p q : Nat) (x : BitVec n) (lo : Nat) :
    bits (lo + q) p x ++ bits lo q x = bits lo (p + q) x := by
  apply BitVec.eq_of_getLsbD_eq
  intro i hi
  simp only [bits, BitVec.getLsbD_append, BitVec.getLsbD_extractLsb']
  by_cases h : i < q
  · simp [h, hi]
  · simp [h, hi, show i - q < p by omega, show lo + q + (i - q) = lo + i by omega]

theorem append_eq {p q : Nat} (x : BitVec p) (y : BitVec q) (c : BitVec (p + q)) :
    (x ++ y) = c ↔ x = bits q p c ∧ y = bits 0 q c := by
  constructor
  · rintro rfl
    exact ⟨by rw [bits_hi x y le_rfl, Nat.sub_self, bits_all], by rw [bits_lo x y (by omega), bits_all]⟩
  · rintro ⟨rfl, rfl⟩
    have h := bits_join p q c 0
    rw [Nat.zero_add] at h
    rw [h, bits_all]

/-! ## The fields of a word -/

/-- A word from its six fields (09 R164). -/
def rWord (f7 : BitVec 7) (b a : BitVec 5) (f3 : BitVec 3) (d : BitVec 5) (op : BitVec 7) : BitVec 32 :=
  f7 ++ b ++ a ++ f3 ++ d ++ op

variable (f7 : BitVec 7) (b a : BitVec 5) (f3 : BitVec 3) (d : BitVec 5) (op : BitVec 7)

@[simp] theorem word_0_7 : bits 0 7 (rWord f7 b a f3 d op) = op := by
  unfold rWord
  rw [bits_lo (f7 ++ b ++ a ++ f3 ++ d) op (by decide), bits_all]

@[simp] theorem word_7_5 : bits 7 5 (rWord f7 b a f3 d op) = d := by
  unfold rWord
  rw [bits_hi (f7 ++ b ++ a ++ f3 ++ d) op (by decide), bits_lo (f7 ++ b ++ a ++ f3) d (by decide), bits_all]

@[simp] theorem word_12_3 : bits 12 3 (rWord f7 b a f3 d op) = f3 := by
  unfold rWord
  rw [bits_hi (f7 ++ b ++ a ++ f3 ++ d) op (by decide), bits_hi (f7 ++ b ++ a ++ f3) d (by decide), bits_lo (f7 ++ b ++ a) f3 (by decide), bits_all]

@[simp] theorem word_15_5 : bits 15 5 (rWord f7 b a f3 d op) = a := by
  unfold rWord
  rw [bits_hi (f7 ++ b ++ a ++ f3 ++ d) op (by decide), bits_hi (f7 ++ b ++ a ++ f3) d (by decide), bits_hi (f7 ++ b ++ a) f3 (by decide), bits_lo (f7 ++ b) a (by decide), bits_all]

@[simp] theorem word_20_5 : bits 20 5 (rWord f7 b a f3 d op) = b := by
  unfold rWord
  rw [bits_hi (f7 ++ b ++ a ++ f3 ++ d) op (by decide), bits_hi (f7 ++ b ++ a ++ f3) d (by decide), bits_hi (f7 ++ b ++ a) f3 (by decide), bits_hi (f7 ++ b) a (by decide), bits_lo (f7) b (by decide), bits_all]

@[simp] theorem word_25_7 : bits 25 7 (rWord f7 b a f3 d op) = f7 := by
  unfold rWord
  rw [bits_hi (f7 ++ b ++ a ++ f3 ++ d) op (by decide), bits_hi (f7 ++ b ++ a ++ f3) d (by decide), bits_hi (f7 ++ b ++ a) f3 (by decide), bits_hi (f7 ++ b) a (by decide), bits_hi (f7) b (by decide), bits_all]

@[simp] theorem word_0_2 : bits 0 2 (rWord f7 b a f3 d op) = bits 0 2 op :=
  bits_sub (lo := 0) (len := 2) (word_0_7 f7 b a f3 d op) (by decide)

@[simp] theorem word_2_2 : bits 2 2 (rWord f7 b a f3 d op) = bits 2 2 op :=
  bits_sub (lo := 2) (len := 2) (word_0_7 f7 b a f3 d op) (by decide)

@[simp] theorem word_4_3 : bits 4 3 (rWord f7 b a f3 d op) = bits 4 3 op :=
  bits_sub (lo := 4) (len := 3) (word_0_7 f7 b a f3 d op) (by decide)

@[simp] theorem word_12_1 : bits 12 1 (rWord f7 b a f3 d op) = bits 0 1 f3 :=
  bits_sub (lo := 0) (len := 1) (word_12_3 f7 b a f3 d op) (by decide)

@[simp] theorem word_12_2 : bits 12 2 (rWord f7 b a f3 d op) = bits 0 2 f3 :=
  bits_sub (lo := 0) (len := 2) (word_12_3 f7 b a f3 d op) (by decide)

@[simp] theorem word_12_20 : bits 12 20 (rWord f7 b a f3 d op) = f7 ++ b ++ a ++ f3 :=
  ((bits_join 17 3 (rWord f7 b a f3 d op) 12).symm.trans (congrArg₂ (· ++ ·) ((bits_join 12 5 (rWord f7 b a f3 d op) 15).symm.trans (congrArg₂ (· ++ ·) ((bits_join 7 5 (rWord f7 b a f3 d op) 20).symm.trans (congrArg₂ (· ++ ·) (word_25_7 f7 b a f3 d op) (word_20_5 f7 b a f3 d op))) (word_15_5 f7 b a f3 d op))) (word_12_3 f7 b a f3 d op)))

@[simp] theorem word_13_2 : bits 13 2 (rWord f7 b a f3 d op) = bits 1 2 f3 :=
  bits_sub (lo := 1) (len := 2) (word_12_3 f7 b a f3 d op) (by decide)

@[simp] theorem word_14_1 : bits 14 1 (rWord f7 b a f3 d op) = bits 2 1 f3 :=
  bits_sub (lo := 2) (len := 1) (word_12_3 f7 b a f3 d op) (by decide)

@[simp] theorem word_20_2 : bits 20 2 (rWord f7 b a f3 d op) = bits 0 2 b :=
  bits_sub (lo := 0) (len := 2) (word_20_5 f7 b a f3 d op) (by decide)

@[simp] theorem word_20_3 : bits 20 3 (rWord f7 b a f3 d op) = bits 0 3 b :=
  bits_sub (lo := 0) (len := 3) (word_20_5 f7 b a f3 d op) (by decide)

@[simp] theorem word_20_4 : bits 20 4 (rWord f7 b a f3 d op) = bits 0 4 b :=
  bits_sub (lo := 0) (len := 4) (word_20_5 f7 b a f3 d op) (by decide)

@[simp] theorem word_20_6 : bits 20 6 (rWord f7 b a f3 d op) = bits 0 1 f7 ++ b :=
  ((bits_join 1 5 (rWord f7 b a f3 d op) 20).symm.trans (congrArg₂ (· ++ ·) (bits_sub (lo := 0) (len := 1) (word_25_7 f7 b a f3 d op) (by decide)) (word_20_5 f7 b a f3 d op)))

@[simp] theorem word_20_12 : bits 20 12 (rWord f7 b a f3 d op) = f7 ++ b :=
  ((bits_join 7 5 (rWord f7 b a f3 d op) 20).symm.trans (congrArg₂ (· ++ ·) (word_25_7 f7 b a f3 d op) (word_20_5 f7 b a f3 d op)))

@[simp] theorem word_22_3 : bits 22 3 (rWord f7 b a f3 d op) = bits 2 3 b :=
  bits_sub (lo := 2) (len := 3) (word_20_5 f7 b a f3 d op) (by decide)

@[simp] theorem word_23_2 : bits 23 2 (rWord f7 b a f3 d op) = bits 3 2 b :=
  bits_sub (lo := 3) (len := 2) (word_20_5 f7 b a f3 d op) (by decide)

@[simp] theorem word_24_4 : bits 24 4 (rWord f7 b a f3 d op) = bits 0 3 f7 ++ bits 4 1 b :=
  ((bits_join 3 1 (rWord f7 b a f3 d op) 24).symm.trans (congrArg₂ (· ++ ·) (bits_sub (lo := 0) (len := 3) (word_25_7 f7 b a f3 d op) (by decide)) (bits_sub (lo := 4) (len := 1) (word_20_5 f7 b a f3 d op) (by decide))))

@[simp] theorem word_25_1 : bits 25 1 (rWord f7 b a f3 d op) = bits 0 1 f7 :=
  bits_sub (lo := 0) (len := 1) (word_25_7 f7 b a f3 d op) (by decide)

@[simp] theorem word_25_2 : bits 25 2 (rWord f7 b a f3 d op) = bits 0 2 f7 :=
  bits_sub (lo := 0) (len := 2) (word_25_7 f7 b a f3 d op) (by decide)

@[simp] theorem word_25_3 : bits 25 3 (rWord f7 b a f3 d op) = bits 0 3 f7 :=
  bits_sub (lo := 0) (len := 3) (word_25_7 f7 b a f3 d op) (by decide)

@[simp] theorem word_26_1 : bits 26 1 (rWord f7 b a f3 d op) = bits 1 1 f7 :=
  bits_sub (lo := 1) (len := 1) (word_25_7 f7 b a f3 d op) (by decide)

@[simp] theorem word_26_6 : bits 26 6 (rWord f7 b a f3 d op) = bits 1 6 f7 :=
  bits_sub (lo := 1) (len := 6) (word_25_7 f7 b a f3 d op) (by decide)

@[simp] theorem word_27_2 : bits 27 2 (rWord f7 b a f3 d op) = bits 2 2 f7 :=
  bits_sub (lo := 2) (len := 2) (word_25_7 f7 b a f3 d op) (by decide)

@[simp] theorem word_27_3 : bits 27 3 (rWord f7 b a f3 d op) = bits 2 3 f7 :=
  bits_sub (lo := 2) (len := 3) (word_25_7 f7 b a f3 d op) (by decide)

@[simp] theorem word_27_5 : bits 27 5 (rWord f7 b a f3 d op) = bits 2 5 f7 :=
  bits_sub (lo := 2) (len := 5) (word_25_7 f7 b a f3 d op) (by decide)

@[simp] theorem word_28_2 : bits 28 2 (rWord f7 b a f3 d op) = bits 3 2 f7 :=
  bits_sub (lo := 3) (len := 2) (word_25_7 f7 b a f3 d op) (by decide)

@[simp] theorem word_28_3 : bits 28 3 (rWord f7 b a f3 d op) = bits 3 3 f7 :=
  bits_sub (lo := 3) (len := 3) (word_25_7 f7 b a f3 d op) (by decide)

@[simp] theorem word_28_4 : bits 28 4 (rWord f7 b a f3 d op) = bits 3 4 f7 :=
  bits_sub (lo := 3) (len := 4) (word_25_7 f7 b a f3 d op) (by decide)

@[simp] theorem word_29_3 : bits 29 3 (rWord f7 b a f3 d op) = bits 4 3 f7 :=
  bits_sub (lo := 4) (len := 3) (word_25_7 f7 b a f3 d op) (by decide)

@[simp] theorem word_30_2 : bits 30 2 (rWord f7 b a f3 d op) = bits 5 2 f7 :=
  bits_sub (lo := 5) (len := 2) (word_25_7 f7 b a f3 d op) (by decide)

@[simp] theorem word_31_1 : bits 31 1 (rWord f7 b a f3 d op) = bits 6 1 f7 :=
  bits_sub (lo := 6) (len := 1) (word_25_7 f7 b a f3 d op) (by decide)

theorem append_toNat {n w : Nat} (x : BitVec n) (y : BitVec w) : (x ++ y).toNat = x.toNat * 2 ^ w + y.toNat := by
  rw [BitVec.toNat_append, ← Nat.shiftLeft_add_eq_or_of_lt y.isLt, Nat.shiftLeft_eq]

theorem bits_toNat {n lo len : Nat} (x : BitVec n) : (bits lo len x).toNat = x.toNat / 2 ^ lo % 2 ^ len := by
  simp [bits, BitVec.extractLsb', Nat.shiftRight_eq_div_pow]

@[simp] theorem join12 (i : BitVec 12) : bits 5 7 i ++ bits 0 5 i = i := (bits_join 7 5 i 0).trans (bits_all i)
@[simp] theorem join4 (i : BitVec 4) : bits 1 3 i ++ bits 0 1 i = i := (bits_join 3 1 i 0).trans (bits_all i)
@[simp] theorem join6 (i : BitVec 6) : bits 5 1 i ++ bits 0 5 i = i := (bits_join 1 5 i 0).trans (bits_all i)
@[simp] theorem join20 (i : BitVec 20) : bits 13 7 i ++ bits 8 5 i ++ bits 3 5 i ++ bits 0 3 i = i := by
  have h1 : bits 13 7 i ++ bits 8 5 i = bits 8 12 i := bits_join 7 5 i 8
  have h2 : bits 8 12 i ++ bits 3 5 i = bits 3 17 i := bits_join 12 5 i 3
  have h3 : bits 3 17 i ++ bits 0 3 i = i := (bits_join 17 3 i 0).trans (bits_all i)
  rw [h1, h2, h3]

@[simp] theorem hi_6_1 {lo len : Nat} (x : BitVec 6) (y : BitVec 1) (h : 1 ≤ lo) :
    bits (n := 7) lo len (x ++ y) = bits (lo - 1) len x := bits_hi x y h
@[simp] theorem lo_6_1 {lo len : Nat} (x : BitVec 6) (y : BitVec 1) (h : lo + len ≤ 1) :
    bits (n := 7) lo len (x ++ y) = bits lo len y := bits_lo x y h
@[simp] theorem eq_6_1 (x : BitVec 6) (y : BitVec 1) (c : BitVec 7) :
    (x ++ y : BitVec 7) = c ↔ x = bits 1 6 c ∧ y = bits 0 1 c := append_eq x y c

@[simp] theorem hi_5_2 {lo len : Nat} (x : BitVec 5) (y : BitVec 2) (h : 2 ≤ lo) :
    bits (n := 7) lo len (x ++ y) = bits (lo - 2) len x := bits_hi x y h
@[simp] theorem lo_5_2 {lo len : Nat} (x : BitVec 5) (y : BitVec 2) (h : lo + len ≤ 2) :
    bits (n := 7) lo len (x ++ y) = bits lo len y := bits_lo x y h
@[simp] theorem eq_5_2 (x : BitVec 5) (y : BitVec 2) (c : BitVec 7) :
    (x ++ y : BitVec 7) = c ↔ x = bits 2 5 c ∧ y = bits 0 2 c := append_eq x y c

@[simp] theorem hi_4_3 {lo len : Nat} (x : BitVec 4) (y : BitVec 3) (h : 3 ≤ lo) :
    bits (n := 7) lo len (x ++ y) = bits (lo - 3) len x := bits_hi x y h
@[simp] theorem lo_4_3 {lo len : Nat} (x : BitVec 4) (y : BitVec 3) (h : lo + len ≤ 3) :
    bits (n := 7) lo len (x ++ y) = bits lo len y := bits_lo x y h
@[simp] theorem eq_4_3 (x : BitVec 4) (y : BitVec 3) (c : BitVec 7) :
    (x ++ y : BitVec 7) = c ↔ x = bits 3 4 c ∧ y = bits 0 3 c := append_eq x y c

@[simp] theorem hi_5_1 {lo len : Nat} (x : BitVec 5) (y : BitVec 1) (h : 1 ≤ lo) :
    bits (n := 6) lo len (x ++ y) = bits (lo - 1) len x := bits_hi x y h
@[simp] theorem lo_5_1 {lo len : Nat} (x : BitVec 5) (y : BitVec 1) (h : lo + len ≤ 1) :
    bits (n := 6) lo len (x ++ y) = bits lo len y := bits_lo x y h
@[simp] theorem eq_5_1 (x : BitVec 5) (y : BitVec 1) (c : BitVec 6) :
    (x ++ y : BitVec 6) = c ↔ x = bits 1 5 c ∧ y = bits 0 1 c := append_eq x y c

@[simp] theorem hi_2_3 {lo len : Nat} (x : BitVec 2) (y : BitVec 3) (h : 3 ≤ lo) :
    bits (n := 5) lo len (x ++ y) = bits (lo - 3) len x := bits_hi x y h
@[simp] theorem lo_2_3 {lo len : Nat} (x : BitVec 2) (y : BitVec 3) (h : lo + len ≤ 3) :
    bits (n := 5) lo len (x ++ y) = bits lo len y := bits_lo x y h
@[simp] theorem eq_2_3 (x : BitVec 2) (y : BitVec 3) (c : BitVec 5) :
    (x ++ y : BitVec 5) = c ↔ x = bits 3 2 c ∧ y = bits 0 3 c := append_eq x y c

@[simp] theorem hi_3_2 {lo len : Nat} (x : BitVec 3) (y : BitVec 2) (h : 2 ≤ lo) :
    bits (n := 5) lo len (x ++ y) = bits (lo - 2) len x := bits_hi x y h
@[simp] theorem lo_3_2 {lo len : Nat} (x : BitVec 3) (y : BitVec 2) (h : lo + len ≤ 2) :
    bits (n := 5) lo len (x ++ y) = bits lo len y := bits_lo x y h
@[simp] theorem eq_3_2 (x : BitVec 3) (y : BitVec 2) (c : BitVec 5) :
    (x ++ y : BitVec 5) = c ↔ x = bits 2 3 c ∧ y = bits 0 2 c := append_eq x y c

@[simp] theorem hi_1_4 {lo len : Nat} (x : BitVec 1) (y : BitVec 4) (h : 4 ≤ lo) :
    bits (n := 5) lo len (x ++ y) = bits (lo - 4) len x := bits_hi x y h
@[simp] theorem lo_1_4 {lo len : Nat} (x : BitVec 1) (y : BitVec 4) (h : lo + len ≤ 4) :
    bits (n := 5) lo len (x ++ y) = bits lo len y := bits_lo x y h
@[simp] theorem eq_1_4 (x : BitVec 1) (y : BitVec 4) (c : BitVec 5) :
    (x ++ y : BitVec 5) = c ↔ x = bits 4 1 c ∧ y = bits 0 4 c := append_eq x y c

@[simp] theorem hi_1_2 {lo len : Nat} (x : BitVec 1) (y : BitVec 2) (h : 2 ≤ lo) :
    bits (n := 3) lo len (x ++ y) = bits (lo - 2) len x := bits_hi x y h
@[simp] theorem lo_1_2 {lo len : Nat} (x : BitVec 1) (y : BitVec 2) (h : lo + len ≤ 2) :
    bits (n := 3) lo len (x ++ y) = bits lo len y := bits_lo x y h
@[simp] theorem eq_1_2 (x : BitVec 1) (y : BitVec 2) (c : BitVec 3) :
    (x ++ y : BitVec 3) = c ↔ x = bits 2 1 c ∧ y = bits 0 2 c := append_eq x y c

@[simp] theorem hi_2_1 {lo len : Nat} (x : BitVec 2) (y : BitVec 1) (h : 1 ≤ lo) :
    bits (n := 3) lo len (x ++ y) = bits (lo - 1) len x := bits_hi x y h
@[simp] theorem lo_2_1 {lo len : Nat} (x : BitVec 2) (y : BitVec 1) (h : lo + len ≤ 1) :
    bits (n := 3) lo len (x ++ y) = bits lo len y := bits_lo x y h
@[simp] theorem eq_2_1 (x : BitVec 2) (y : BitVec 1) (c : BitVec 3) :
    (x ++ y : BitVec 3) = c ↔ x = bits 1 2 c ∧ y = bits 0 1 c := append_eq x y c

@[simp] theorem hi_2_2 {lo len : Nat} (x : BitVec 2) (y : BitVec 2) (h : 2 ≤ lo) :
    bits (n := 4) lo len (x ++ y) = bits (lo - 2) len x := bits_hi x y h
@[simp] theorem lo_2_2 {lo len : Nat} (x : BitVec 2) (y : BitVec 2) (h : lo + len ≤ 2) :
    bits (n := 4) lo len (x ++ y) = bits lo len y := bits_lo x y h
@[simp] theorem eq_2_2 (x : BitVec 2) (y : BitVec 2) (c : BitVec 4) :
    (x ++ y : BitVec 4) = c ↔ x = bits 2 2 c ∧ y = bits 0 2 c := append_eq x y c

@[simp] theorem hi_1_3 {lo len : Nat} (x : BitVec 1) (y : BitVec 3) (h : 3 ≤ lo) :
    bits (n := 4) lo len (x ++ y) = bits (lo - 3) len x := bits_hi x y h
@[simp] theorem lo_1_3 {lo len : Nat} (x : BitVec 1) (y : BitVec 3) (h : lo + len ≤ 3) :
    bits (n := 4) lo len (x ++ y) = bits lo len y := bits_lo x y h
@[simp] theorem eq_1_3 (x : BitVec 1) (y : BitVec 3) (c : BitVec 4) :
    (x ++ y : BitVec 4) = c ↔ x = bits 3 1 c ∧ y = bits 0 3 c := append_eq x y c

theorem row_03 : decodeRow (rWord f7 b a f3 d 0x3#7) = decodeLoad (rWord f7 b a f3 d 0x3#7) := by
  unfold decodeRow
  rw [word_0_7]
  rfl

theorem row_07 : decodeRow (rWord f7 b a f3 d 0x7#7) = decodeLoadFp (rWord f7 b a f3 d 0x7#7) := by
  unfold decodeRow
  rw [word_0_7]
  rfl

theorem row_0B : decodeRow (rWord f7 b a f3 d 0xB#7) = decodeKzMem (rWord f7 b a f3 d 0xB#7) := by
  unfold decodeRow
  rw [word_0_7]
  rfl

theorem row_0F : decodeRow (rWord f7 b a f3 d 0xF#7) = decodeMiscMem (rWord f7 b a f3 d 0xF#7) := by
  unfold decodeRow
  rw [word_0_7]
  rfl

theorem row_13 : decodeRow (rWord f7 b a f3 d 0x13#7) = decodeOpImm (rWord f7 b a f3 d 0x13#7) := by
  unfold decodeRow
  rw [word_0_7]
  rfl

theorem row_17 : decodeRow (rWord f7 b a f3 d 0x17#7) = decodeAuipc (rWord f7 b a f3 d 0x17#7) := by
  unfold decodeRow
  rw [word_0_7]
  rfl

theorem row_1B : decodeRow (rWord f7 b a f3 d 0x1B#7) = decodeOpImm32 (rWord f7 b a f3 d 0x1B#7) := by
  unfold decodeRow
  rw [word_0_7]
  rfl

theorem row_23 : decodeRow (rWord f7 b a f3 d 0x23#7) = decodeStore (rWord f7 b a f3 d 0x23#7) := by
  unfold decodeRow
  rw [word_0_7]
  rfl

theorem row_27 : decodeRow (rWord f7 b a f3 d 0x27#7) = decodeStoreFp (rWord f7 b a f3 d 0x27#7) := by
  unfold decodeRow
  rw [word_0_7]
  rfl

theorem row_2B : decodeRow (rWord f7 b a f3 d 0x2B#7) = decodeKzMsg (rWord f7 b a f3 d 0x2B#7) := by
  unfold decodeRow
  rw [word_0_7]
  rfl

theorem row_33 : decodeRow (rWord f7 b a f3 d 0x33#7) = decodeOp (rWord f7 b a f3 d 0x33#7) := by
  unfold decodeRow
  rw [word_0_7]
  rfl

theorem row_37 : decodeRow (rWord f7 b a f3 d 0x37#7) = decodeLui (rWord f7 b a f3 d 0x37#7) := by
  unfold decodeRow
  rw [word_0_7]
  rfl

theorem row_3B : decodeRow (rWord f7 b a f3 d 0x3B#7) = decodeOp32 (rWord f7 b a f3 d 0x3B#7) := by
  unfold decodeRow
  rw [word_0_7]
  rfl

theorem row_53 : decodeRow (rWord f7 b a f3 d 0x53#7) = decodeOpFp (rWord f7 b a f3 d 0x53#7) := by
  unfold decodeRow
  rw [word_0_7]
  rfl

theorem row_5B : decodeRow (rWord f7 b a f3 d 0x5B#7) = decodeKzWv (rWord f7 b a f3 d 0x5B#7) := by
  unfold decodeRow
  rw [word_0_7]
  rfl

theorem row_63 : decodeRow (rWord f7 b a f3 d 0x63#7) = decodeBranch (rWord f7 b a f3 d 0x63#7) := by
  unfold decodeRow
  rw [word_0_7]
  rfl

theorem row_67 : decodeRow (rWord f7 b a f3 d 0x67#7) = decodeJalr (rWord f7 b a f3 d 0x67#7) := by
  unfold decodeRow
  rw [word_0_7]
  rfl

theorem row_6F : decodeRow (rWord f7 b a f3 d 0x6F#7) = decodeJal (rWord f7 b a f3 d 0x6F#7) := by
  unfold decodeRow
  rw [word_0_7]
  rfl

theorem row_73 : decodeRow (rWord f7 b a f3 d 0x73#7) = decodeSystem (rWord f7 b a f3 d 0x73#7) := by
  unfold decodeRow
  rw [word_0_7]
  rfl

theorem row_7B : decodeRow (rWord f7 b a f3 d 0x7B#7) = decodeKzMx (rWord f7 b a f3 d 0x7B#7) := by
  unfold decodeRow
  rw [word_0_7]
  rfl

theorem row_fused (o : BitVec 2) : decodeRow (rWord f7 b a f3 d (0x4#3 ++ o ++ 0x3#2)) =
    decodeFused (rWord f7 b a f3 d (0x4#3 ++ o ++ 0x3#2)) := by
  unfold decodeRow
  rw [word_0_7]
  have h : ∀ o : BitVec 2, o = 0#2 ∨ o = 1#2 ∨ o = 2#2 ∨ o = 3#2 := by decide
  rcases h o with rfl | rfl | rfl | rfl <;> rfl

end Sys2Proof.Laws
end

