-- ==== Sys2Proof/Laws/PerInstr.lean ====
section
/-! SUPPORT. The encoding, instruction by instruction: the word that the encoder writes decodes to the instruction. -/
namespace Sys2Proof.Laws

set_option Elab.async false

/-- A row that the decoder finds, and whose fields are in order, is what it answers. -/
theorem decode_of_row {w : BitVec 32} {i : Instr} (h : decodeRow w = some i) (hw : i.wellFormed = true) :
    decode w = .ok i := by
  simp only [Instr.wellFormed, Bool.and_eq_true] at hw
  simp [decode, h, hw.1, hw.2]

/-- The family: the word of a well-formed instruction decodes to it. -/
def RoundTrip.Statement (i : Instr) : Prop :=
  i.hasWord = true → i.wellFormed = true → decode (encode i) = .ok i.written

theorem RoundTrip.lui (i : BitVec 20) (d : BitVec 5) : RoundTrip.Statement (.lui i d) := by
  intro _ hw
  have e : encode (.lui i d) = rWord (bits 13 7 i) (bits 8 5 i) (bits 3 5 i) (bits 0 3 i) d 0x37#7 := by
    apply BitVec.eq_of_toNat_eq
    have := i.isLt
    simp only [encode, rWord, append_toNat, bits_toNat, BitVec.reduceToNat, Nat.reducePow]
    omega
  have r : decodeRow (encode (.lui i d)) = some (Instr.written (.lui i d)) := by
    rw [e]
    simp [row_37, decodeLui, Instr.written]
  exact decode_of_row r hw

theorem RoundTrip.auipc (i : BitVec 20) (d : BitVec 5) : RoundTrip.Statement (.auipc i d) := by
  intro _ hw
  have e : encode (.auipc i d) = rWord (bits 13 7 i) (bits 8 5 i) (bits 3 5 i) (bits 0 3 i) d 0x17#7 := by
    apply BitVec.eq_of_toNat_eq
    have := i.isLt
    simp only [encode, rWord, append_toNat, bits_toNat, BitVec.reduceToNat, Nat.reducePow]
    omega
  have r : decodeRow (encode (.auipc i d)) = some (Instr.written (.auipc i d)) := by
    rw [e]
    simp [row_17, decodeAuipc, Instr.written]
  exact decode_of_row r hw

theorem RoundTrip.jal (i : BitVec 20) (d : BitVec 5) : RoundTrip.Statement (.jal i d) := by
  intro _ hw
  have e : encode (.jal i d) = rWord (bits 13 7 i) (bits 8 5 i) (bits 3 5 i) (bits 0 3 i) d 0x6F#7 := by
    apply BitVec.eq_of_toNat_eq
    have := i.isLt
    simp only [encode, rWord, append_toNat, bits_toNat, BitVec.reduceToNat, Nat.reducePow]
    omega
  have r : decodeRow (encode (.jal i d)) = some (Instr.written (.jal i d)) := by
    rw [e]
    simp [row_6F, decodeJal, Instr.written]
  exact decode_of_row r hw

theorem RoundTrip.jalr (i : BitVec 12) (a : BitVec 5) (d : BitVec 5) : RoundTrip.Statement (.jalr i a d) := by
  intro _ hw
  have e : encode (.jalr i a d) = rWord (bits 5 7 i) (bits 0 5 i) a 0x0#3 d 0x67#7 := by
    apply BitVec.eq_of_toNat_eq
    have := i.isLt
    simp only [encode, rWord, append_toNat, bits_toNat, BitVec.reduceToNat, Nat.reducePow]
    omega
  have r : decodeRow (encode (.jalr i a d)) = some (Instr.written (.jalr i a d)) := by
    rw [e]
    simp [row_67, decodeJalr, Instr.written]
  exact decode_of_row r hw

theorem RoundTrip.branch (j : BitVec 7) (b : BitVec 5) (a : BitVec 5) (f : BitVec 3) (k : BitVec 5) : RoundTrip.Statement (.branch j b a f k) := by
  intro _ hw
  have e : encode (.branch j b a f k) = rWord j b a f k 0x63#7 := rfl
  have r : decodeRow (encode (.branch j b a f k)) = some (Instr.written (.branch j b a f k)) := by
    rw [e]
    simp [row_63, decodeBranch, Instr.written]
  exact decode_of_row r hw

theorem RoundTrip.load (i : BitVec 12) (a : BitVec 5) (f : BitVec 3) (d : BitVec 5) : RoundTrip.Statement (.load i a f d) := by
  intro _ hw
  have e : encode (.load i a f d) = rWord (bits 5 7 i) (bits 0 5 i) a f d 0x3#7 := by
    apply BitVec.eq_of_toNat_eq
    have := i.isLt
    simp only [encode, rWord, append_toNat, bits_toNat, BitVec.reduceToNat, Nat.reducePow]
    omega
  have r : decodeRow (encode (.load i a f d)) = some (Instr.written (.load i a f d)) := by
    rw [e]
    simp [row_03, decodeLoad, Instr.written]
  exact decode_of_row r hw

theorem RoundTrip.store (j : BitVec 7) (b : BitVec 5) (a : BitVec 5) (f : BitVec 3) (k : BitVec 5) : RoundTrip.Statement (.store j b a f k) := by
  intro _ hw
  have e : encode (.store j b a f k) = rWord j b a f k 0x23#7 := rfl
  have r : decodeRow (encode (.store j b a f k)) = some (Instr.written (.store j b a f k)) := by
    rw [e]
    simp [row_23, decodeStore, Instr.written]
  exact decode_of_row r hw

theorem RoundTrip.opImm (i : BitVec 12) (a : BitVec 5) (f : BitVec 3) (d : BitVec 5) : RoundTrip.Statement (.opImm i a f d) := by
  intro _ hw
  have e : encode (.opImm i a f d) = rWord (bits 5 7 i) (bits 0 5 i) a f d 0x13#7 := by
    apply BitVec.eq_of_toNat_eq
    have := i.isLt
    simp only [encode, rWord, append_toNat, bits_toNat, BitVec.reduceToNat, Nat.reducePow]
    omega
  have h1 : f ≠ 1#3 := by rintro rfl; cases hw
  have h5 : f ≠ 5#3 := by rintro rfl; cases hw
  have r : decodeRow (encode (.opImm i a f d)) = some (Instr.written (.opImm i a f d)) := by
    rw [e]
    simp [row_13, decodeOpImm, Instr.written, h1, h5]
  exact decode_of_row r hw

theorem RoundTrip.slli (s : BitVec 6) (a : BitVec 5) (d : BitVec 5) : RoundTrip.Statement (.slli s a d) := by
  intro _ hw
  have e : encode (.slli s a d) = rWord (0x0#6 ++ (bits 5 1 s)) (bits 0 5 s) a 0x1#3 d 0x13#7 := by
    apply BitVec.eq_of_toNat_eq
    have := s.isLt
    simp only [encode, rWord, append_toNat, bits_toNat, BitVec.reduceToNat, Nat.reducePow]
    omega
  have r : decodeRow (encode (.slli s a d)) = some (Instr.written (.slli s a d)) := by
    rw [e]
    simp [row_13, decodeOpImm, Instr.written]
  exact decode_of_row r hw

theorem RoundTrip.srli (s : BitVec 6) (a : BitVec 5) (d : BitVec 5) : RoundTrip.Statement (.srli s a d) := by
  intro _ hw
  have e : encode (.srli s a d) = rWord (0x0#6 ++ (bits 5 1 s)) (bits 0 5 s) a 0x5#3 d 0x13#7 := by
    apply BitVec.eq_of_toNat_eq
    have := s.isLt
    simp only [encode, rWord, append_toNat, bits_toNat, BitVec.reduceToNat, Nat.reducePow]
    omega
  have r : decodeRow (encode (.srli s a d)) = some (Instr.written (.srli s a d)) := by
    rw [e]
    simp [row_13, decodeOpImm, Instr.written]
  exact decode_of_row r hw

theorem RoundTrip.srai (s : BitVec 6) (a : BitVec 5) (d : BitVec 5) : RoundTrip.Statement (.srai s a d) := by
  intro _ hw
  have e : encode (.srai s a d) = rWord (0x10#6 ++ (bits 5 1 s)) (bits 0 5 s) a 0x5#3 d 0x13#7 := by
    apply BitVec.eq_of_toNat_eq
    have := s.isLt
    simp only [encode, rWord, append_toNat, bits_toNat, BitVec.reduceToNat, Nat.reducePow]
    omega
  have r : decodeRow (encode (.srai s a d)) = some (Instr.written (.srai s a d)) := by
    rw [e]
    simp [row_13, decodeOpImm, Instr.written]
  exact decode_of_row r hw

theorem RoundTrip.addiw (i : BitVec 12) (a : BitVec 5) (d : BitVec 5) : RoundTrip.Statement (.addiw i a d) := by
  intro _ hw
  have e : encode (.addiw i a d) = rWord (bits 5 7 i) (bits 0 5 i) a 0x0#3 d 0x1B#7 := by
    apply BitVec.eq_of_toNat_eq
    have := i.isLt
    simp only [encode, rWord, append_toNat, bits_toNat, BitVec.reduceToNat, Nat.reducePow]
    omega
  have r : decodeRow (encode (.addiw i a d)) = some (Instr.written (.addiw i a d)) := by
    rw [e]
    simp [row_1B, decodeOpImm32, Instr.written]
  exact decode_of_row r hw

theorem RoundTrip.slliw (s : BitVec 5) (a : BitVec 5) (d : BitVec 5) : RoundTrip.Statement (.slliw s a d) := by
  intro _ hw
  have e : encode (.slliw s a d) = rWord 0x0#7 s a 0x1#3 d 0x1B#7 := rfl
  have r : decodeRow (encode (.slliw s a d)) = some (Instr.written (.slliw s a d)) := by
    rw [e]
    simp [row_1B, decodeOpImm32, Instr.written]
  exact decode_of_row r hw

theorem RoundTrip.srliw (s : BitVec 5) (a : BitVec 5) (d : BitVec 5) : RoundTrip.Statement (.srliw s a d) := by
  intro _ hw
  have e : encode (.srliw s a d) = rWord 0x0#7 s a 0x5#3 d 0x1B#7 := rfl
  have r : decodeRow (encode (.srliw s a d)) = some (Instr.written (.srliw s a d)) := by
    rw [e]
    simp [row_1B, decodeOpImm32, Instr.written]
  exact decode_of_row r hw

theorem RoundTrip.sraiw (s : BitVec 5) (a : BitVec 5) (d : BitVec 5) : RoundTrip.Statement (.sraiw s a d) := by
  intro _ hw
  have e : encode (.sraiw s a d) = rWord 0x20#7 s a 0x5#3 d 0x1B#7 := rfl
  have r : decodeRow (encode (.sraiw s a d)) = some (Instr.written (.sraiw s a d)) := by
    rw [e]
    simp [row_1B, decodeOpImm32, Instr.written]
  exact decode_of_row r hw

theorem RoundTrip.op (b : BitVec 5) (a : BitVec 5) (f : BitVec 3) (d : BitVec 5) : RoundTrip.Statement (.op b a f d) := by
  intro _ hw
  have e : encode (.op b a f d) = rWord 0x0#7 b a f d 0x33#7 := rfl
  have r : decodeRow (encode (.op b a f d)) = some (Instr.written (.op b a f d)) := by
    rw [e]
    simp [row_33, decodeOp, Instr.written]
  exact decode_of_row r hw

theorem RoundTrip.sub (b : BitVec 5) (a : BitVec 5) (d : BitVec 5) : RoundTrip.Statement (.sub b a d) := by
  intro _ hw
  have e : encode (.sub b a d) = rWord 0x20#7 b a 0x0#3 d 0x33#7 := rfl
  have r : decodeRow (encode (.sub b a d)) = some (Instr.written (.sub b a d)) := by
    rw [e]
    simp [row_33, decodeOp, Instr.written]
  exact decode_of_row r hw

theorem RoundTrip.sra (b : BitVec 5) (a : BitVec 5) (d : BitVec 5) : RoundTrip.Statement (.sra b a d) := by
  intro _ hw
  have e : encode (.sra b a d) = rWord 0x20#7 b a 0x5#3 d 0x33#7 := rfl
  have r : decodeRow (encode (.sra b a d)) = some (Instr.written (.sra b a d)) := by
    rw [e]
    simp [row_33, decodeOp, Instr.written]
  exact decode_of_row r hw

theorem RoundTrip.op32 (b : BitVec 5) (a : BitVec 5) (f : BitVec 3) (d : BitVec 5) : RoundTrip.Statement (.op32 b a f d) := by
  intro _ hw
  have e : encode (.op32 b a f d) = rWord 0x0#7 b a f d 0x3B#7 := rfl
  have r : decodeRow (encode (.op32 b a f d)) = some (Instr.written (.op32 b a f d)) := by
    rw [e]
    simp [row_3B, decodeOp32, Instr.written]
  exact decode_of_row r hw

theorem RoundTrip.subw (b : BitVec 5) (a : BitVec 5) (d : BitVec 5) : RoundTrip.Statement (.subw b a d) := by
  intro _ hw
  have e : encode (.subw b a d) = rWord 0x20#7 b a 0x0#3 d 0x3B#7 := rfl
  have r : decodeRow (encode (.subw b a d)) = some (Instr.written (.subw b a d)) := by
    rw [e]
    simp [row_3B, decodeOp32, Instr.written]
  exact decode_of_row r hw

theorem RoundTrip.sraw (b : BitVec 5) (a : BitVec 5) (d : BitVec 5) : RoundTrip.Statement (.sraw b a d) := by
  intro _ hw
  have e : encode (.sraw b a d) = rWord 0x20#7 b a 0x5#3 d 0x3B#7 := rfl
  have r : decodeRow (encode (.sraw b a d)) = some (Instr.written (.sraw b a d)) := by
    rw [e]
    simp [row_3B, decodeOp32, Instr.written]
  exact decode_of_row r hw

theorem RoundTrip.fence (f : BitVec 4) (p : BitVec 4) (s : BitVec 4) (a : BitVec 5) (d : BitVec 5) : RoundTrip.Statement (.fence f p s a d) := by
  intro _ hw
  have e : encode (.fence f p s a d) = rWord (f ++ (bits 1 3 p)) ((bits 0 1 p) ++ s) a 0x0#3 d 0xF#7 := by
    apply BitVec.eq_of_toNat_eq
    have := p.isLt
    simp only [encode, rWord, append_toNat, bits_toNat, BitVec.reduceToNat, Nat.reducePow]
    omega
  have r : decodeRow (encode (.fence f p s a d)) = some (Instr.written (.fence f p s a d)) := by
    rw [e]
    simp [row_0F, decodeMiscMem, Instr.written]
  exact decode_of_row r hw

theorem RoundTrip.fenceI (i : BitVec 12) (a : BitVec 5) (d : BitVec 5) : RoundTrip.Statement (.fenceI i a d) := by
  intro _ hw
  have e : encode (.fenceI i a d) = rWord (bits 5 7 i) (bits 0 5 i) a 0x1#3 d 0xF#7 := by
    apply BitVec.eq_of_toNat_eq
    have := i.isLt
    simp only [encode, rWord, append_toNat, bits_toNat, BitVec.reduceToNat, Nat.reducePow]
    omega
  have r : decodeRow (encode (.fenceI i a d)) = some (Instr.written (.fenceI i a d)) := by
    rw [e]
    simp [row_0F, decodeMiscMem, Instr.written]
  exact decode_of_row r hw

theorem RoundTrip.ecall : RoundTrip.Statement (.ecall) := by
  intro _ hw
  have e : encode (.ecall) = rWord 0x0#7 0x0#5 0x0#5 0x0#3 0x0#5 0x73#7 := rfl
  have r : decodeRow (encode (.ecall)) = some (Instr.written (.ecall)) := by
    rw [e]
    simp [row_73, decodeSystem, Instr.written]
  exact decode_of_row r hw

theorem RoundTrip.ebreak : RoundTrip.Statement (.ebreak) := by
  intro _ hw
  have e : encode (.ebreak) = rWord 0x0#7 0x1#5 0x0#5 0x0#3 0x0#5 0x73#7 := rfl
  have r : decodeRow (encode (.ebreak)) = some (Instr.written (.ebreak)) := by
    rw [e]
    simp [row_73, decodeSystem, Instr.written]
  exact decode_of_row r hw

theorem RoundTrip.mul (b : BitVec 5) (a : BitVec 5) (f : BitVec 2) (d : BitVec 5) : RoundTrip.Statement (.mul b a f d) := by
  intro _ hw
  have e : encode (.mul b a f d) = rWord 0x1#7 b a (0x0#1 ++ f) d 0x33#7 := by
    apply BitVec.eq_of_toNat_eq
    simp only [encode, rWord, append_toNat, BitVec.reduceToNat, Nat.reducePow]
    omega
  have r : decodeRow (encode (.mul b a f d)) = some (Instr.written (.mul b a f d)) := by
    rw [e]
    simp [row_33, decodeOp, Instr.written]
  exact decode_of_row r hw

theorem RoundTrip.div (b : BitVec 5) (a : BitVec 5) (f : BitVec 2) (d : BitVec 5) : RoundTrip.Statement (.div b a f d) := by
  intro _ hw
  have e : encode (.div b a f d) = rWord 0x1#7 b a (0x1#1 ++ f) d 0x33#7 := by
    apply BitVec.eq_of_toNat_eq
    simp only [encode, rWord, append_toNat, BitVec.reduceToNat, Nat.reducePow]
    omega
  have r : decodeRow (encode (.div b a f d)) = some (Instr.written (.div b a f d)) := by
    rw [e]
    simp [row_33, decodeOp, Instr.written]
  exact decode_of_row r hw

theorem RoundTrip.mulw (b : BitVec 5) (a : BitVec 5) (d : BitVec 5) : RoundTrip.Statement (.mulw b a d) := by
  intro _ hw
  have e : encode (.mulw b a d) = rWord 0x1#7 b a 0x0#3 d 0x3B#7 := rfl
  have r : decodeRow (encode (.mulw b a d)) = some (Instr.written (.mulw b a d)) := by
    rw [e]
    simp [row_3B, decodeOp32, Instr.written]
  exact decode_of_row r hw

theorem RoundTrip.divw (b : BitVec 5) (a : BitVec 5) (f : BitVec 2) (d : BitVec 5) : RoundTrip.Statement (.divw b a f d) := by
  intro _ hw
  have e : encode (.divw b a f d) = rWord 0x1#7 b a (0x1#1 ++ f) d 0x3B#7 := by
    apply BitVec.eq_of_toNat_eq
    simp only [encode, rWord, append_toNat, BitVec.reduceToNat, Nat.reducePow]
    omega
  have r : decodeRow (encode (.divw b a f d)) = some (Instr.written (.divw b a f d)) := by
    rw [e]
    simp [row_3B, decodeOp32, Instr.written]
  exact decode_of_row r hw

theorem RoundTrip.shadd (b : BitVec 5) (a : BitVec 5) (f : BitVec 2) (d : BitVec 5) : RoundTrip.Statement (.shadd b a f d) := by
  intro _ hw
  have e : encode (.shadd b a f d) = rWord 0x10#7 b a (f ++ 0x0#1) d 0x33#7 := by
    apply BitVec.eq_of_toNat_eq
    simp only [encode, rWord, append_toNat, BitVec.reduceToNat, Nat.reducePow]
    omega
  have r : decodeRow (encode (.shadd b a f d)) = some (Instr.written (.shadd b a f d)) := by
    rw [e]
    simp [row_33, decodeOp, Instr.written]
  exact decode_of_row r hw

theorem RoundTrip.addUw (b : BitVec 5) (a : BitVec 5) (d : BitVec 5) : RoundTrip.Statement (.addUw b a d) := by
  intro _ hw
  have e : encode (.addUw b a d) = rWord 0x4#7 b a 0x0#3 d 0x3B#7 := rfl
  have r : decodeRow (encode (.addUw b a d)) = some (Instr.written (.addUw b a d)) := by
    rw [e]
    simp [row_3B, decodeOp32, Instr.written]
  exact decode_of_row r hw

theorem RoundTrip.shaddUw (b : BitVec 5) (a : BitVec 5) (f : BitVec 2) (d : BitVec 5) : RoundTrip.Statement (.shaddUw b a f d) := by
  intro _ hw
  have e : encode (.shaddUw b a f d) = rWord 0x10#7 b a (f ++ 0x0#1) d 0x3B#7 := by
    apply BitVec.eq_of_toNat_eq
    simp only [encode, rWord, append_toNat, BitVec.reduceToNat, Nat.reducePow]
    omega
  have r : decodeRow (encode (.shaddUw b a f d)) = some (Instr.written (.shaddUw b a f d)) := by
    rw [e]
    simp [row_3B, decodeOp32, Instr.written]
  exact decode_of_row r hw

theorem RoundTrip.slliUw (s : BitVec 6) (a : BitVec 5) (d : BitVec 5) : RoundTrip.Statement (.slliUw s a d) := by
  intro _ hw
  have e : encode (.slliUw s a d) = rWord (0x2#6 ++ (bits 5 1 s)) (bits 0 5 s) a 0x1#3 d 0x1B#7 := by
    apply BitVec.eq_of_toNat_eq
    have := s.isLt
    simp only [encode, rWord, append_toNat, bits_toNat, BitVec.reduceToNat, Nat.reducePow]
    omega
  have r : decodeRow (encode (.slliUw s a d)) = some (Instr.written (.slliUw s a d)) := by
    rw [e]
    simp [row_1B, decodeOpImm32, Instr.written]
  exact decode_of_row r hw

theorem RoundTrip.andnOrnXnor (b : BitVec 5) (a : BitVec 5) (f : BitVec 3) (d : BitVec 5) : RoundTrip.Statement (.andnOrnXnor b a f d) := by
  intro _ hw
  have e : encode (.andnOrnXnor b a f d) = rWord 0x20#7 b a f d 0x33#7 := rfl
  have h1 : f ≠ 0#3 := by rintro rfl; cases hw
  have h5 : f ≠ 5#3 := by rintro rfl; cases hw
  have r : decodeRow (encode (.andnOrnXnor b a f d)) = some (Instr.written (.andnOrnXnor b a f d)) := by
    rw [e]
    simp [row_33, decodeOp, Instr.written, h1, h5]
  exact decode_of_row r hw

theorem RoundTrip.minMax (b : BitVec 5) (a : BitVec 5) (f : BitVec 2) (d : BitVec 5) : RoundTrip.Statement (.minMax b a f d) := by
  intro _ hw
  have e : encode (.minMax b a f d) = rWord 0x5#7 b a (0x1#1 ++ f) d 0x33#7 := by
    apply BitVec.eq_of_toNat_eq
    simp only [encode, rWord, append_toNat, BitVec.reduceToNat, Nat.reducePow]
    omega
  have r : decodeRow (encode (.minMax b a f d)) = some (Instr.written (.minMax b a f d)) := by
    rw [e]
    simp [row_33, decodeOp, Instr.written]
  exact decode_of_row r hw

theorem RoundTrip.rolRor (b : BitVec 5) (a : BitVec 5) (f : BitVec 1) (d : BitVec 5) : RoundTrip.Statement (.rolRor b a f d) := by
  intro _ hw
  have e : encode (.rolRor b a f d) = rWord 0x30#7 b a (f ++ 0x1#2) d 0x33#7 := by
    apply BitVec.eq_of_toNat_eq
    simp only [encode, rWord, append_toNat, BitVec.reduceToNat, Nat.reducePow]
    omega
  have r : decodeRow (encode (.rolRor b a f d)) = some (Instr.written (.rolRor b a f d)) := by
    rw [e]
    simp [row_33, decodeOp, Instr.written]
  exact decode_of_row r hw

theorem RoundTrip.rolwRorw (b : BitVec 5) (a : BitVec 5) (f : BitVec 1) (d : BitVec 5) : RoundTrip.Statement (.rolwRorw b a f d) := by
  intro _ hw
  have e : encode (.rolwRorw b a f d) = rWord 0x30#7 b a (f ++ 0x1#2) d 0x3B#7 := by
    apply BitVec.eq_of_toNat_eq
    simp only [encode, rWord, append_toNat, BitVec.reduceToNat, Nat.reducePow]
    omega
  have r : decodeRow (encode (.rolwRorw b a f d)) = some (Instr.written (.rolwRorw b a f d)) := by
    rw [e]
    simp [row_3B, decodeOp32, Instr.written]
  exact decode_of_row r hw

theorem RoundTrip.rori (s : BitVec 6) (a : BitVec 5) (d : BitVec 5) : RoundTrip.Statement (.rori s a d) := by
  intro _ hw
  have e : encode (.rori s a d) = rWord (0x18#6 ++ (bits 5 1 s)) (bits 0 5 s) a 0x5#3 d 0x13#7 := by
    apply BitVec.eq_of_toNat_eq
    have := s.isLt
    simp only [encode, rWord, append_toNat, bits_toNat, BitVec.reduceToNat, Nat.reducePow]
    omega
  have r : decodeRow (encode (.rori s a d)) = some (Instr.written (.rori s a d)) := by
    rw [e]
    simp [row_13, decodeOpImm, Instr.written]
  exact decode_of_row r hw

theorem RoundTrip.roriw (s : BitVec 5) (a : BitVec 5) (d : BitVec 5) : RoundTrip.Statement (.roriw s a d) := by
  intro _ hw
  have e : encode (.roriw s a d) = rWord 0x30#7 s a 0x5#3 d 0x1B#7 := rfl
  have r : decodeRow (encode (.roriw s a d)) = some (Instr.written (.roriw s a d)) := by
    rw [e]
    simp [row_1B, decodeOpImm32, Instr.written]
  exact decode_of_row r hw

theorem RoundTrip.clzCtzCpopSext (f : BitVec 3) (a : BitVec 5) (d : BitVec 5) : RoundTrip.Statement (.clzCtzCpopSext f a d) := by
  intro _ hw
  have e : encode (.clzCtzCpopSext f a d) = rWord 0x30#7 (0x0#2 ++ f) a 0x1#3 d 0x13#7 := by
    apply BitVec.eq_of_toNat_eq
    simp only [encode, rWord, append_toNat, BitVec.reduceToNat, Nat.reducePow]
    omega
  have r : decodeRow (encode (.clzCtzCpopSext f a d)) = some (Instr.written (.clzCtzCpopSext f a d)) := by
    rw [e]
    simp [row_13, decodeOpImm, Instr.written]
  exact decode_of_row r hw

theorem RoundTrip.clzwCtzwCpopw (f : BitVec 3) (a : BitVec 5) (d : BitVec 5) : RoundTrip.Statement (.clzwCtzwCpopw f a d) := by
  intro _ hw
  have e : encode (.clzwCtzwCpopw f a d) = rWord 0x30#7 (0x0#2 ++ f) a 0x1#3 d 0x1B#7 := by
    apply BitVec.eq_of_toNat_eq
    simp only [encode, rWord, append_toNat, BitVec.reduceToNat, Nat.reducePow]
    omega
  have r : decodeRow (encode (.clzwCtzwCpopw f a d)) = some (Instr.written (.clzwCtzwCpopw f a d)) := by
    rw [e]
    simp [row_1B, decodeOpImm32, Instr.written]
  exact decode_of_row r hw

theorem RoundTrip.orcB (a : BitVec 5) (d : BitVec 5) : RoundTrip.Statement (.orcB a d) := by
  intro _ hw
  have e : encode (.orcB a d) = rWord 0x14#7 0x7#5 a 0x5#3 d 0x13#7 := rfl
  have r : decodeRow (encode (.orcB a d)) = some (Instr.written (.orcB a d)) := by
    rw [e]
    simp [row_13, decodeOpImm, Instr.written]
  exact decode_of_row r hw

theorem RoundTrip.rev8 (a : BitVec 5) (d : BitVec 5) : RoundTrip.Statement (.rev8 a d) := by
  intro _ hw
  have e : encode (.rev8 a d) = rWord 0x35#7 0x18#5 a 0x5#3 d 0x13#7 := rfl
  have r : decodeRow (encode (.rev8 a d)) = some (Instr.written (.rev8 a d)) := by
    rw [e]
    simp [row_13, decodeOpImm, Instr.written]
  exact decode_of_row r hw

theorem RoundTrip.zextH (a : BitVec 5) (d : BitVec 5) : RoundTrip.Statement (.zextH a d) := by
  intro _ hw
  have e : encode (.zextH a d) = rWord 0x4#7 0x0#5 a 0x4#3 d 0x3B#7 := rfl
  have r : decodeRow (encode (.zextH a d)) = some (Instr.written (.zextH a d)) := by
    rw [e]
    simp [row_3B, decodeOp32, Instr.written]
  exact decode_of_row r hw

theorem RoundTrip.fpLoad (i : BitVec 12) (a : BitVec 5) (f : BitVec 1) (d : BitVec 5) : RoundTrip.Statement (.fpLoad i a f d) := by
  intro _ hw
  have e : encode (.fpLoad i a f d) = rWord (bits 5 7 i) (bits 0 5 i) a (0x1#2 ++ f) d 0x7#7 := by
    apply BitVec.eq_of_toNat_eq
    have := i.isLt
    simp only [encode, rWord, append_toNat, bits_toNat, BitVec.reduceToNat, Nat.reducePow]
    omega
  have r : decodeRow (encode (.fpLoad i a f d)) = some (Instr.written (.fpLoad i a f d)) := by
    rw [e]
    simp [row_07, decodeLoadFp, Instr.written]
  exact decode_of_row r hw

theorem RoundTrip.fpStore (j : BitVec 7) (b : BitVec 5) (a : BitVec 5) (f : BitVec 1) (k : BitVec 5) : RoundTrip.Statement (.fpStore j b a f k) := by
  intro _ hw
  have e : encode (.fpStore j b a f k) = rWord j b a (0x1#2 ++ f) k 0x27#7 := by
    apply BitVec.eq_of_toNat_eq
    simp only [encode, rWord, append_toNat, BitVec.reduceToNat, Nat.reducePow]
    omega
  have r : decodeRow (encode (.fpStore j b a f k)) = some (Instr.written (.fpStore j b a f k)) := by
    rw [e]
    simp [row_27, decodeStoreFp, Instr.written]
  exact decode_of_row r hw

theorem RoundTrip.fpFused (c : BitVec 5) (t : BitVec 1) (b : BitVec 5) (a : BitVec 5) (r : BitVec 3) (d : BitVec 5) (o : BitVec 2) : RoundTrip.Statement (.fpFused c t b a r d o) := by
  intro _ hw
  have e : encode (.fpFused c t b a r d o) = rWord (c ++ 0x0#1 ++ t) b a r d (0x4#3 ++ o ++ 0x3#2) := by
    apply BitVec.eq_of_toNat_eq
    simp only [encode, rWord, append_toNat, BitVec.reduceToNat, Nat.reducePow]
    omega
  have r : decodeRow (encode (.fpFused c t b a r d o)) = some (Instr.written (.fpFused c t b a r d o)) := by
    rw [e]
    simp [row_fused, decodeFused, Instr.written]
  exact decode_of_row r hw

theorem RoundTrip.fpArith (o : BitVec 2) (t : BitVec 1) (b : BitVec 5) (a : BitVec 5) (r : BitVec 3) (d : BitVec 5) : RoundTrip.Statement (.fpArith o t b a r d) := by
  intro _ hw
  have e : encode (.fpArith o t b a r d) = rWord (0x0#3 ++ o ++ 0x0#1 ++ t) b a r d 0x53#7 := rfl
  have r : decodeRow (encode (.fpArith o t b a r d)) = some (Instr.written (.fpArith o t b a r d)) := by
    rw [e]
    simp [row_53, decodeOpFp, Instr.written]
  exact decode_of_row r hw

theorem RoundTrip.fsqrt (t : BitVec 1) (a : BitVec 5) (r : BitVec 3) (d : BitVec 5) : RoundTrip.Statement (.fsqrt t a r d) := by
  intro _ hw
  have e : encode (.fsqrt t a r d) = rWord (0x16#6 ++ t) 0x0#5 a r d 0x53#7 := rfl
  have r : decodeRow (encode (.fsqrt t a r d)) = some (Instr.written (.fsqrt t a r d)) := by
    rw [e]
    simp [row_53, decodeOpFp, Instr.written]
  exact decode_of_row r hw

theorem RoundTrip.fsgnj (t : BitVec 1) (b : BitVec 5) (a : BitVec 5) (f : BitVec 3) (d : BitVec 5) : RoundTrip.Statement (.fsgnj t b a f d) := by
  intro _ hw
  have e : encode (.fsgnj t b a f d) = rWord (0x8#6 ++ t) b a f d 0x53#7 := rfl
  have r : decodeRow (encode (.fsgnj t b a f d)) = some (Instr.written (.fsgnj t b a f d)) := by
    rw [e]
    simp [row_53, decodeOpFp, Instr.written]
  exact decode_of_row r hw

theorem RoundTrip.fminFmax (t : BitVec 1) (b : BitVec 5) (a : BitVec 5) (f : BitVec 1) (d : BitVec 5) : RoundTrip.Statement (.fminFmax t b a f d) := by
  intro _ hw
  have e : encode (.fminFmax t b a f d) = rWord (0xA#6 ++ t) b a (0x0#2 ++ f) d 0x53#7 := by
    apply BitVec.eq_of_toNat_eq
    simp only [encode, rWord, append_toNat, BitVec.reduceToNat, Nat.reducePow]
    omega
  have r : decodeRow (encode (.fminFmax t b a f d)) = some (Instr.written (.fminFmax t b a f d)) := by
    rw [e]
    simp [row_53, decodeOpFp, Instr.written]
  exact decode_of_row r hw

theorem RoundTrip.fcvtSD (a : BitVec 5) (r : BitVec 3) (d : BitVec 5) : RoundTrip.Statement (.fcvtSD a r d) := by
  intro _ hw
  have e : encode (.fcvtSD a r d) = rWord 0x20#7 0x1#5 a r d 0x53#7 := rfl
  have r : decodeRow (encode (.fcvtSD a r d)) = some (Instr.written (.fcvtSD a r d)) := by
    rw [e]
    simp [row_53, decodeOpFp, Instr.written]
  exact decode_of_row r hw

theorem RoundTrip.fcvtDS (a : BitVec 5) (r : BitVec 3) (d : BitVec 5) : RoundTrip.Statement (.fcvtDS a r d) := by
  intro _ hw
  have e : encode (.fcvtDS a r d) = rWord 0x21#7 0x0#5 a r d 0x53#7 := rfl
  have r : decodeRow (encode (.fcvtDS a r d)) = some (Instr.written (.fcvtDS a r d)) := by
    rw [e]
    simp [row_53, decodeOpFp, Instr.written]
  exact decode_of_row r hw

theorem RoundTrip.fpCompare (t : BitVec 1) (b : BitVec 5) (a : BitVec 5) (f : BitVec 2) (d : BitVec 5) : RoundTrip.Statement (.fpCompare t b a f d) := by
  intro _ hw
  have e : encode (.fpCompare t b a f d) = rWord (0x28#6 ++ t) b a (0x0#1 ++ f) d 0x53#7 := by
    apply BitVec.eq_of_toNat_eq
    simp only [encode, rWord, append_toNat, BitVec.reduceToNat, Nat.reducePow]
    omega
  have r : decodeRow (encode (.fpCompare t b a f d)) = some (Instr.written (.fpCompare t b a f d)) := by
    rw [e]
    simp [row_53, decodeOpFp, Instr.written]
  exact decode_of_row r hw

theorem RoundTrip.fcvtToInt (t : BitVec 1) (f : BitVec 2) (a : BitVec 5) (r : BitVec 3) (d : BitVec 5) : RoundTrip.Statement (.fcvtToInt t f a r d) := by
  intro _ hw
  have e : encode (.fcvtToInt t f a r d) = rWord (0x30#6 ++ t) (0x0#3 ++ f) a r d 0x53#7 := by
    apply BitVec.eq_of_toNat_eq
    simp only [encode, rWord, append_toNat, BitVec.reduceToNat, Nat.reducePow]
    omega
  have r : decodeRow (encode (.fcvtToInt t f a r d)) = some (Instr.written (.fcvtToInt t f a r d)) := by
    rw [e]
    simp [row_53, decodeOpFp, Instr.written]
  exact decode_of_row r hw

theorem RoundTrip.fcvtFromInt (t : BitVec 1) (f : BitVec 2) (a : BitVec 5) (r : BitVec 3) (d : BitVec 5) : RoundTrip.Statement (.fcvtFromInt t f a r d) := by
  intro _ hw
  have e : encode (.fcvtFromInt t f a r d) = rWord (0x34#6 ++ t) (0x0#3 ++ f) a r d 0x53#7 := by
    apply BitVec.eq_of_toNat_eq
    simp only [encode, rWord, append_toNat, BitVec.reduceToNat, Nat.reducePow]
    omega
  have r : decodeRow (encode (.fcvtFromInt t f a r d)) = some (Instr.written (.fcvtFromInt t f a r d)) := by
    rw [e]
    simp [row_53, decodeOpFp, Instr.written]
  exact decode_of_row r hw

theorem RoundTrip.fmvX (t : BitVec 1) (a : BitVec 5) (d : BitVec 5) : RoundTrip.Statement (.fmvX t a d) := by
  intro _ hw
  have e : encode (.fmvX t a d) = rWord (0x38#6 ++ t) 0x0#5 a 0x0#3 d 0x53#7 := rfl
  have r : decodeRow (encode (.fmvX t a d)) = some (Instr.written (.fmvX t a d)) := by
    rw [e]
    simp [row_53, decodeOpFp, Instr.written]
  exact decode_of_row r hw

theorem RoundTrip.fclass (t : BitVec 1) (a : BitVec 5) (d : BitVec 5) : RoundTrip.Statement (.fclass t a d) := by
  intro _ hw
  have e : encode (.fclass t a d) = rWord (0x38#6 ++ t) 0x0#5 a 0x1#3 d 0x53#7 := rfl
  have r : decodeRow (encode (.fclass t a d)) = some (Instr.written (.fclass t a d)) := by
    rw [e]
    simp [row_53, decodeOpFp, Instr.written]
  exact decode_of_row r hw

theorem RoundTrip.fmvToF (t : BitVec 1) (a : BitVec 5) (d : BitVec 5) : RoundTrip.Statement (.fmvToF t a d) := by
  intro _ hw
  have e : encode (.fmvToF t a d) = rWord (0x3C#6 ++ t) 0x0#5 a 0x0#3 d 0x53#7 := rfl
  have r : decodeRow (encode (.fmvToF t a d)) = some (Instr.written (.fmvToF t a d)) := by
    rw [e]
    simp [row_53, decodeOpFp, Instr.written]
  exact decode_of_row r hw

theorem RoundTrip.csrrw (c : BitVec 12) (a : BitVec 5) (d : BitVec 5) : RoundTrip.Statement (.csrrw c a d) := by
  intro _ hw
  have e : encode (.csrrw c a d) = rWord (bits 5 7 c) (bits 0 5 c) a 0x1#3 d 0x73#7 := by
    apply BitVec.eq_of_toNat_eq
    have := c.isLt
    simp only [encode, rWord, append_toNat, bits_toNat, BitVec.reduceToNat, Nat.reducePow]
    omega
  have r : decodeRow (encode (.csrrw c a d)) = some (Instr.written (.csrrw c a d)) := by
    rw [e]
    simp [row_73, decodeSystem, Instr.written]
  exact decode_of_row r hw

theorem RoundTrip.csrrs (c : BitVec 12) (a : BitVec 5) (d : BitVec 5) : RoundTrip.Statement (.csrrs c a d) := by
  intro _ hw
  have e : encode (.csrrs c a d) = rWord (bits 5 7 c) (bits 0 5 c) a 0x2#3 d 0x73#7 := by
    apply BitVec.eq_of_toNat_eq
    have := c.isLt
    simp only [encode, rWord, append_toNat, bits_toNat, BitVec.reduceToNat, Nat.reducePow]
    omega
  have r : decodeRow (encode (.csrrs c a d)) = some (Instr.written (.csrrs c a d)) := by
    rw [e]
    simp [row_73, decodeSystem, Instr.written]
  exact decode_of_row r hw

theorem RoundTrip.csrrc (c : BitVec 12) (a : BitVec 5) (d : BitVec 5) : RoundTrip.Statement (.csrrc c a d) := by
  intro _ hw
  have e : encode (.csrrc c a d) = rWord (bits 5 7 c) (bits 0 5 c) a 0x3#3 d 0x73#7 := by
    apply BitVec.eq_of_toNat_eq
    have := c.isLt
    simp only [encode, rWord, append_toNat, bits_toNat, BitVec.reduceToNat, Nat.reducePow]
    omega
  have r : decodeRow (encode (.csrrc c a d)) = some (Instr.written (.csrrc c a d)) := by
    rw [e]
    simp [row_73, decodeSystem, Instr.written]
  exact decode_of_row r hw

theorem RoundTrip.csrrwi (c : BitVec 12) (u : BitVec 5) (d : BitVec 5) : RoundTrip.Statement (.csrrwi c u d) := by
  intro _ hw
  have e : encode (.csrrwi c u d) = rWord (bits 5 7 c) (bits 0 5 c) u 0x5#3 d 0x73#7 := by
    apply BitVec.eq_of_toNat_eq
    have := c.isLt
    simp only [encode, rWord, append_toNat, bits_toNat, BitVec.reduceToNat, Nat.reducePow]
    omega
  have r : decodeRow (encode (.csrrwi c u d)) = some (Instr.written (.csrrwi c u d)) := by
    rw [e]
    simp [row_73, decodeSystem, Instr.written]
  exact decode_of_row r hw

theorem RoundTrip.csrrsi (c : BitVec 12) (u : BitVec 5) (d : BitVec 5) : RoundTrip.Statement (.csrrsi c u d) := by
  intro _ hw
  have e : encode (.csrrsi c u d) = rWord (bits 5 7 c) (bits 0 5 c) u 0x6#3 d 0x73#7 := by
    apply BitVec.eq_of_toNat_eq
    have := c.isLt
    simp only [encode, rWord, append_toNat, bits_toNat, BitVec.reduceToNat, Nat.reducePow]
    omega
  have r : decodeRow (encode (.csrrsi c u d)) = some (Instr.written (.csrrsi c u d)) := by
    rw [e]
    simp [row_73, decodeSystem, Instr.written]
  exact decode_of_row r hw

theorem RoundTrip.csrrci (c : BitVec 12) (u : BitVec 5) (d : BitVec 5) : RoundTrip.Statement (.csrrci c u d) := by
  intro _ hw
  have e : encode (.csrrci c u d) = rWord (bits 5 7 c) (bits 0 5 c) u 0x7#3 d 0x73#7 := by
    apply BitVec.eq_of_toNat_eq
    have := c.isLt
    simp only [encode, rWord, append_toNat, bits_toNat, BitVec.reduceToNat, Nat.reducePow]
    omega
  have r : decodeRow (encode (.csrrci c u d)) = some (Instr.written (.csrrci c u d)) := by
    rw [e]
    simp [row_73, decodeSystem, Instr.written]
  exact decode_of_row r hw

theorem RoundTrip.sfenceVma (b : BitVec 5) (a : BitVec 5) : RoundTrip.Statement (.sfenceVma b a) := by
  intro _ hw
  have e : encode (.sfenceVma b a) = rWord 0x9#7 b a 0x0#3 0x0#5 0x73#7 := rfl
  have r : decodeRow (encode (.sfenceVma b a)) = some (Instr.written (.sfenceVma b a)) := by
    rw [e]
    simp [row_73, decodeSystem, Instr.written]
  exact decode_of_row r hw

theorem RoundTrip.mret : RoundTrip.Statement (.mret) := by
  intro _ hw
  have e : encode (.mret) = rWord 0x18#7 0x2#5 0x0#5 0x0#3 0x0#5 0x73#7 := rfl
  have r : decodeRow (encode (.mret)) = some (Instr.written (.mret)) := by
    rw [e]
    simp [row_73, decodeSystem, Instr.written]
  exact decode_of_row r hw

theorem RoundTrip.sret : RoundTrip.Statement (.sret) := by
  intro _ hw
  have e : encode (.sret) = rWord 0x8#7 0x2#5 0x0#5 0x0#3 0x0#5 0x73#7 := rfl
  have r : decodeRow (encode (.sret)) = some (Instr.written (.sret)) := by
    rw [e]
    simp [row_73, decodeSystem, Instr.written]
  exact decode_of_row r hw

theorem RoundTrip.wfi : RoundTrip.Statement (.wfi) := by
  intro _ hw
  have e : encode (.wfi) = rWord 0x8#7 0x5#5 0x0#5 0x0#3 0x0#5 0x73#7 := rfl
  have r : decodeRow (encode (.wfi)) = some (Instr.written (.wfi)) := by
    rw [e]
    simp [row_73, decodeSystem, Instr.written]
  exact decode_of_row r hw

theorem RoundTrip.ldAcq (z : BitVec 2) (s : BitVec 3) (a : BitVec 5) (d : BitVec 5) : RoundTrip.Statement (.ldAcq z s a d) := by
  intro _ hw
  have e : encode (.ldAcq z s a d) = rWord (0x0#2 ++ z ++ s) 0x0#5 a 0x0#3 d 0xB#7 := rfl
  have r : decodeRow (encode (.ldAcq z s a d)) = some (Instr.written (.ldAcq z s a d)) := by
    rw [e]
    simp [row_0B, decodeKzMem, Instr.written]
  exact decode_of_row r hw

theorem RoundTrip.stRel (z : BitVec 2) (s : BitVec 3) (b : BitVec 5) (a : BitVec 5) : RoundTrip.Statement (.stRel z s b a) := by
  intro _ hw
  have e : encode (.stRel z s b a) = rWord (0x1#2 ++ z ++ s) b a 0x0#3 0x0#5 0xB#7 := rfl
  have r : decodeRow (encode (.stRel z s b a)) = some (Instr.written (.stRel z s b a)) := by
    rw [e]
    simp [row_0B, decodeKzMem, Instr.written]
  exact decode_of_row r hw

theorem RoundTrip.amoW (o : BitVec 5) (q : BitVec 1) (l : BitVec 1) (b : BitVec 5) (a : BitVec 5) (d : BitVec 5) : RoundTrip.Statement (.amoW o q l b a d) := by
  intro _ hw
  have e : encode (.amoW o q l b a d) = rWord (o ++ q ++ l) b a 0x1#3 d 0xB#7 := rfl
  have h9 : o ≠ 9#5 := by rintro rfl; cases hw
  have h10 : o ≠ 10#5 := by rintro rfl; cases hw
  have r : decodeRow (encode (.amoW o q l b a d)) = some (Instr.written (.amoW o q l b a d)) := by
    rw [e]
    simp [row_0B, decodeKzMem, Instr.written, h9, h10]
  exact decode_of_row r hw

theorem RoundTrip.amoD (o : BitVec 5) (q : BitVec 1) (l : BitVec 1) (b : BitVec 5) (a : BitVec 5) (d : BitVec 5) : RoundTrip.Statement (.amoD o q l b a d) := by
  intro _ hw
  have e : encode (.amoD o q l b a d) = rWord (o ++ q ++ l) b a 0x2#3 d 0xB#7 := rfl
  have r : decodeRow (encode (.amoD o q l b a d)) = some (Instr.written (.amoD o q l b a d)) := by
    rw [e]
    simp [row_0B, decodeKzMem, Instr.written]
  exact decode_of_row r hw

theorem RoundTrip.amoFaddF32 (q : BitVec 1) (l : BitVec 1) (b : BitVec 5) (a : BitVec 5) (d : BitVec 5) : RoundTrip.Statement (.amoFaddF32 q l b a d) := by
  intro _ hw
  have e : encode (.amoFaddF32 q l b a d) = rWord (0x9#5 ++ q ++ l) b a 0x1#3 d 0xB#7 := rfl
  have r : decodeRow (encode (.amoFaddF32 q l b a d)) = some (Instr.written (.amoFaddF32 q l b a d)) := by
    rw [e]
    simp [row_0B, decodeKzMem, Instr.written]
  exact decode_of_row r hw

theorem RoundTrip.amoFaddBf16 (q : BitVec 1) (l : BitVec 1) (b : BitVec 5) (a : BitVec 5) (d : BitVec 5) : RoundTrip.Statement (.amoFaddBf16 q l b a d) := by
  intro _ hw
  have e : encode (.amoFaddBf16 q l b a d) = rWord (0xA#5 ++ q ++ l) b a 0x1#3 d 0xB#7 := rfl
  have r : decodeRow (encode (.amoFaddBf16 q l b a d)) = some (Instr.written (.amoFaddBf16 q l b a d)) := by
    rw [e]
    simp [row_0B, decodeKzMem, Instr.written]
  exact decode_of_row r hw

theorem RoundTrip.amoCasW (c : BitVec 5) (b : BitVec 5) (a : BitVec 5) (d : BitVec 5) : RoundTrip.Statement (.amoCasW c b a d) := by
  intro _ hw
  have e : encode (.amoCasW c b a d) = rWord (c ++ 0x0#2) b a 0x3#3 d 0xB#7 := rfl
  have r : decodeRow (encode (.amoCasW c b a d)) = some (Instr.written (.amoCasW c b a d)) := by
    rw [e]
    simp [row_0B, decodeKzMem, Instr.written]
  exact decode_of_row r hw

theorem RoundTrip.amoCasD (c : BitVec 5) (b : BitVec 5) (a : BitVec 5) (d : BitVec 5) : RoundTrip.Statement (.amoCasD c b a d) := by
  intro _ hw
  have e : encode (.amoCasD c b a d) = rWord (c ++ 0x1#2) b a 0x3#3 d 0xB#7 := rfl
  have r : decodeRow (encode (.amoCasD c b a d)) = some (Instr.written (.amoCasD c b a d)) := by
    rw [e]
    simp [row_0B, decodeKzMem, Instr.written]
  exact decode_of_row r hw

theorem RoundTrip.lease2 (c : BitVec 5) (b : BitVec 5) (a : BitVec 5) (d : BitVec 5) : RoundTrip.Statement (.lease2 c b a d) := by
  intro _ hw
  have e : encode (.lease2 c b a d) = rWord (c ++ 0x2#2) b a 0x3#3 d 0xB#7 := rfl
  have r : decodeRow (encode (.lease2 c b a d)) = some (Instr.written (.lease2 c b a d)) := by
    rw [e]
    simp [row_0B, decodeKzMem, Instr.written]
  exact decode_of_row r hw

theorem RoundTrip.red (o : BitVec 2) (t : BitVec 3) (b : BitVec 5) (a : BitVec 5) : RoundTrip.Statement (.red o t b a) := by
  intro _ hw
  have e : encode (.red o t b a) = rWord (o ++ t ++ 0x0#2) b a 0x4#3 0x0#5 0xB#7 := rfl
  have r : decodeRow (encode (.red o t b a)) = some (Instr.written (.red o t b a)) := by
    rw [e]
    simp [row_0B, decodeKzMem, Instr.written]
  exact decode_of_row r hw

theorem RoundTrip.fld (a : BitVec 5) (d : BitVec 5) : RoundTrip.Statement (.fld a d) := by
  intro _ hw
  have e : encode (.fld a d) = rWord 0x0#7 0x0#5 a 0x5#3 d 0xB#7 := rfl
  have r : decodeRow (encode (.fld a d)) = some (Instr.written (.fld a d)) := by
    rw [e]
    simp [row_0B, decodeKzMem, Instr.written]
  exact decode_of_row r hw

theorem RoundTrip.fldD (a : BitVec 5) (d : BitVec 5) : RoundTrip.Statement (.fldD a d) := by
  intro _ hw
  have e : encode (.fldD a d) = rWord 0x1#7 0x0#5 a 0x5#3 d 0xB#7 := rfl
  have r : decodeRow (encode (.fldD a d)) = some (Instr.written (.fldD a d)) := by
    rw [e]
    simp [row_0B, decodeKzMem, Instr.written]
  exact decode_of_row r hw

theorem RoundTrip.fst (b : BitVec 5) (a : BitVec 5) : RoundTrip.Statement (.fst b a) := by
  intro _ hw
  have e : encode (.fst b a) = rWord 0x2#7 b a 0x5#3 0x0#5 0xB#7 := rfl
  have r : decodeRow (encode (.fst b a)) = some (Instr.written (.fst b a)) := by
    rw [e]
    simp [row_0B, decodeKzMem, Instr.written]
  exact decode_of_row r hw

theorem RoundTrip.fstD (b : BitVec 5) (a : BitVec 5) : RoundTrip.Statement (.fstD b a) := by
  intro _ hw
  have e : encode (.fstD b a) = rWord 0x3#7 b a 0x5#3 0x0#5 0xB#7 := rfl
  have r : decodeRow (encode (.fstD b a)) = some (Instr.written (.fstD b a)) := by
    rw [e]
    simp [row_0B, decodeKzMem, Instr.written]
  exact decode_of_row r hw

theorem RoundTrip.frst (a : BitVec 5) : RoundTrip.Statement (.frst a) := by
  intro _ hw
  have e : encode (.frst a) = rWord 0x4#7 0x0#5 a 0x5#3 0x0#5 0xB#7 := rfl
  have r : decodeRow (encode (.frst a)) = some (Instr.written (.frst a)) := by
    rw [e]
    simp [row_0B, decodeKzMem, Instr.written]
  exact decode_of_row r hw

theorem RoundTrip.frstD (a : BitVec 5) : RoundTrip.Statement (.frstD a) := by
  intro _ hw
  have e : encode (.frstD a) = rWord 0x5#7 0x0#5 a 0x5#3 0x0#5 0xB#7 := rfl
  have r : decodeRow (encode (.frstD a)) = some (Instr.written (.frstD a)) := by
    rw [e]
    simp [row_0B, decodeKzMem, Instr.written]
  exact decode_of_row r hw

theorem RoundTrip.lease (b : BitVec 5) (a : BitVec 5) (d : BitVec 5) : RoundTrip.Statement (.lease b a d) := by
  intro _ hw
  have e : encode (.lease b a d) = rWord 0x8#7 b a 0x5#3 d 0xB#7 := rfl
  have r : decodeRow (encode (.lease b a d)) = some (Instr.written (.lease b a d)) := by
    rw [e]
    simp [row_0B, decodeKzMem, Instr.written]
  exact decode_of_row r hw

theorem RoundTrip.lclose : RoundTrip.Statement (.lclose) := by
  intro _ hw
  have e : encode (.lclose) = rWord 0x9#7 0x0#5 0x0#5 0x5#3 0x0#5 0xB#7 := rfl
  have r : decodeRow (encode (.lclose)) = some (Instr.written (.lclose)) := by
    rw [e]
    simp [row_0B, decodeKzMem, Instr.written]
  exact decode_of_row r hw

theorem RoundTrip.labort : RoundTrip.Statement (.labort) := by
  intro _ hw
  have e : encode (.labort) = rWord 0xA#7 0x0#5 0x0#5 0x5#3 0x0#5 0xB#7 := rfl
  have r : decodeRow (encode (.labort)) = some (Instr.written (.labort)) := by
    rw [e]
    simp [row_0B, decodeKzMem, Instr.written]
  exact decode_of_row r hw

theorem RoundTrip.waitcnt (a : BitVec 5) (p : BitVec 5) : RoundTrip.Statement (.waitcnt a p) := by
  intro _ hw
  have e : encode (.waitcnt a p) = rWord 0x10#7 0x0#5 a 0x5#3 p 0xB#7 := rfl
  have r : decodeRow (encode (.waitcnt a p)) = some (Instr.written (.waitcnt a p)) := by
    rw [e]
    simp [row_0B, decodeKzMem, Instr.written]
  exact decode_of_row r hw

theorem RoundTrip.fenceOwn : RoundTrip.Statement (.fenceOwn) := by
  intro _ hw
  have e : encode (.fenceOwn) = rWord 0x18#7 0x0#5 0x0#5 0x5#3 0x0#5 0xB#7 := rfl
  have r : decodeRow (encode (.fenceOwn)) = some (Instr.written (.fenceOwn)) := by
    rw [e]
    simp [row_0B, decodeKzMem, Instr.written]
  exact decode_of_row r hw

theorem RoundTrip.fenceForce (a : BitVec 5) : RoundTrip.Statement (.fenceForce a) := by
  intro _ hw
  have e : encode (.fenceForce a) = rWord 0x19#7 0x0#5 a 0x5#3 0x0#5 0xB#7 := rfl
  have r : decodeRow (encode (.fenceForce a)) = some (Instr.written (.fenceForce a)) := by
    rw [e]
    simp [row_0B, decodeKzMem, Instr.written]
  exact decode_of_row r hw

theorem RoundTrip.bseal (b : BitVec 5) (a : BitVec 5) : RoundTrip.Statement (.bseal b a) := by
  intro _ hw
  have e : encode (.bseal b a) = rWord 0x20#7 b a 0x5#3 0x0#5 0xB#7 := rfl
  have r : decodeRow (encode (.bseal b a)) = some (Instr.written (.bseal b a)) := by
    rw [e]
    simp [row_0B, decodeKzMem, Instr.written]
  exact decode_of_row r hw

theorem RoundTrip.bopen (a : BitVec 5) : RoundTrip.Statement (.bopen a) := by
  intro _ hw
  have e : encode (.bopen a) = rWord 0x21#7 0x0#5 a 0x5#3 0x0#5 0xB#7 := rfl
  have r : decodeRow (encode (.bopen a)) = some (Instr.written (.bopen a)) := by
    rw [e]
    simp [row_0B, decodeKzMem, Instr.written]
  exact decode_of_row r hw

theorem RoundTrip.cwb (a : BitVec 5) : RoundTrip.Statement (.cwb a) := by
  intro _ hw
  have e : encode (.cwb a) = rWord 0x28#7 0x0#5 a 0x5#3 0x0#5 0xB#7 := rfl
  have r : decodeRow (encode (.cwb a)) = some (Instr.written (.cwb a)) := by
    rw [e]
    simp [row_0B, decodeKzMem, Instr.written]
  exact decode_of_row r hw

theorem RoundTrip.cwbCtx : RoundTrip.Statement (.cwbCtx) := by
  intro _ hw
  have e : encode (.cwbCtx) = rWord 0x29#7 0x0#5 0x0#5 0x5#3 0x0#5 0xB#7 := rfl
  have r : decodeRow (encode (.cwbCtx)) = some (Instr.written (.cwbCtx)) := by
    rw [e]
    simp [row_0B, decodeKzMem, Instr.written]
  exact decode_of_row r hw

theorem RoundTrip.cinv (a : BitVec 5) : RoundTrip.Statement (.cinv a) := by
  intro _ hw
  have e : encode (.cinv a) = rWord 0x2A#7 0x0#5 a 0x5#3 0x0#5 0xB#7 := rfl
  have r : decodeRow (encode (.cinv a)) = some (Instr.written (.cinv a)) := by
    rw [e]
    simp [row_0B, decodeKzMem, Instr.written]
  exact decode_of_row r hw

theorem RoundTrip.pfL1 (i : BitVec 12) (a : BitVec 5) (k : BitVec 5) : RoundTrip.Statement (.pfL1 i a k) := by
  intro _ hw
  have e : encode (.pfL1 i a k) = rWord (bits 5 7 i) (bits 0 5 i) a 0x6#3 k 0xB#7 := by
    apply BitVec.eq_of_toNat_eq
    have := i.isLt
    simp only [encode, rWord, append_toNat, bits_toNat, BitVec.reduceToNat, Nat.reducePow]
    omega
  have h1 : k ≠ 1#5 := by rintro rfl; cases hw
  have r : decodeRow (encode (.pfL1 i a k)) = some (Instr.written (.pfL1 i a k)) := by
    rw [e]
    simp [row_0B, decodeKzMem, Instr.written, h1]
  exact decode_of_row r hw

theorem RoundTrip.pfL2 (i : BitVec 12) (a : BitVec 5) : RoundTrip.Statement (.pfL2 i a) := by
  intro _ hw
  have e : encode (.pfL2 i a) = rWord (bits 5 7 i) (bits 0 5 i) a 0x6#3 0x1#5 0xB#7 := by
    apply BitVec.eq_of_toNat_eq
    have := i.isLt
    simp only [encode, rWord, append_toNat, bits_toNat, BitVec.reduceToNat, Nat.reducePow]
    omega
  have r : decodeRow (encode (.pfL2 i a)) = some (Instr.written (.pfL2 i a)) := by
    rw [e]
    simp [row_0B, decodeKzMem, Instr.written]
  exact decode_of_row r hw

theorem RoundTrip.barInit (b : BitVec 5) (a : BitVec 5) : RoundTrip.Statement (.barInit b a) := by
  intro _ hw
  have e : encode (.barInit b a) = rWord 0x0#7 b a 0x7#3 0x0#5 0xB#7 := rfl
  have r : decodeRow (encode (.barInit b a)) = some (Instr.written (.barInit b a)) := by
    rw [e]
    simp [row_0B, decodeKzMem, Instr.written]
  exact decode_of_row r hw

theorem RoundTrip.barArrive (a : BitVec 5) (d : BitVec 5) : RoundTrip.Statement (.barArrive a d) := by
  intro _ hw
  have e : encode (.barArrive a d) = rWord 0x1#7 0x0#5 a 0x7#3 d 0xB#7 := rfl
  have r : decodeRow (encode (.barArrive a d)) = some (Instr.written (.barArrive a d)) := by
    rw [e]
    simp [row_0B, decodeKzMem, Instr.written]
  exact decode_of_row r hw

theorem RoundTrip.barExpect (b : BitVec 5) (a : BitVec 5) : RoundTrip.Statement (.barExpect b a) := by
  intro _ hw
  have e : encode (.barExpect b a) = rWord 0x2#7 b a 0x7#3 0x0#5 0xB#7 := rfl
  have r : decodeRow (encode (.barExpect b a)) = some (Instr.written (.barExpect b a)) := by
    rw [e]
    simp [row_0B, decodeKzMem, Instr.written]
  exact decode_of_row r hw

theorem RoundTrip.barWait (b : BitVec 5) (a : BitVec 5) : RoundTrip.Statement (.barWait b a) := by
  intro _ hw
  have e : encode (.barWait b a) = rWord 0x3#7 b a 0x7#3 0x0#5 0xB#7 := rfl
  have r : decodeRow (encode (.barWait b a)) = some (Instr.written (.barWait b a)) := by
    rw [e]
    simp [row_0B, decodeKzMem, Instr.written]
  exact decode_of_row r hw

theorem RoundTrip.barTry (b : BitVec 5) (a : BitVec 5) (d : BitVec 5) : RoundTrip.Statement (.barTry b a d) := by
  intro _ hw
  have e : encode (.barTry b a d) = rWord 0x4#7 b a 0x7#3 d 0xB#7 := rfl
  have r : decodeRow (encode (.barTry b a d)) = some (Instr.written (.barTry b a d)) := by
    rw [e]
    simp [row_0B, decodeKzMem, Instr.written]
  exact decode_of_row r hw

theorem RoundTrip.msend (n : BitVec 3) (s : BitVec 3) (b : BitVec 5) (a : BitVec 5) : RoundTrip.Statement (.msend n s b a) := by
  intro _ hw
  have e : encode (.msend n s b a) = rWord (0x0#1 ++ n ++ s) b a 0x0#3 0x0#5 0x2B#7 := rfl
  have r : decodeRow (encode (.msend n s b a)) = some (Instr.written (.msend n s b a)) := by
    rw [e]
    simp [row_2B, decodeKzMsg, Instr.written]
  exact decode_of_row r hw

theorem RoundTrip.hend : RoundTrip.Statement (.hend) := by
  intro _ hw
  have e : encode (.hend) = rWord 0x0#7 0x0#5 0x0#5 0x1#3 0x0#5 0x2B#7 := rfl
  have r : decodeRow (encode (.hend)) = some (Instr.written (.hend)) := by
    rw [e]
    simp [row_2B, decodeKzMsg, Instr.written]
  exact decode_of_row r hw

theorem RoundTrip.carm (b : BitVec 5) (a : BitVec 5) (d : BitVec 5) : RoundTrip.Statement (.carm b a d) := by
  intro _ hw
  have e : encode (.carm b a d) = rWord 0x1#7 b a 0x1#3 d 0x2B#7 := rfl
  have r : decodeRow (encode (.carm b a d)) = some (Instr.written (.carm b a d)) := by
    rw [e]
    simp [row_2B, decodeKzMsg, Instr.written]
  exact decode_of_row r hw

theorem RoundTrip.cdec (a : BitVec 5) : RoundTrip.Statement (.cdec a) := by
  intro _ hw
  have e : encode (.cdec a) = rWord 0x2#7 0x0#5 a 0x1#3 0x0#5 0x2B#7 := rfl
  have r : decodeRow (encode (.cdec a)) = some (Instr.written (.cdec a)) := by
    rw [e]
    simp [row_2B, decodeKzMsg, Instr.written]
  exact decode_of_row r hw

theorem RoundTrip.spawn (b : BitVec 5) (a : BitVec 5) (d : BitVec 5) : RoundTrip.Statement (.spawn b a d) := by
  intro _ hw
  have e : encode (.spawn b a d) = rWord 0x3#7 b a 0x1#3 d 0x2B#7 := rfl
  have r : decodeRow (encode (.spawn b a d)) = some (Instr.written (.spawn b a d)) := by
    rw [e]
    simp [row_2B, decodeKzMsg, Instr.written]
  exact decode_of_row r hw

theorem RoundTrip.migrateAddr (a : BitVec 5) : RoundTrip.Statement (.migrateAddr a) := by
  intro _ hw
  have e : encode (.migrateAddr a) = rWord 0x4#7 0x0#5 a 0x1#3 0x0#5 0x2B#7 := rfl
  have r : decodeRow (encode (.migrateAddr a)) = some (Instr.written (.migrateAddr a)) := by
    rw [e]
    simp [row_2B, decodeKzMsg, Instr.written]
  exact decode_of_row r hw

theorem RoundTrip.migrateRank (a : BitVec 5) : RoundTrip.Statement (.migrateRank a) := by
  intro _ hw
  have e : encode (.migrateRank a) = rWord 0x5#7 0x0#5 a 0x1#3 0x0#5 0x2B#7 := rfl
  have r : decodeRow (encode (.migrateRank a)) = some (Instr.written (.migrateRank a)) := by
    rw [e]
    simp [row_2B, decodeKzMsg, Instr.written]
  exact decode_of_row r hw

theorem RoundTrip.uiret : RoundTrip.Statement (.uiret) := by
  intro _ hw
  have e : encode (.uiret) = rWord 0x6#7 0x0#5 0x0#5 0x1#3 0x0#5 0x2B#7 := rfl
  have r : decodeRow (encode (.uiret)) = some (Instr.written (.uiret)) := by
    rw [e]
    simp [row_2B, decodeKzMsg, Instr.written]
  exact decode_of_row r hw

theorem RoundTrip.yield : RoundTrip.Statement (.yield) := by
  intro _ hw
  have e : encode (.yield) = rWord 0x7#7 0x0#5 0x0#5 0x1#3 0x0#5 0x2B#7 := rfl
  have r : decodeRow (encode (.yield)) = some (Instr.written (.yield)) := by
    rw [e]
    simp [row_2B, decodeKzMsg, Instr.written]
  exact decode_of_row r hw

theorem RoundTrip.qsend (n : BitVec 3) (b : BitVec 5) (a : BitVec 5) : RoundTrip.Statement (.qsend n b a) := by
  intro _ hw
  have e : encode (.qsend n b a) = rWord (0x0#4 ++ n) b a 0x2#3 0x0#5 0x2B#7 := rfl
  have r : decodeRow (encode (.qsend n b a)) = some (Instr.written (.qsend n b a)) := by
    rw [e]
    simp [row_2B, decodeKzMsg, Instr.written]
  exact decode_of_row r hw

theorem RoundTrip.qrecv (n : BitVec 3) (q : BitVec 5) (d : BitVec 5) : RoundTrip.Statement (.qrecv n q d) := by
  intro _ hw
  have e : encode (.qrecv n q d) = rWord (0x4#4 ++ n) 0x0#5 q 0x2#3 d 0x2B#7 := rfl
  have r : decodeRow (encode (.qrecv n q d)) = some (Instr.written (.qrecv n q d)) := by
    rw [e]
    simp [row_2B, decodeKzMsg, Instr.written]
  exact decode_of_row r hw

theorem RoundTrip.qpoll (q : BitVec 5) (d : BitVec 5) : RoundTrip.Statement (.qpoll q d) := by
  intro _ hw
  have e : encode (.qpoll q d) = rWord 0x40#7 0x0#5 q 0x2#3 d 0x2B#7 := rfl
  have r : decodeRow (encode (.qpoll q d)) = some (Instr.written (.qpoll q d)) := by
    rw [e]
    simp [row_2B, decodeKzMsg, Instr.written]
  exact decode_of_row r hw

theorem RoundTrip.msave (a : BitVec 5) (n : BitVec 5) : RoundTrip.Statement (.msave a n) := by
  intro _ hw
  have e : encode (.msave a n) = rWord 0x0#7 0x0#5 a 0x4#3 n 0x2B#7 := rfl
  have r : decodeRow (encode (.msave a n)) = some (Instr.written (.msave a n)) := by
    rw [e]
    simp [row_2B, decodeKzMsg, Instr.written]
  exact decode_of_row r hw

theorem RoundTrip.mrest (a : BitVec 5) (n : BitVec 5) : RoundTrip.Statement (.mrest a n) := by
  intro _ hw
  have e : encode (.mrest a n) = rWord 0x1#7 0x0#5 a 0x4#3 n 0x2B#7 := rfl
  have r : decodeRow (encode (.mrest a n)) = some (Instr.written (.mrest a n)) := by
    rw [e]
    simp [row_2B, decodeKzMsg, Instr.written]
  exact decode_of_row r hw

theorem RoundTrip.rtabSet (b : BitVec 5) (a : BitVec 5) : RoundTrip.Statement (.rtabSet b a) := by
  intro _ hw
  have e : encode (.rtabSet b a) = rWord 0x2#7 b a 0x4#3 0x0#5 0x2B#7 := rfl
  have r : decodeRow (encode (.rtabSet b a)) = some (Instr.written (.rtabSet b a)) := by
    rw [e]
    simp [row_2B, decodeKzMsg, Instr.written]
  exact decode_of_row r hw

theorem RoundTrip.ctxTag (a : BitVec 5) : RoundTrip.Statement (.ctxTag a) := by
  intro _ hw
  have e : encode (.ctxTag a) = rWord 0x3#7 0x0#5 a 0x4#3 0x0#5 0x2B#7 := rfl
  have r : decodeRow (encode (.ctxTag a)) = some (Instr.written (.ctxTag a)) := by
    rw [e]
    simp [row_2B, decodeKzMsg, Instr.written]
  exact decode_of_row r hw

theorem RoundTrip.islandQuery (b : BitVec 5) (a : BitVec 5) (d : BitVec 5) : RoundTrip.Statement (.islandQuery b a d) := by
  intro _ hw
  have e : encode (.islandQuery b a d) = rWord 0x4#7 b a 0x4#3 d 0x2B#7 := rfl
  have r : decodeRow (encode (.islandQuery b a d)) = some (Instr.written (.islandQuery b a d)) := by
    rw [e]
    simp [row_2B, decodeKzMsg, Instr.written]
  exact decode_of_row r hw

theorem RoundTrip.islandSetPoint (b : BitVec 5) (a : BitVec 5) (d : BitVec 5) : RoundTrip.Statement (.islandSetPoint b a d) := by
  intro _ hw
  have e : encode (.islandSetPoint b a d) = rWord 0x4#7 b a 0x4#3 d 0x2B#7 := rfl
  have r : decodeRow (encode (.islandSetPoint b a d)) = some (Instr.written (.islandSetPoint b a d)) := by
    rw [e]
    simp [row_2B, decodeKzMsg, Instr.written]
  exact decode_of_row r hw

theorem RoundTrip.islandGate (b : BitVec 5) (a : BitVec 5) (d : BitVec 5) : RoundTrip.Statement (.islandGate b a d) := by
  intro _ hw
  have e : encode (.islandGate b a d) = rWord 0x4#7 b a 0x4#3 d 0x2B#7 := rfl
  have r : decodeRow (encode (.islandGate b a d)) = some (Instr.written (.islandGate b a d)) := by
    rw [e]
    simp [row_2B, decodeKzMsg, Instr.written]
  exact decode_of_row r hw

theorem RoundTrip.islandUngate (b : BitVec 5) (a : BitVec 5) (d : BitVec 5) : RoundTrip.Statement (.islandUngate b a d) := by
  intro _ hw
  have e : encode (.islandUngate b a d) = rWord 0x4#7 b a 0x4#3 d 0x2B#7 := rfl
  have r : decodeRow (encode (.islandUngate b a d)) = some (Instr.written (.islandUngate b a d)) := by
    rw [e]
    simp [row_2B, decodeKzMsg, Instr.written]
  exact decode_of_row r hw

theorem RoundTrip.wavego (b : BitVec 5) (a : BitVec 5) : RoundTrip.Statement (.wavego b a) := by
  intro _ hw
  have e : encode (.wavego b a) = rWord 0x0#7 b a 0x0#3 0x0#5 0x5B#7 := rfl
  have r : decodeRow (encode (.wavego b a)) = some (Instr.written (.wavego b a)) := by
    rw [e]
    simp [row_5B, decodeKzWv, Instr.written]
  exact decode_of_row r hw

theorem RoundTrip.wret : RoundTrip.Statement (.wret) := by
  intro _ hw
  have e : encode (.wret) = rWord 0x1#7 0x0#5 0x0#5 0x0#3 0x0#5 0x5B#7 := rfl
  have r : decodeRow (encode (.wret)) = some (Instr.written (.wret)) := by
    rw [e]
    simp [row_5B, decodeKzWv, Instr.written]
  exact decode_of_row r hw

theorem RoundTrip.wflush (a : BitVec 5) : RoundTrip.Statement (.wflush a) := by
  intro _ hw
  have e : encode (.wflush a) = rWord 0x2#7 0x0#5 a 0x0#3 0x0#5 0x5B#7 := rfl
  have r : decodeRow (encode (.wflush a)) = some (Instr.written (.wflush a)) := by
    rw [e]
    simp [row_5B, decodeKzWv, Instr.written]
  exact decode_of_row r hw

theorem RoundTrip.regroup (a : BitVec 5) : RoundTrip.Statement (.regroup a) := by
  intro _ hw
  have e : encode (.regroup a) = rWord 0x3#7 0x0#5 a 0x0#3 0x0#5 0x5B#7 := rfl
  have r : decodeRow (encode (.regroup a)) = some (Instr.written (.regroup a)) := by
    rw [e]
    simp [row_5B, decodeKzWv, Instr.written]
  exact decode_of_row r hw

theorem RoundTrip.wsync : RoundTrip.Statement (.wsync) := by
  intro _ hw
  have e : encode (.wsync) = rWord 0x4#7 0x0#5 0x0#5 0x0#3 0x0#5 0x5B#7 := rfl
  have r : decodeRow (encode (.wsync)) = some (Instr.written (.wsync)) := by
    rw [e]
    simp [row_5B, decodeKzWv, Instr.written]
  exact decode_of_row r hw

theorem RoundTrip.voteAny (a : BitVec 5) (d : BitVec 5) : RoundTrip.Statement (.voteAny a d) := by
  intro _ hw
  have e : encode (.voteAny a d) = rWord 0x0#7 0x0#5 a 0x1#3 d 0x5B#7 := rfl
  have r : decodeRow (encode (.voteAny a d)) = some (Instr.written (.voteAny a d)) := by
    rw [e]
    simp [row_5B, decodeKzWv, Instr.written]
  exact decode_of_row r hw

theorem RoundTrip.voteAll (a : BitVec 5) (d : BitVec 5) : RoundTrip.Statement (.voteAll a d) := by
  intro _ hw
  have e : encode (.voteAll a d) = rWord 0x1#7 0x0#5 a 0x1#3 d 0x5B#7 := rfl
  have r : decodeRow (encode (.voteAll a d)) = some (Instr.written (.voteAll a d)) := by
    rw [e]
    simp [row_5B, decodeKzWv, Instr.written]
  exact decode_of_row r hw

theorem RoundTrip.ballot (a : BitVec 5) (d : BitVec 5) : RoundTrip.Statement (.ballot a d) := by
  intro _ hw
  have e : encode (.ballot a d) = rWord 0x2#7 0x0#5 a 0x1#3 d 0x5B#7 := rfl
  have r : decodeRow (encode (.ballot a d)) = some (Instr.written (.ballot a d)) := by
    rw [e]
    simp [row_5B, decodeKzWv, Instr.written]
  exact decode_of_row r hw

theorem RoundTrip.shfl (b : BitVec 5) (a : BitVec 5) (d : BitVec 5) : RoundTrip.Statement (.shfl b a d) := by
  intro _ hw
  have e : encode (.shfl b a d) = rWord 0x3#7 b a 0x1#3 d 0x5B#7 := rfl
  have r : decodeRow (encode (.shfl b a d)) = some (Instr.written (.shfl b a d)) := by
    rw [e]
    simp [row_5B, decodeKzWv, Instr.written]
  exact decode_of_row r hw

theorem RoundTrip.shflXor (b : BitVec 5) (a : BitVec 5) (d : BitVec 5) : RoundTrip.Statement (.shflXor b a d) := by
  intro _ hw
  have e : encode (.shflXor b a d) = rWord 0x4#7 b a 0x1#3 d 0x5B#7 := rfl
  have r : decodeRow (encode (.shflXor b a d)) = some (Instr.written (.shflXor b a d)) := by
    rw [e]
    simp [row_5B, decodeKzWv, Instr.written]
  exact decode_of_row r hw

theorem RoundTrip.rdlane (b : BitVec 5) (a : BitVec 5) (d : BitVec 5) : RoundTrip.Statement (.rdlane b a d) := by
  intro _ hw
  have e : encode (.rdlane b a d) = rWord 0x5#7 b a 0x1#3 d 0x5B#7 := rfl
  have r : decodeRow (encode (.rdlane b a d)) = some (Instr.written (.rdlane b a d)) := by
    rw [e]
    simp [row_5B, decodeKzWv, Instr.written]
  exact decode_of_row r hw

theorem RoundTrip.quadSx (a : BitVec 5) (d : BitVec 5) : RoundTrip.Statement (.quadSx a d) := by
  intro _ hw
  have e : encode (.quadSx a d) = rWord 0x8#7 0x0#5 a 0x1#3 d 0x5B#7 := rfl
  have r : decodeRow (encode (.quadSx a d)) = some (Instr.written (.quadSx a d)) := by
    rw [e]
    simp [row_5B, decodeKzWv, Instr.written]
  exact decode_of_row r hw

theorem RoundTrip.quadSy (a : BitVec 5) (d : BitVec 5) : RoundTrip.Statement (.quadSy a d) := by
  intro _ hw
  have e : encode (.quadSy a d) = rWord 0x9#7 0x0#5 a 0x1#3 d 0x5B#7 := rfl
  have r : decodeRow (encode (.quadSy a d)) = some (Instr.written (.quadSy a d)) := by
    rw [e]
    simp [row_5B, decodeKzWv, Instr.written]
  exact decode_of_row r hw

theorem RoundTrip.quadSd (a : BitVec 5) (d : BitVec 5) : RoundTrip.Statement (.quadSd a d) := by
  intro _ hw
  have e : encode (.quadSd a d) = rWord 0xA#7 0x0#5 a 0x1#3 d 0x5B#7 := rfl
  have r : decodeRow (encode (.quadSd a d)) = some (Instr.written (.quadSd a d)) := by
    rw [e]
    simp [row_5B, decodeKzWv, Instr.written]
  exact decode_of_row r hw

theorem RoundTrip.quadBc (i : BitVec 5) (a : BitVec 5) (d : BitVec 5) : RoundTrip.Statement (.quadBc i a d) := by
  intro _ hw
  have e : encode (.quadBc i a d) = rWord 0xB#7 i a 0x1#3 d 0x5B#7 := rfl
  have r : decodeRow (encode (.quadBc i a d)) = some (Instr.written (.quadBc i a d)) := by
    rw [e]
    simp [row_5B, decodeKzWv, Instr.written]
  exact decode_of_row r hw

theorem RoundTrip.ishelper (d : BitVec 5) : RoundTrip.Statement (.ishelper d) := by
  intro _ hw
  have e : encode (.ishelper d) = rWord 0xC#7 0x0#5 0x0#5 0x1#3 d 0x5B#7 := rfl
  have r : decodeRow (encode (.ishelper d)) = some (Instr.written (.ishelper d)) := by
    rw [e]
    simp [row_5B, decodeKzWv, Instr.written]
  exact decode_of_row r hw

theorem RoundTrip.bxt (b : BitVec 5) (a : BitVec 5) (d : BitVec 5) : RoundTrip.Statement (.bxt b a d) := by
  intro _ hw
  have e : encode (.bxt b a d) = rWord 0x0#7 b a 0x2#3 d 0x5B#7 := rfl
  have r : decodeRow (encode (.bxt b a d)) = some (Instr.written (.bxt b a d)) := by
    rw [e]
    simp [row_5B, decodeKzWv, Instr.written]
  exact decode_of_row r hw

theorem RoundTrip.trt (b : BitVec 5) (a : BitVec 5) (d : BitVec 5) : RoundTrip.Statement (.trt b a d) := by
  intro _ hw
  have e : encode (.trt b a d) = rWord 0x1#7 b a 0x2#3 d 0x5B#7 := rfl
  have r : decodeRow (encode (.trt b a d)) = some (Instr.written (.trt b a d)) := by
    rw [e]
    simp [row_5B, decodeKzWv, Instr.written]
  exact decode_of_row r hw

theorem RoundTrip.vlW (i : BitVec 12) (a : BitVec 5) (d : BitVec 5) : RoundTrip.Statement (.vlW i a d) := by
  intro _ hw
  have e : encode (.vlW i a d) = rWord (bits 5 7 i) (bits 0 5 i) a 0x3#3 d 0x5B#7 := by
    apply BitVec.eq_of_toNat_eq
    have := i.isLt
    simp only [encode, rWord, append_toNat, bits_toNat, BitVec.reduceToNat, Nat.reducePow]
    omega
  have r : decodeRow (encode (.vlW i a d)) = some (Instr.written (.vlW i a d)) := by
    rw [e]
    simp [row_5B, decodeKzWv, Instr.written]
  exact decode_of_row r hw

theorem RoundTrip.vsW (i : BitVec 7) (b : BitVec 5) (a : BitVec 5) (j : BitVec 5) : RoundTrip.Statement (.vsW i b a j) := by
  intro _ hw
  have e : encode (.vsW i b a j) = rWord i b a 0x4#3 j 0x5B#7 := rfl
  have r : decodeRow (encode (.vsW i b a j)) = some (Instr.written (.vsW i b a j)) := by
    rw [e]
    simp [row_5B, decodeKzWv, Instr.written]
  exact decode_of_row r hw

theorem RoundTrip.vadd (t : BitVec 1) (b : BitVec 5) (a : BitVec 5) (d : BitVec 5) : RoundTrip.Statement (.vadd t b a d) := by
  intro _ hw
  have e : encode (.vadd t b a d) = rWord (0x0#6 ++ t) b a 0x5#3 d 0x5B#7 := rfl
  have r : decodeRow (encode (.vadd t b a d)) = some (Instr.written (.vadd t b a d)) := by
    rw [e]
    simp [row_5B, decodeKzWv, Instr.written]
  exact decode_of_row r hw

theorem RoundTrip.vsub (t : BitVec 1) (b : BitVec 5) (a : BitVec 5) (d : BitVec 5) : RoundTrip.Statement (.vsub t b a d) := by
  intro _ hw
  have e : encode (.vsub t b a d) = rWord (0x2#6 ++ t) b a 0x5#3 d 0x5B#7 := rfl
  have r : decodeRow (encode (.vsub t b a d)) = some (Instr.written (.vsub t b a d)) := by
    rw [e]
    simp [row_5B, decodeKzWv, Instr.written]
  exact decode_of_row r hw

theorem RoundTrip.vmul (t : BitVec 1) (b : BitVec 5) (a : BitVec 5) (d : BitVec 5) : RoundTrip.Statement (.vmul t b a d) := by
  intro _ hw
  have e : encode (.vmul t b a d) = rWord (0x4#6 ++ t) b a 0x5#3 d 0x5B#7 := rfl
  have r : decodeRow (encode (.vmul t b a d)) = some (Instr.written (.vmul t b a d)) := by
    rw [e]
    simp [row_5B, decodeKzWv, Instr.written]
  exact decode_of_row r hw

theorem RoundTrip.vmin (t : BitVec 1) (b : BitVec 5) (a : BitVec 5) (d : BitVec 5) : RoundTrip.Statement (.vmin t b a d) := by
  intro _ hw
  have e : encode (.vmin t b a d) = rWord (0x6#6 ++ t) b a 0x5#3 d 0x5B#7 := rfl
  have r : decodeRow (encode (.vmin t b a d)) = some (Instr.written (.vmin t b a d)) := by
    rw [e]
    simp [row_5B, decodeKzWv, Instr.written]
  exact decode_of_row r hw

theorem RoundTrip.vmax (t : BitVec 1) (b : BitVec 5) (a : BitVec 5) (d : BitVec 5) : RoundTrip.Statement (.vmax t b a d) := by
  intro _ hw
  have e : encode (.vmax t b a d) = rWord (0x8#6 ++ t) b a 0x5#3 d 0x5B#7 := rfl
  have r : decodeRow (encode (.vmax t b a d)) = some (Instr.written (.vmax t b a d)) := by
    rw [e]
    simp [row_5B, decodeKzWv, Instr.written]
  exact decode_of_row r hw

theorem RoundTrip.vbc (t : BitVec 1) (a : BitVec 5) (d : BitVec 5) : RoundTrip.Statement (.vbc t a d) := by
  intro _ hw
  have e : encode (.vbc t a d) = rWord (0xA#6 ++ t) 0x0#5 a 0x5#3 d 0x5B#7 := rfl
  have r : decodeRow (encode (.vbc t a d)) = some (Instr.written (.vbc t a d)) := by
    rw [e]
    simp [row_5B, decodeKzWv, Instr.written]
  exact decode_of_row r hw

theorem RoundTrip.bsort (t : BitVec 1) (a : BitVec 5) (d : BitVec 5) : RoundTrip.Statement (.bsort t a d) := by
  intro _ hw
  have e : encode (.bsort t a d) = rWord (0x10#6 ++ t) 0x0#5 a 0x5#3 d 0x5B#7 := rfl
  have r : decodeRow (encode (.bsort t a d)) = some (Instr.written (.bsort t a d)) := by
    rw [e]
    simp [row_5B, decodeKzWv, Instr.written]
  exact decode_of_row r hw

theorem RoundTrip.bmerge (t : BitVec 1) (b : BitVec 5) (a : BitVec 5) (d : BitVec 5) : RoundTrip.Statement (.bmerge t b a d) := by
  intro _ hw
  have e : encode (.bmerge t b a d) = rWord (0x12#6 ++ t) b a 0x5#3 d 0x5B#7 := rfl
  have r : decodeRow (encode (.bmerge t b a d)) = some (Instr.written (.bmerge t b a d)) := by
    rw [e]
    simp [row_5B, decodeKzWv, Instr.written]
  exact decode_of_row r hw

theorem RoundTrip.vfma (c : BitVec 5) (t : BitVec 1) (b : BitVec 5) (a : BitVec 5) (d : BitVec 5) : RoundTrip.Statement (.vfma c t b a d) := by
  intro _ hw
  have e : encode (.vfma c t b a d) = rWord (c ++ 0x0#1 ++ t) b a 0x6#3 d 0x5B#7 := rfl
  have r : decodeRow (encode (.vfma c t b a d)) = some (Instr.written (.vfma c t b a d)) := by
    rw [e]
    simp [row_5B, decodeKzWv, Instr.written]
  exact decode_of_row r hw

theorem RoundTrip.mma (b : BitVec 5) (a : BitVec 5) (n : BitVec 5) : RoundTrip.Statement (.mma b a n) := by
  intro _ hw
  have e : encode (.mma b a n) = rWord 0x0#7 b a 0x0#3 n 0x7B#7 := rfl
  have r : decodeRow (encode (.mma b a n)) = some (Instr.written (.mma b a n)) := by
    rw [e]
    simp [row_7B, decodeKzMx, Instr.written]
  exact decode_of_row r hw

theorem RoundTrip.mzero (n : BitVec 5) : RoundTrip.Statement (.mzero n) := by
  intro _ hw
  have e : encode (.mzero n) = rWord 0x1#7 0x0#5 0x0#5 0x0#3 n 0x7B#7 := rfl
  have r : decodeRow (encode (.mzero n)) = some (Instr.written (.mzero n)) := by
    rw [e]
    simp [row_7B, decodeKzMx, Instr.written]
  exact decode_of_row r hw

theorem RoundTrip.epi (a : BitVec 5) (n : BitVec 5) : RoundTrip.Statement (.epi a n) := by
  intro _ hw
  have e : encode (.epi a n) = rWord 0x2#7 0x0#5 a 0x0#3 n 0x7B#7 := rfl
  have r : decodeRow (encode (.epi a n)) = some (Instr.written (.epi a n)) := by
    rw [e]
    simp [row_7B, decodeKzMx, Instr.written]
  exact decode_of_row r hw

theorem RoundTrip.mlink (a : BitVec 5) (n : BitVec 5) : RoundTrip.Statement (.mlink a n) := by
  intro _ hw
  have e : encode (.mlink a n) = rWord 0x3#7 0x0#5 a 0x0#3 n 0x7B#7 := rfl
  have r : decodeRow (encode (.mlink a n)) = some (Instr.written (.mlink a n)) := by
    rw [e]
    simp [row_7B, decodeKzMx, Instr.written]
  exact decode_of_row r hw

theorem RoundTrip.pred (a : BitVec 5) : RoundTrip.Statement (.pred a) := by
  intro _ hw
  have e : encode (.pred a) = rWord 0x8#7 0x0#5 a 0x0#3 0x0#5 0x7B#7 := rfl
  have r : decodeRow (encode (.pred a)) = some (Instr.written (.pred a)) := by
    rw [e]
    simp [row_7B, decodeKzMx, Instr.written]
  exact decode_of_row r hw

theorem RoundTrip.punion (a : BitVec 5) : RoundTrip.Statement (.punion a) := by
  intro _ hw
  have e : encode (.punion a) = rWord 0x9#7 0x0#5 a 0x0#3 0x0#5 0x7B#7 := rfl
  have r : decodeRow (encode (.punion a)) = some (Instr.written (.punion a)) := by
    rw [e]
    simp [row_7B, decodeKzMx, Instr.written]
  exact decode_of_row r hw

theorem RoundTrip.sparge (a : BitVec 5) : RoundTrip.Statement (.sparge a) := by
  intro _ hw
  have e : encode (.sparge a) = rWord 0xA#7 0x0#5 a 0x0#3 0x0#5 0x7B#7 := rfl
  have r : decodeRow (encode (.sparge a)) = some (Instr.written (.sparge a)) := by
    rw [e]
    simp [row_7B, decodeKzMx, Instr.written]
  exact decode_of_row r hw

theorem RoundTrip.mmaSp (c : BitVec 5) (b : BitVec 5) (a : BitVec 5) (n : BitVec 5) : RoundTrip.Statement (.mmaSp c b a n) := by
  intro _ hw
  have e : encode (.mmaSp c b a n) = rWord (c ++ 0x0#2) b a 0x1#3 n 0x7B#7 := rfl
  have r : decodeRow (encode (.mmaSp c b a n)) = some (Instr.written (.mmaSp c b a n)) := by
    rw [e]
    simp [row_7B, decodeKzMx, Instr.written]
  exact decode_of_row r hw

theorem RoundTrip.cplaunch (d : BitVec 5) : RoundTrip.Statement (.cplaunch d) := fun h => by cases h

theorem RoundTrip.cpstatSelect (v : BitVec 64) : RoundTrip.Statement (.cpstatSelect v) := fun h => by cases h

theorem RoundTrip.cpstatCancel (v : BitVec 64) : RoundTrip.Statement (.cpstatCancel v) := fun h => by cases h

theorem RoundTrip.cpstatRead (d : BitVec 5) : RoundTrip.Statement (.cpstatRead d) := fun h => by cases h

theorem RoundTrip.sdwqRead (d : BitVec 5) : RoundTrip.Statement (.sdwqRead d) := fun h => by cases h

theorem RoundTrip.sdwnDiscard : RoundTrip.Statement (.sdwnDiscard) := fun h => by cases h

theorem RoundTrip.wendWrite (cl : Nat) (v : BitVec 64) : RoundTrip.Statement (.wendWrite cl v) := fun h => by cases h

theorem RoundTrip.cqDoorbell (q : Nat) (v : BitVec 64) : RoundTrip.Statement (.cqDoorbell q v) := fun h => by cases h

theorem RoundTrip.pageWalk (die : Nat) : RoundTrip.Statement (.pageWalk die) := fun h => by cases h

theorem RoundTrip.tableLineReply (k : Nat) : RoundTrip.Statement (.tableLineReply k) := fun h => by cases h

theorem RoundTrip.tlbShootdown (k : Nat) (tlb : Nat) : RoundTrip.Statement (.tlbShootdown k tlb) := fun h => by cases h

theorem RoundTrip.sliceRead (k : Nat) : RoundTrip.Statement (.sliceRead k) := fun h => by cases h

theorem RoundTrip.sliceWrite (k : Nat) : RoundTrip.Statement (.sliceWrite k) := fun h => by cases h

theorem RoundTrip.ownershipRequest (k : Nat) : RoundTrip.Statement (.ownershipRequest k) := fun h => by cases h

theorem RoundTrip.giveUpOwnership (k : Nat) : RoundTrip.Statement (.giveUpOwnership k) := fun h => by cases h

theorem RoundTrip.recall (k : Nat) : RoundTrip.Statement (.recall k) := fun h => by cases h

theorem RoundTrip.recallReply (k : Nat) : RoundTrip.Statement (.recallReply k) := fun h => by cases h

theorem RoundTrip.taggedRequest (k : Nat) : RoundTrip.Statement (.taggedRequest k) := fun h => by cases h

theorem RoundTrip.bareAcknowledgement (p : Place) (home : Nat) : RoundTrip.Statement (.bareAcknowledgement p home) := fun h => by cases h

theorem RoundTrip.refusedResend (k : Nat) : RoundTrip.Statement (.refusedResend k) := fun h => by cases h

theorem RoundTrip.taggedResendTimeout (k : Nat) : RoundTrip.Statement (.taggedResendTimeout k) := fun h => by cases h

theorem RoundTrip.fldResend (k : Nat) : RoundTrip.Statement (.fldResend k) := fun h => by cases h

theorem RoundTrip.fldCancel (k : Nat) : RoundTrip.Statement (.fldCancel k) := fun h => by cases h

theorem RoundTrip.l1Fill (k : Nat) : RoundTrip.Statement (.l1Fill k) := fun h => by cases h

theorem RoundTrip.writeBackAck (k : Nat) : RoundTrip.Statement (.writeBackAck k) := fun h => by cases h

theorem RoundTrip.storeQueueDrain (unit : Nat) : RoundTrip.Statement (.storeQueueDrain unit) := fun h => by cases h

theorem RoundTrip.bankAccess (k : Nat) : RoundTrip.Statement (.bankAccess k) := fun h => by cases h

theorem RoundTrip.coreSramAccess (k : Nat) : RoundTrip.Statement (.coreSramAccess k) := fun h => by cases h

theorem RoundTrip.tagFlush (k : Nat) : RoundTrip.Statement (.tagFlush k) := fun h => by cases h

theorem RoundTrip.tagFlushReply (k : Nat) : RoundTrip.Statement (.tagFlushReply k) := fun h => by cases h

theorem RoundTrip.lazyDrain (unit : Nat) (entry : Nat) : RoundTrip.Statement (.lazyDrain unit entry) := fun h => by cases h

theorem RoundTrip.leaseArm (p : Place) : RoundTrip.Statement (.leaseArm p) := fun h => by cases h

theorem RoundTrip.leaseExpiry (p : Place) : RoundTrip.Statement (.leaseExpiry p) := fun h => by cases h

theorem RoundTrip.recallDeferralExpiry (k : Nat) : RoundTrip.Statement (.recallDeferralExpiry k) := fun h => by cases h

theorem RoundTrip.drayTransferStart (dray : Nat) : RoundTrip.Statement (.drayTransferStart dray) := fun h => by cases h

theorem RoundTrip.drayTileUnit (x : Nat) (u : Nat) : RoundTrip.Statement (.drayTileUnit x u) := fun h => by cases h

theorem RoundTrip.drayGatherUnit (x : Nat) (u : Nat) : RoundTrip.Statement (.drayGatherUnit x u) := fun h => by cases h

theorem RoundTrip.drayScatterUnit (x : Nat) (u : Nat) : RoundTrip.Statement (.drayScatterUnit x u) := fun h => by cases h

theorem RoundTrip.drayRowGatherUnit (x : Nat) (u : Nat) : RoundTrip.Statement (.drayRowGatherUnit x u) := fun h => by cases h

theorem RoundTrip.drayPodExchangeUnit (x : Nat) (u : Nat) : RoundTrip.Statement (.drayPodExchangeUnit x u) := fun h => by cases h

theorem RoundTrip.drayFaultStop (x : Nat) : RoundTrip.Statement (.drayFaultStop x) := fun h => by cases h

theorem RoundTrip.drayCompletion (x : Nat) : RoundTrip.Statement (.drayCompletion x) := fun h => by cases h

theorem RoundTrip.rankLookupReply (k : Nat) : RoundTrip.Statement (.rankLookupReply k) := fun h => by cases h

theorem RoundTrip.heldMessageReread (k : Nat) : RoundTrip.Statement (.heldMessageReread k) := fun h => by cases h

theorem RoundTrip.messageAdmission (k : Nat) : RoundTrip.Statement (.messageAdmission k) := fun h => by cases h

theorem RoundTrip.arrivalAdmission (k : Nat) : RoundTrip.Statement (.arrivalAdmission k) := fun h => by cases h

theorem RoundTrip.ownerAtomic (core : Nat) : RoundTrip.Statement (.ownerAtomic core) := fun h => by cases h

theorem RoundTrip.handlerTaskStart (core : Nat) : RoundTrip.Statement (.handlerTaskStart core) := fun h => by cases h

theorem RoundTrip.budgetExpiry (p : Place) : RoundTrip.Statement (.budgetExpiry p) := fun h => by cases h

theorem RoundTrip.migrateTransitReply (k : Nat) : RoundTrip.Statement (.migrateTransitReply k) := fun h => by cases h

theorem RoundTrip.channelPushArrival (k : Nat) : RoundTrip.Statement (.channelPushArrival k) := fun h => by cases h

theorem RoundTrip.tunRequest (k : Nat) : RoundTrip.Statement (.tunRequest k) := fun h => by cases h

theorem RoundTrip.tunBinTimeout (cl : Nat) (bin : Nat) : RoundTrip.Statement (.tunBinTimeout cl bin) := fun h => by cases h

theorem RoundTrip.gatheredWavePlace (cl : Nat) : RoundTrip.Statement (.gatheredWavePlace cl) := fun h => by cases h

theorem RoundTrip.regroupMerge (launch : Nat) (crew : Nat) : RoundTrip.Statement (.regroupMerge launch crew) := fun h => by cases h

theorem RoundTrip.waveRetire (p : Place) : RoundTrip.Statement (.waveRetire p) := fun h => by cases h

theorem RoundTrip.matrixUnitStart (eng : Nat) (n : Nat) : RoundTrip.Statement (.matrixUnitStart eng n) := fun h => by cases h

theorem RoundTrip.matrixCompletion (eng : Nat) (n : Nat) : RoundTrip.Statement (.matrixCompletion eng n) := fun h => by cases h

theorem RoundTrip.predictorStart (cl : Nat) : RoundTrip.Statement (.predictorStart cl) := fun h => by cases h

theorem RoundTrip.predictorCompletion (cl : Nat) : RoundTrip.Statement (.predictorCompletion cl) := fun h => by cases h

theorem RoundTrip.packetRead (q : Nat) : RoundTrip.Statement (.packetRead q) := fun h => by cases h

theorem RoundTrip.launchAdmission : RoundTrip.Statement (.launchAdmission) := fun h => by cases h

theorem RoundTrip.markerSignal (q : Nat) : RoundTrip.Statement (.markerSignal q) := fun h => by cases h

theorem RoundTrip.unitPlacement (launch : Nat) : RoundTrip.Statement (.unitPlacement launch) := fun h => by cases h

theorem RoundTrip.launchCompletion (launch : Nat) : RoundTrip.Statement (.launchCompletion launch) := fun h => by cases h

theorem RoundTrip.preemptionRequest (launch : Nat) : RoundTrip.Statement (.preemptionRequest launch) := fun h => by cases h

theorem RoundTrip.floorShareSlice (launch : Nat) : RoundTrip.Statement (.floorShareSlice launch) := fun h => by cases h

theorem RoundTrip.demotionExpiry (p : Place) : RoundTrip.Statement (.demotionExpiry p) := fun h => by cases h

theorem RoundTrip.spinWake (p : Place) : RoundTrip.Statement (.spinWake p) := fun h => by cases h

theorem RoundTrip.yieldExpiry (p : Place) : RoundTrip.Statement (.yieldExpiry p) := fun h => by cases h

theorem RoundTrip.trapEntry (cause : Nat) (tval : BitVec 64) : RoundTrip.Statement (.trapEntry cause tval) := fun h => by cases h

theorem RoundTrip.interruptTaken (p : Place) (code : Nat) : RoundTrip.Statement (.interruptTaken p code) := fun h => by cases h

theorem RoundTrip.machineCheck (p : Place) : RoundTrip.Statement (.machineCheck p) := fun h => by cases h

theorem RoundTrip.preemptionInterrupt (p : Place) : RoundTrip.Statement (.preemptionInterrupt p) := fun h => by cases h

theorem RoundTrip.deferredWrite (p : Place) : RoundTrip.Statement (.deferredWrite p) := fun h => by cases h

theorem RoundTrip.poisonExport (p : Place) : RoundTrip.Statement (.poisonExport p) := fun h => by cases h

theorem RoundTrip.userInterrupt (p : Place) : RoundTrip.Statement (.userInterrupt p) := fun h => by cases h

theorem RoundTrip.hardwareSave (p : Place) : RoundTrip.Statement (.hardwareSave p) := fun h => by cases h

theorem RoundTrip.contextResume (area : Nat) (p : Place) : RoundTrip.Statement (.contextResume area p) := fun h => by cases h

theorem RoundTrip.backgroundRegisterFetch (p : Place) (lane : Nat) (file : Nat) (reg : Nat) : RoundTrip.Statement (.backgroundRegisterFetch p lane file reg) := fun h => by cases h

theorem RoundTrip.watchdogExpiry (p : Place) : RoundTrip.Statement (.watchdogExpiry p) := fun h => by cases h

theorem RoundTrip.taggedReply (k : Nat) : RoundTrip.Statement (.taggedReply k) := fun h => by cases h

theorem RoundTrip.operatingPointChange (k : Nat) (granted : Bool) : RoundTrip.Statement (.operatingPointChange k granted) := fun h => by cases h

theorem RoundTrip.islandPowerUp (k : Nat) (granted : Bool) : RoundTrip.Statement (.islandPowerUp k granted) := fun h => by cases h

theorem RoundTrip.slpinWrite (sl : Nat) (n : Nat) (v : BitVec 64) : RoundTrip.Statement (.slpinWrite sl n v) := fun h => by cases h

theorem RoundTrip.tunctlWrite (cl : Nat) (v : BitVec 64) : RoundTrip.Statement (.tunctlWrite cl v) := fun h => by cases h

theorem RoundTrip.registerWrite (pa : Nat) (v : BitVec 64) : RoundTrip.Statement (.registerWrite pa v) := fun h => by cases h

theorem RoundTrip.pathDeclaredFailed (home : Nat) : RoundTrip.Statement (.pathDeclaredFailed home) := fun h => by cases h

theorem RoundTrip.registerMiss (p : Place) (lane : Nat) (file : Nat) (reg : Nat) : RoundTrip.Statement (.registerMiss p lane file reg) := fun h => by cases h

theorem RoundTrip.hostRead (addr : Nat) (size : Nat) : RoundTrip.Statement (.hostRead addr size) := fun h => by cases h

theorem RoundTrip.hostWrite (addr : Nat) (size : Nat) (v : HostData) : RoundTrip.Statement (.hostWrite addr size v) := fun h => by cases h

theorem RoundTrip.hostAtomic (op : Nat) (size : Nat) (addr : Nat) (v : BitVec 64) (c : BitVec 64) : RoundTrip.Statement (.hostAtomic op size addr v c) := fun h => by cases h

theorem RoundTrip.hostSnoop (line : Nat) (inval : Bool) : RoundTrip.Statement (.hostSnoop line inval) := fun h => by cases h

theorem RoundTrip.flitRetry (link : Nat) : RoundTrip.Statement (.flitRetry link) := fun h => by cases h

theorem RoundTrip.laneRepair (link : Nat) (spare : Bool) : RoundTrip.Statement (.laneRepair link spare) := fun h => by cases h

theorem RoundTrip.spanPortDown (port : Nat) : RoundTrip.Statement (.spanPortDown port) := fun h => by cases h

theorem RoundTrip.correctedError (unit : Nat) : RoundTrip.Statement (.correctedError unit) := fun h => by cases h

theorem RoundTrip.uncorrectableError (site : Nat) (index : Nat) : RoundTrip.Statement (.uncorrectableError site index) := fun h => by cases h

theorem RoundTrip.counterSample : RoundTrip.Statement (.counterSample) := fun h => by cases h

theorem RoundTrip.unitSelfTest (unit : Nat) (pass : Bool) : RoundTrip.Statement (.unitSelfTest unit pass) := fun h => by cases h

theorem RoundTrip.unitDeclaredFailed (unit : Nat) : RoundTrip.Statement (.unitDeclaredFailed unit) := fun h => by cases h

theorem RoundTrip.thermalTrip (island : Nat) (point : BitVec 4) (gate : Bool) : RoundTrip.Statement (.thermalTrip island point gate) := fun h => by cases h

theorem RoundTrip.deviceReset (core : Option Nat) : RoundTrip.Statement (.deviceReset core) := fun h => by cases h

theorem RoundTrip.startUp (stage : Nat) (reason : BitVec 8) (ports : Nat) (pkg : Nat) : RoundTrip.Statement (.startUp stage reason ports pkg) := fun h => by cases h

theorem RoundTrip.startUpWatchdogExpiry : RoundTrip.Statement (.startUpWatchdogExpiry) := fun h => by cases h

theorem RoundTrip.linkRetrain (link : Nat) : RoundTrip.Statement (.linkRetrain link) := fun h => by cases h

theorem RoundTrip.wfiWakeWithoutCause (p : Place) : RoundTrip.Statement (.wfiWakeWithoutCause p) := fun h => by cases h

end Sys2Proof.Laws
end

