-- ==== Sys2Proof/Machine/Ready.lean ====
section
/-! DEFINITION. The conditions under which an instruction issues and acts: every check of the gate passes, and nothing holds the
context (09 R166; 06 R113; 18 R366; 01 R17). -/
namespace Sys2Proof.Machine

/-- The context that issues. -/
def State.own (s : State) : Ctx := s.ctx s.here

/-- The executing lanes of the next issue of that context. -/
def State.issue (s : State) : List Nat := s.own.executing

/-- The context at the current place can issue the instruction: it is resident, some lane executes and one that is no helper where the
instruction acts once, it does not wait, no check that comes before an instruction's own effect fails, and no register of the
instruction is absent or waits for a load. -/
def State.canIssue (s : State) (i : Instr) : Bool :=
  let c := s.own
  c.status == .resident && !s.issue.isEmpty && !c.wfi && !c.flushWait && !c.crossed && c.remote.isEmpty
    && !c.expired (s.now s.here) && (c.block.isNone || c.phase != 0) && !(Instr.once i && (c.lead s.issue).isNone) && (c.illegal s.here s.issue i).isNone
    && (c.region.isNone || Instr.regionOk i) && (c.firstAbsent s.issue (c.needs i)).isNone
    && !s.hazard c.uid s.issue (c.needs i)

/-- No worker of the issue holds a register poisoned. -/
def State.cleanX (s : State) (r : BitVec 5) : Bool := (s.own.poisoned s.issue r.toNat).isEmpty

end Sys2Proof.Machine
end

