-- ==== Sys2Proof/Machine/Rows.lean ====
section
/-! DEFINITION. What the tables of 10 give each instruction that computes in a lane: its destination and its result. -/
namespace Sys2Proof.Machine

/-- A value of one source register, poisoned with it (07 R129). -/
def Lane.un (l : Lane) (a : BitVec 5) (f : Word → Word) : Reg := Reg.of (f (l.rx a.toNat).v) (l.rx a.toNat).p

/-- A value of two source registers, poisoned when either is (07 R129). -/
def Lane.bin (l : Lane) (a b : BitVec 5) (f : Word → Word → Word) : Reg :=
  Reg.of (f (l.rx a.toNat).v (l.rx b.toNat).v) ((l.rx a.toNat).p || (l.rx b.toNat).p)

/-- The destination and the result of an integer instruction (10 R195 to R199). -/
def Instr.intRow : Instr → Option (BitVec 5 × (Lane → Reg))
  | .lui i d => some (d, fun _ => Reg.of (sext (i ++ 0#12)) false)
  | .auipc i d => some (d, fun l => Reg.of (l.pc + sext (i ++ 0#12)) false)
  | .opImm i a f d => some (d, fun l => l.un a fun x => aluOp f x (sext i))
  | .slli h a d => some (d, fun l => l.un a fun x => x <<< h.toNat)
  | .srli h a d => some (d, fun l => l.un a fun x => x >>> h.toNat)
  | .srai h a d => some (d, fun l => l.un a fun x => x.sshiftRight h.toNat)
  | .addiw i a d => some (d, fun l => l.un a fun x => wResult (x + sext i))
  | .slliw h a d => some (d, fun l => l.un a fun x => sext (lo32 x <<< h.toNat))
  | .srliw h a d => some (d, fun l => l.un a fun x => sext (lo32 x >>> h.toNat))
  | .sraiw h a d => some (d, fun l => l.un a fun x => sext ((lo32 x).sshiftRight h.toNat))
  | .op b a f d => some (d, fun l => l.bin a b (aluOp f))
  | .sub b a d => some (d, fun l => l.bin a b fun x y => x - y)
  | .sra b a d => some (d, fun l => l.bin a b fun x y => x.sshiftRight (y.toNat % 64))
  | .op32 b a f d => some (d, fun l => l.bin a b (aluOpW f))
  | .subw b a d => some (d, fun l => l.bin a b fun x y => wResult (x - y))
  | .sraw b a d => some (d, fun l => l.bin a b fun x y => sext ((lo32 x).sshiftRight (y.toNat % 32)))
  | .mul b a f d => some (d, fun l => l.bin a b (mulOp f))
  | .div b a f d => some (d, fun l => l.bin a b (divOp f))
  | .mulw b a d => some (d, fun l => l.bin a b fun x y => wResult (x * y))
  | .divw b a f d => some (d, fun l => l.bin a b fun x y => sext (divOp f (lo32 x) (lo32 y)))
  | .shadd b a f d => some (d, fun l => l.bin a b fun x y => y + (x <<< f.toNat))
  | .addUw b a d => some (d, fun l => l.bin a b fun x y => y + zext (lo32 x))
  | .shaddUw b a f d => some (d, fun l => l.bin a b fun x y => y + (zext (lo32 x) <<< f.toNat))
  | .slliUw h a d => some (d, fun l => l.un a fun x => zext (lo32 x) <<< h.toNat)
  | .andnOrnXnor b a f d => some (d, fun l => l.bin a b (logicNotOp f))
  | .minMax b a f d => some (d, fun l => l.bin a b (minMaxOp f))
  | .rolRor b a f d => some (d, fun l => l.bin a b fun x y => rotOp (f = 1#1) x (y.toNat % 64))
  | .rolwRorw b a f d => some (d, fun l => l.bin a b fun x y => sext (rotOp (f = 1#1) (lo32 x) (y.toNat % 32)))
  | .rori h a d => some (d, fun l => l.un a fun x => x.rotateRight h.toNat)
  | .roriw h a d => some (d, fun l => l.un a fun x => sext ((lo32 x).rotateRight h.toNat))
  | .clzCtzCpopSext f a d => some (d, fun l => l.un a (countOp f))
  | .clzwCtzwCpopw f a d => some (d, fun l => l.un a (countOpW f))
  | .orcB a d => some (d, fun l => l.un a orcB)
  | .rev8 a d => some (d, fun l => l.un a rev8)
  | .zextH a d => some (d, fun l => l.un a fun x => zext (bits 0 16 x))
  | _ => none

/-- The result of an instruction of the F and D tables in a lane: its value, its poison and the flags that it raises. -/
structure FpOut where
  v : Word
  p : Bool
  fl : FFlags
  deriving DecidableEq, Repr

/-- An f register holds a result of format T, NaN-boxed where it is 32 bits (10 R201). -/
def FpOut.box (t : BitVec 1) (p : Bool) (r : Nat × FFlags) : FpOut := { v := fpBox (t = 1#1) r.1, p := p, fl := r.2 }

/-- The destination f register and the result of a floating-point instruction that writes one (10 R200, R201). -/
def Instr.fpRow : Instr → Option (BitVec 5 × (Lane → FpOut))
  | .fpFused c t b a r d o => some (d, fun l => FpOut.box t (l.fPoison [a, b, c])
      (fusedOp (fpFmt (t = 1#1)) (l.rnd r) o (l.fpVal t a) (l.fpVal t b) (l.fpVal t c)))
  | .fpArith o t b a r d => some (d, fun l => FpOut.box t (l.fPoison [a, b])
      (fpArithOp (fpFmt (t = 1#1)) (l.rnd r) o (l.fpVal t a) (l.fpVal t b)))
  | .fsqrt t a r d => some (d, fun l => FpOut.box t (l.fPoison [a]) (sqrtVal (fpFmt (t = 1#1)) (l.rnd r) (l.fpVal t a)))
  | .fsgnj t b a f d => some (d, fun l => FpOut.box t (l.fPoison [a, b])
      (signInject (fpFmt (t = 1#1)) f (l.fpCode t a) (l.fpCode t b), 0))
  | .fminFmax t b a f d => some (d, fun l => FpOut.box t (l.fPoison [a, b])
      (minMaxFp (fpFmt (t = 1#1)) (f = 1#1) (l.fpCode t a) (l.fpCode t b)))
  | .fcvtSD a r d => some (d, fun l => FpOut.box 0#1 (l.fPoison [a]) (fpToFp fp32 (l.rnd r) (l.fpVal 1#1 a)))
  | .fcvtDS a r d => some (d, fun l => FpOut.box 1#1 (l.fPoison [a]) (fpToFp fp64 (l.rnd r) (l.fpVal 0#1 a)))
  | .fcvtFromInt t f a r d => some (d, fun l => FpOut.box t (l.rx a.toNat).p
      (intToFp (fpFmt (t = 1#1)) (l.rnd r) (intSource f (l.rx a.toNat).v)))
  | .fmvToF t a d => some (d, fun l =>
      { v := if t = 1#1 then (l.rx a.toNat).v else nanBox (lo32 (l.rx a.toNat).v).toNat, p := (l.rx a.toNat).p, fl := 0 })
  | _ => none

/-- The destination x register and the result of a floating-point instruction that writes one (10 R200, R201). -/
def Instr.fpToXRow : Instr → Option (BitVec 5 × (Lane → FpOut))
  | .fpCompare t b a f d => some (d, fun l =>
      let r := fpCompareOp f (l.fpVal t a) (l.fpVal t b)
      { v := boolWord r.1, p := l.fPoison [a, b], fl := r.2 })
  | .fcvtToInt t f a r d => some (d, fun l =>
      let v := fpToInt (l.rnd r) (f.toNat % 2 = 0) (if f.toNat < 2 then 32 else 64) (l.fpVal t a)
      { v := intResult f v.1, p := l.fPoison [a], fl := v.2 })
  | .fmvX t a d => some (d, fun l =>
      { v := if t = 1#1 then (l.rf a.toNat).v else sext (lo32 (l.rf a.toNat).v), p := l.fPoison [a], fl := 0 })
  | .fclass t a d => some (d, fun l =>
      { v := BitVec.ofNat 64 (classify (fpFmt (t = 1#1)) (l.fpCode t a)), p := l.fPoison [a], fl := 0 })
  | _ => none

/-- Two states differ in the context at the current place alone: every byte of memory, every other context and every other part
of the package is as it was. -/
def OnlyOwn (s t : State) : Prop :=
  t = { s with ctxs := t.ctxs } ∧ ∀ k, k ≠ s.here → t.ctx k = s.ctx k

/-- A context after an instruction that only computes in some lanes: its lanes, `instret` and the progress of the instruction are
all that differ, and no lane outside `ls` does. -/
def OnlyLanes (c d : Ctx) (ls : List Nat) : Prop :=
  d = { c with lanes := d.lanes, csr := { c.csr with instret := c.csr.instret + 1 }, phase := 0, walkFault := [], look := [] }
    ∧ ∀ l, l ∉ ls → d.lane l = c.lane l

end Sys2Proof.Machine
end

