-- ==== Sys2Proof/Certificates/Slice0/Obligations.lean ====
section
/-! DEFINITION. The statements about the model that are to be proved: what the rules of spec/ say that instructions and events do. -/
open Sys2Proof Sys2Proof.Machine

/-! ## Words -/

/-- The word of every well-formed instruction decodes to that instruction (09 R164 to R184): no bit of an operand is dropped. The
four commands of `island` share one word, which decodes to the first (`Instr.written`). -/
def Obligations.RoundTrip : Prop := ∀ i : Instr, Laws.RoundTrip.Statement i

/-- Words of 09 R184 and 25 R432, written out field by field, decode to the instructions that they stand for. -/
def Obligations.DecodeWords : Prop :=
  decode (0x001#12 ++ 0#5 ++ 0#3 ++ 1#5 ++ 0x13#7) = .ok (.opImm 1#12 0#5 0#3 1#5)
  ∧ decode 0x60B5107B#32 = .ok (.mmaSp 12#5 11#5 10#5 0#5)
  ∧ decode 0x0200007B#32 = .ok (.mzero 0#5)
  ∧ decode 0x0402807B#32 = .ok (.epi 5#5 0#5)
  ∧ decode 0x2000508B#32 = .ok (.waitcnt 0#5 1#5)
  ∧ decode 0x0000102B#32 = .ok .hend
  ∧ decode 0x0C00102B#32 = .ok .uiret
  ∧ decode 0xCC002573#32 = .ok (.csrrs 0xCC0#12 0#5 10#5)
  ∧ decode 0x7AB5000B#32 = .ok (.stRel 3#2 5#3 11#5 10#5)

/-- The bytes at the program counter run as the instruction that they encode: where nothing is due at the boundary, no `sfence.vma` waits for
its last step, and the fetch gives the word of a well-formed instruction, a step at the place executes that instruction. -/
def Obligations.StepRunsDecoded : Prop :=
  ∀ (s u : State) (p : Place) (r : List Turn) (w : BitVec 32) (i : Instr),
    s.agenda = .run p :: r →
    (s.ctx p.key).status = .resident →
    State.boundaryEvent { s with agenda := r, cur := p } p = none →
    (s.ctx p.key).forced = [] →
    (s.ctx p.key).wfi = false →
    (s.ctx p.key).mayTry = true →
    s.shootOf (s.ctx p.key).uid = none →
    State.fetch { s with agenda := r, cur := p } p.key = .word w u →
    decode w = .ok i →
    step s = match exec (u.resolve i) u with
      | .next t => .next (u.noteIssue t u.here (u.resolve i))
      | o => o

/-! ## Computation in the lanes -/

/-- 10 R195 to R199, 07 R129: an integer instruction writes the table's result in every executing lane, and the lane goes to the next
instruction; a write to x0 is discarded. -/
def Obligations.IntegerResults : Prop :=
  ∀ (s : State) (i : Instr) (d : BitVec 5) (f : Lane → Reg), Instr.intRow i = some (d, f) → s.canIssue i = true →
    ∃ t, exec i s = .next t ∧ ∀ l, l ∈ s.issue →
      ((t.ctx s.here).lane l).pc = (s.own.lane l).pc + 4
      ∧ ((t.ctx s.here).lane l).rx d.toNat = if d = 0#5 then Reg.zero else f (s.own.lane l)

/-- The frame of the integer instructions: memory and everything outside the context stay; of the context only the executing lanes
and `instret` change; of such a lane only rd and the PC. -/
def Obligations.IntegerFrame : Prop :=
  ∀ (s t : State) (i : Instr) (d : BitVec 5) (f : Lane → Reg), Instr.intRow i = some (d, f) → s.canIssue i = true →
    exec i s = .next t →
    OnlyOwn s t ∧ OnlyLanes s.own (t.ctx s.here) s.issue
    ∧ ∀ l, l ∈ s.issue →
      (∀ r, r ≠ d.toNat → ((t.ctx s.here).lane l).rx r = (s.own.lane l).rx r)
      ∧ (t.ctx s.here).lane l = { s.own.lane l with x := ((t.ctx s.here).lane l).x, pc := (s.own.lane l).pc + 4 }

/-- 10 R198: division by zero and the overflow of the signed forms give the table's results, at 64 bits and, sign-extended, at 32
bits, and raise no trap: the instruction retires. The selector is 0 `div`, 1 `divu`, 2 `rem`, 3 `remu`. -/
def Obligations.DivisionCorners : Prop :=
  ∀ (s : State) (b a d : BitVec 5) (f : BitVec 2), d ≠ 0#5 →
    (s.canIssue (.div b a f d) = true → ∃ t, exec (.div b a f d) s = .next t ∧ OnlyLanes s.own (t.ctx s.here) s.issue
      ∧ ∀ l, l ∈ s.issue →
        let x := ((s.own.lane l).rx a.toNat).v
        let y := ((s.own.lane l).rx b.toNat).v
        let r := (((t.ctx s.here).lane l).rx d.toNat).v
        ((t.ctx s.here).lane l).pc = (s.own.lane l).pc + 4
        ∧ (y = 0 → r = if f.toNat < 2 then BitVec.allOnes 64 else x)
        ∧ (x = BitVec.intMin 64 → y = BitVec.allOnes 64 → (f = 0#2 → r = BitVec.intMin 64) ∧ (f = 2#2 → r = 0)))
    ∧ (s.canIssue (.divw b a f d) = true → ∃ t, exec (.divw b a f d) s = .next t ∧ OnlyLanes s.own (t.ctx s.here) s.issue
      ∧ ∀ l, l ∈ s.issue →
        let x := lo32 ((s.own.lane l).rx a.toNat).v
        let y := lo32 ((s.own.lane l).rx b.toNat).v
        let r := (((t.ctx s.here).lane l).rx d.toNat).v
        ((t.ctx s.here).lane l).pc = (s.own.lane l).pc + 4
        ∧ (y = 0 → r = if f.toNat < 2 then BitVec.allOnes 64 else sext x)
        ∧ (x = BitVec.intMin 32 → y = BitVec.allOnes 32 → (f = 0#2 → r = sext (BitVec.intMin 32)) ∧ (f = 2#2 → r = 0)))

/-- 10 R197: of any width, quotient and remainder recompose the dividend; with a divisor other than 0, and but for the signed overflow, they
are the exact ones: the signed quotient is rounded towards 0, and the remainder is smaller than the divisor and has the dividend's
sign. -/
def Sys2Proof.Machine.divisionIdentity : Prop :=
  ∀ (n : Nat) (x y : BitVec n), divOp 0#2 x y * y + divOp 2#2 x y = x ∧ divOp 1#2 x y * y + divOp 3#2 x y = x
    ∧ (y ≠ 0 → (divOp 1#2 x y).toNat = x.toNat / y.toNat ∧ (divOp 3#2 x y).toNat = x.toNat % y.toNat)
    ∧ (y ≠ 0 → ¬(x = BitVec.intMin n ∧ y = BitVec.allOnes n) →
        (divOp 0#2 x y).toInt = x.toInt.tdiv y.toInt ∧ (divOp 2#2 x y).toInt = x.toInt.tmod y.toInt
        ∧ (divOp 2#2 x y).toInt.natAbs < y.toInt.natAbs
        ∧ (0 ≤ x.toInt → 0 ≤ (divOp 2#2 x y).toInt) ∧ (x.toInt ≤ 0 → (divOp 2#2 x y).toInt ≤ 0))

/-- 10 R197: the high halves of the product are those of the exact 128-bit product. -/
def Sys2Proof.Machine.highProducts : Prop :=
  ∀ x y : BitVec 64,
    (mulOp 3#2 x y).toNat * 2 ^ 64 + (mulOp 0#2 x y).toNat = x.toNat * y.toNat
    ∧ (mulOp 1#2 x y).toInt * 2 ^ 64 + (mulOp 0#2 x y).toNat = x.toInt * y.toInt
    ∧ (mulOp 2#2 x y).toInt * 2 ^ 64 + (mulOp 0#2 x y).toNat = x.toInt * (y.toNat : Int)

/-- Division and multiplication agree with exact arithmetic: both of the following. -/
def Obligations.ArithmeticIdentities : Prop := divisionIdentity ∧ highProducts

/-- 10 R200, R201, 07 R126, R129: a floating-point instruction that writes an f register writes its result there in every executing
lane; it accrues its flags unless a source is poisoned or the lane is a helper. -/
def Sys2Proof.Machine.fpResults : Prop :=
  ∀ (s : State) (i : Instr) (d : BitVec 5) (f : Lane → FpOut), Instr.fpRow i = some (d, f) → s.canIssue i = true →
    ∃ t, exec i s = .next t ∧ OnlyOwn s t ∧ OnlyLanes s.own (t.ctx s.here) s.issue ∧ ∀ l, l ∈ s.issue →
      let a := s.own.lane l
      let b := (t.ctx s.here).lane l
      b.pc = a.pc + 4 ∧ b.rf d.toNat = Reg.of (f a).v (f a).p ∧ (∀ r, r ≠ d.toNat → b.rf r = a.rf r) ∧ b.x = a.x
      ∧ b.fcsr = if a.helper || (f a).p then a.fcsr else a.fcsr ||| BitVec.ofNat 8 ((f a).fl % 32)

/-- The same of a floating-point instruction that writes an x register. -/
def Sys2Proof.Machine.fpToIntegerResults : Prop :=
  ∀ (s : State) (i : Instr) (d : BitVec 5) (f : Lane → FpOut), Instr.fpToXRow i = some (d, f) → s.canIssue i = true →
    ∃ t, exec i s = .next t ∧ OnlyOwn s t ∧ OnlyLanes s.own (t.ctx s.here) s.issue ∧ ∀ l, l ∈ s.issue →
      let a := s.own.lane l
      let b := (t.ctx s.here).lane l
      b.pc = a.pc + 4 ∧ b.rx d.toNat = (if d = 0#5 then Reg.zero else Reg.of (f a).v (f a).p)
      ∧ (∀ r, r ≠ d.toNat → b.rx r = a.rx r) ∧ b.f = a.f
      ∧ b.fcsr = if a.helper || (f a).p then a.fcsr else a.fcsr ||| BitVec.ofNat 8 ((f a).fl % 32)

/-- The floating-point instructions, by the file of their destination. -/
def Obligations.FpInstructions : Prop := fpResults ∧ fpToIntegerResults

/-! ## Control flow -/

/-- 10 R195, R212, R213: `jal` sends every executing lane to its target and writes the link, where the target of every worker is
aligned; a helper lane with a misaligned target continues at PC + 4. -/
def Sys2Proof.Machine.jalCompletes : Prop :=
  ∀ (s : State) (i : BitVec 20) (d : BitVec 5), s.canIssue (.jal i d) = true →
    (∀ l, l ∈ s.issue → (s.own.lane l).helper = false → ((s.own.lane l).pc + jumpOff i).toNat % 4 = 0) →
    ∃ t, exec (.jal i d) s = .next t ∧ OnlyOwn s t ∧ OnlyLanes s.own (t.ctx s.here) s.issue ∧ ∀ l, l ∈ s.issue →
      let a := s.own.lane l
      let b := (t.ctx s.here).lane l
      b.pc = (if (a.pc + jumpOff i).toNat % 4 = 0 then a.pc + jumpOff i else a.pc + 4)
      ∧ b.rx d.toNat = (if d = 0#5 then Reg.zero else Reg.of (a.pc + 4) false)
      ∧ (∀ r, r ≠ d.toNat → b.rx r = a.rx r) ∧ b.f = a.f ∧ b.fcsr = a.fcsr

/-- The target of `jalr` in a lane. -/
def Sys2Proof.Machine.Lane.jalrTarget (l : Lane) (a : BitVec 5) (i : BitVec 12) : Word := ((l.rx a.toNat).v + sext i) &&& ~~~1#64

/-- 10 R195, R212, R213: `jalr` sends every executing lane to its target and writes the link, where no worker's target register is
poisoned and every worker's target is aligned; a helper lane with a poisoned or misaligned target continues at PC + 4. -/
def Sys2Proof.Machine.jalrCompletes : Prop :=
  ∀ (s : State) (i : BitVec 12) (a d : BitVec 5), s.canIssue (.jalr i a d) = true → s.cleanX a = true →
    (∀ l, l ∈ s.issue → (s.own.lane l).helper = false → ((s.own.lane l).jalrTarget a i).toNat % 4 = 0) →
    ∃ t, exec (.jalr i a d) s = .next t ∧ OnlyOwn s t ∧ OnlyLanes s.own (t.ctx s.here) s.issue ∧ ∀ l, l ∈ s.issue →
      let x := s.own.lane l
      let b := (t.ctx s.here).lane l
      b.pc = (if (x.rx a.toNat).p = false ∧ (x.jalrTarget a i).toNat % 4 = 0 then x.jalrTarget a i else x.pc + 4)
      ∧ b.rx d.toNat = (if d = 0#5 then Reg.zero else Reg.of (x.pc + 4) false)
      ∧ (∀ r, r ≠ d.toNat → b.rx r = x.rx r) ∧ b.f = x.f ∧ b.fcsr = x.fcsr

/-- A lane takes a branch: its condition holds, and neither source is poisoned (10 R195, R213). -/
def Sys2Proof.Machine.Lane.branches (l : Lane) (f : BitVec 3) (a b : BitVec 5) : Bool :=
  branchTaken f (l.rx a.toNat).v (l.rx b.toNat).v && !(l.rx a.toNat).p && !(l.rx b.toNat).p

/-- 10 R195, R212, R213: each executing lane takes its branch or goes to PC + 4; nothing else changes. -/
def Sys2Proof.Machine.branchCompletes : Prop :=
  ∀ (s : State) (j : BitVec 7) (b a : BitVec 5) (f : BitVec 3) (k : BitVec 5), s.canIssue (.branch j b a f k) = true →
    s.cleanX a = true → s.cleanX b = true →
    (∀ l, l ∈ s.issue → (s.own.lane l).helper = false → (s.own.lane l).branches f a b = true →
      ((s.own.lane l).pc + branchOff j k).toNat % 4 = 0) →
    ∃ t, exec (.branch j b a f k) s = .next t ∧ OnlyOwn s t ∧ OnlyLanes s.own (t.ctx s.here) s.issue ∧ ∀ l, l ∈ s.issue →
      (t.ctx s.here).lane l = { s.own.lane l with
        pc := if (s.own.lane l).branches f a b = true ∧ ((s.own.lane l).pc + branchOff j k).toNat % 4 = 0
              then (s.own.lane l).pc + branchOff j k else (s.own.lane l).pc + 4 }

/-- The control transfers: jumps, indirect jumps and branches. -/
def Obligations.ControlTransfers : Prop := jalCompletes ∧ jalrCompletes ∧ branchCompletes

/-! ## Loads and stores -/

/-- A load instruction with its lanes translated: the register that addresses it, the translation, each lane's destination, whether it
reads at the home (11 R219), and the acquire that ends it. -/
structure Sys2Proof.Machine.LoadRow where
  a : BitVec 5
  xl : LaneXl
  dst : Nat → Dst
  direct : Bool
  acq : Option Nat

/-- The loads of 10 R202, 11 R219, 13 R277 and 13 R281. -/
def Sys2Proof.Machine.State.loadRow (s : State) : Instr → Option LoadRow
  | .load i a f d =>
    let n := (loadSize f).1
    some ⟨a, s.xlatLanes s.here 0 s.own (s.own.requests s.issue a.toNat (sext i) n n), fun _ => .x d.toNat n (loadSize f).2, false, none⟩
  | .fpLoad i a f d =>
    let n := if f = 1#1 then 8 else 4
    some ⟨a, s.xlatLanes s.here 0 s.own (s.own.requests s.issue a.toNat (sext i) n n), fun _ => .f d.toNat n, false, none⟩
  | .ldAcq z sc a d =>
    let n := 2 ^ z.toNat
    some ⟨a, s.xlatAligned s.here 0 4 s.own (s.own.requests s.issue a.toNat 0 n n), fun _ => .x d.toNat n true, true, some sc.toNat⟩
  | .vlW i a d =>
    some ⟨a, s.xlatAligned s.here 0 4 s.own (s.own.requests s.issue a.toNat (sext i) 32 4), fun _ => .w d.toNat, false, none⟩
  | .bxt b a d =>
    some ⟨b, s.xlatAligned s.here 0 4 s.own (s.own.requests s.issue b.toNat 0 24 4), fun l => .box d.toNat ((s.own.lane l).ray a), false, none⟩
  | .trt b a d =>
    some ⟨b, s.xlatAligned s.here 0 4 s.own (s.own.requests s.issue b.toNat 0 36 4), fun l => .tri d.toNat ((s.own.lane l).ray a), false, none⟩
  | _ => none

/-- No worker's access faults, and none waits for a walk. -/
def Sys2Proof.Machine.LaneXl.clean (t : LaneXl) : Prop := t.bad = [] ∧ t.miss = []

/-- The pieces of all lanes. -/
def Sys2Proof.Machine.LaneXl.allPieces (t : LaneXl) : List Piece := t.ok.foldr (fun e l => e.2 ++ l) []

/-- Nothing holds the loads of a row back: its address registers hold no poison, its lanes translate, no device register is denied, no
own store waits that it overlaps, the `ld` counter and the unit's outstanding misses (01 R16) have room, and a load that reads at the
home has no dirty copy to settle. -/
def Sys2Proof.Machine.State.loadsGo (s : State) (r : LoadRow) : Prop :=
  s.cleanX r.a = true ∧ s.own.region = none ∧ r.xl.clean ∧ (∀ e, e ∈ r.xl.ok → s.loadCheck s.here e.1 e.2 = none)
  ∧ s.queuedOverlap s.here r.xl.allPieces = false ∧ s.own.counterFull .ld = false
  ∧ (r.direct = true → s.settleDirty s.here r.xl.allPieces = none)
  ∧ (r.direct = false → s.missFull (unitOf s.here) r.xl.allPieces = false)

/-- 10 R202, 11 R217, R219, 13 R277, R281: a load that nothing holds back retires and starts one load for each lane, counted on `ld` as
one; `ld.acq` reads at the home and acquires at its scope when its bytes are there. -/
def Sys2Proof.Machine.loadsComplete : Prop :=
  ∀ (s : State) (i : Instr) (r : LoadRow), s.loadRow i = some r → s.canIssue i = true → s.loadsGo r →
    exec i s = .next (s.startLoads s.here s.issue r.xl r.dst r.direct r.acq)

/-- Register `q` of a lane of a context: 0 to 31 x, 32 to 63 f, 64 to 95 the vector registers. -/
def Sys2Proof.Machine.Ctx.sameReg (c d : Ctx) (l q : Nat) : Prop :=
  (q < 32 → (d.lane l).rx q = (c.lane l).rx q) ∧ (32 ≤ q → q < 64 → (d.lane l).rf (q - 32) = (c.lane l).rf (q - 32))
  ∧ (64 ≤ q → d.rw (q - 64) = c.rw (q - 64))

/-- The frame of the loads: every byte of memory, its poison and its full bit stay; of the own context every register but the lanes'
destinations stays, and the PC of each executing lane rises by 4; every other context stays, where no other carries the number of this
one. -/
def Obligations.LoadsFrame : Prop :=
  ∀ (s t : State) (i : Instr) (r : LoadRow), s.loadRow i = some r → s.canIssue i = true → s.loadsGo r → exec i s = .next t →
    (∀ a, t.byte a = s.byte a ∧ t.bytePoison a = s.bytePoison a ∧ t.wordsFull a 1 = s.wordsFull a 1)
    ∧ (∀ l, l ∈ s.issue → ((t.ctx s.here).lane l).pc = (s.own.lane l).pc + 4)
    ∧ (∀ l, l ∉ s.issue → (t.ctx s.here).lane l = s.own.lane l)
    ∧ (∀ l q, l ∈ s.issue → (∀ m, m ∈ s.issue → q ∉ (r.dst m).regs) → s.own.sameReg (t.ctx s.here) l q)
    ∧ (t.ctx s.here).csr = { s.own.csr with instret := s.own.csr.instret + 1 }
    ∧ (s.keyOf s.own.uid = some s.here → ∀ k, k ≠ s.here → t.ctx k = s.ctx k)

/-- The little-endian value of bytes of a line. -/
def Sys2Proof.Machine.L1Line.bytes (l : L1Line) (o n : Nat) : Nat :=
  (List.range n).foldr (fun i v => lineByte l.data (o + i) + 256 * v) 0

/-- 05 R102, 10 R202, 07 R129: a scalar load whose bytes stand readable in one line of the unit's L1D writes rd with their value, sign- or
zero-extended and poisoned when one of them is, and leaves nothing outstanding. -/
def Obligations.LoadHit : Prop :=
  ∀ (s : State) (i : BitVec 12) (a : BitVec 5) (f : BitVec 3) (d : BitVec 5) (q : LaneReq) (p : Piece) (l : L1Line) (r : LoadRow),
    s.loadRow (.load i a f d) = some r → s.canIssue (.load i a f d) = true → s.loadsGo r → s.issue = [0] → r.xl.ok = [(q, [p])] →
    q.lane = 0 → q.n = (loadSize f).1 → p.off = 0 → p.n = (loadSize f).1 → p.at_.home = .cached →
    s.l1Line (unitOf s.here) (p.at_.loc / 128) = some l →
    (∀ j, j < p.n → l.readable (p.at_.loc % 128 + j) = true) → s.keyOf s.own.uid = some s.here →
    ∃ t, exec (.load i a f d) s = .next t ∧ (t.ctx s.here).cnt = s.own.cnt
      ∧ ((t.ctx s.here).lane 0).rx d.toNat = if d = 0#5 then Reg.zero else
          { v := extendLoad (loadSize f).2 (loadSize f).1 (l.bytes (p.at_.loc % 128) (loadSize f).1),
            p := (List.range (loadSize f).1).any fun j => l.poison.getLsbD (p.at_.loc % 128 + j) }

/-- A store instruction with its lanes translated: the register that addresses it, the stores, whether it is a release store (11 R219). -/
structure Sys2Proof.Machine.StoreRow where
  a : BitVec 5
  sts : List LaneSt'
  xl : LaneXl
  rel : Option Nat

/-- The stores of 10 R202, 11 R219 and 13 R281. -/
def Sys2Proof.Machine.State.storeRow (s : State) : Instr → Option StoreRow
  | .store j b a f k =>
    let sts := s.own.stores s.issue a.toNat (storeOff j k) (2 ^ f.toNat) 0 b.toNat fun l => l.rx b.toNat
    some ⟨a, sts, s.xlatLanes s.here 1 s.own (sts.map (·.req)), none⟩
  | .fpStore j b a f k =>
    let sts := s.own.stores s.issue a.toNat (storeOff j k) (if f = 1#1 then 8 else 4) 1 b.toNat fun l => l.rf b.toNat
    some ⟨a, sts, s.xlatLanes s.here 1 s.own (sts.map (·.req)), none⟩
  | .stRel z sc b a =>
    let sts := s.own.stores s.issue a.toNat 0 (2 ^ z.toNat) 0 b.toNat fun l => l.rx b.toNat
    some ⟨a, sts, s.xlatAligned s.here 1 6 s.own (sts.map (·.req)), some sc.toNat⟩
  | .vsW i b a j =>
    let sts := (s.own.requests s.issue a.toNat (storeOff i j) 32 4).map fun r =>
      ({ req := r, data := (s.own.rw b.toNat).v.toNat, poison := (s.own.rw b.toNat).bytePoison, file := 2, reg := b.toNat } : LaneSt')
    some ⟨a, sts, s.xlatAligned s.here 1 6 s.own (sts.map (·.req)), none⟩
  | _ => none

/-- The stores of a row with the pieces that their addresses translate to. -/
def Sys2Proof.Machine.StoreRow.placed (r : StoreRow) : List (LaneSt' × List Piece) :=
  r.xl.ok.filterMap fun e => (r.sts.find? fun x => x.req == e.1).map fun x => (x, e.2)

/-- Nothing holds the stores of a row back: no poisoned address, every lane translates and is permitted, none is sealed or a denied
register, no poisoned byte goes to the host, the store queue and the `st` counter have room, no other set's region holds a line, and a
release store's release is performed. -/
def Sys2Proof.Machine.State.storesGo (s : State) (r : StoreRow) : Prop :=
  s.cleanX r.a = true ∧ s.own.region = none ∧ r.xl.clean ∧ (∀ e, e ∈ r.xl.ok → s.storeCheck s.here e.1 e.2 = none)
  ∧ (∀ e, e ∈ r.placed → hostPoison r.rel.isSome e.1 e.2 = false) ∧ s.queueFull (unitOf s.here) = false
  ∧ s.leasedAway s.here (r.placed.flatMap (·.2)) = false ∧ s.own.counterFull .st = false
  ∧ ∀ sc, r.rel = some sc → s.released s.here sc = true

/-- 10 R202, 11 R219, R221, 13 R281: a store that nothing holds back puts its bytes into the unit's store queue and retires. -/
def Sys2Proof.Machine.storesComplete : Prop :=
  ∀ (s : State) (i : Instr) (r : StoreRow), s.storeRow i = some r → s.canIssue i = true → s.storesGo r →
    exec i s = .next ((s.enqueue s.here r.rel.isSome r.rel.isSome r.placed).retire s.here s.issue)

/-- What a queue entry stores, and where. -/
def Sys2Proof.Machine.SqEnt.what (e : SqEnt) : Nat × Nat × BitVec 64 × BitVec 8 × Home := (e.loc, e.n, e.data, e.poison, e.home)

/-- The frame of the stores: the queue of the unit gains exactly the stored bytes at the locations that the addresses translate to, as
pieces of at most 8 bytes; no register and no byte of memory changes, and every other context stays (stores to device registers, which
act at once, apart). -/
def Obligations.StoresFrame : Prop :=
  ∀ (s t : State) (i : Instr) (r : StoreRow), s.storeRow i = some r → s.canIssue i = true → s.storesGo r →
    (∀ e, e ∈ r.placed → ∀ p, p ∈ e.2 → p.at_.home ≠ .device) → exec i s = .next t →
    (∀ a, t.byte a = s.byte a ∧ t.bytePoison a = s.bytePoison a)
    ∧ ((Tbl.get [] t.storeQ (unitOf s.here)).map (·.what)
      = (Tbl.get [] s.storeQ (unitOf s.here)).map (·.what)
        ++ (r.placed.flatMap fun e => e.2.flatMap fun p => storeEntries 0 0 false false e.1 p).map (·.what))
    ∧ (∀ l, l ∈ s.issue → (t.ctx s.here).lane l = { s.own.lane l with pc := (s.own.lane l).pc + 4 })
    ∧ (∀ l, l ∉ s.issue → (t.ctx s.here).lane l = s.own.lane l)
    ∧ (t.ctx s.here).w = s.own.w ∧ (t.ctx s.here).csr = { s.own.csr with instret := s.own.csr.instret + 1 }
    ∧ ∀ k, k ≠ s.here → t.ctx k = s.ctx k

/-! ## Atomics, reductions and future words -/

/-- An instruction of atomics with its lanes: 11 R216, R224 to R228. -/
structure Sys2Proof.Machine.AtomRow where
  a : BitVec 5
  op : TagOp
  n : Nat
  path : Path
  ats : List LaneAt
  dst : Option Dst
  rl : Bool
  aq : Bool
  check : LaneReq → List Piece → Option (Nat × Word)

/-- The atomics, the reductions and the posted future operations. -/
def Sys2Proof.Machine.State.atomRow (s : State) : Instr → Option AtomRow
  | .amoW o q l b a d =>
    let dst := Dst.x d.toNat 4 true
    some ⟨a, .amo o.toNat, 4, .ld, s.own.atomics s.issue a 4 (fun x => x.rx b.toNat) (fun _ => Reg.zero) (some dst), some dst, l = 1#1,
      q = 1#1, s.atomicCheck (.amo o.toNat) false⟩
  | .amoD o q l b a d =>
    let dst := Dst.x d.toNat 8 true
    some ⟨a, .amo o.toNat, 8, .ld, s.own.atomics s.issue a 8 (fun x => x.rx b.toNat) (fun _ => Reg.zero) (some dst), some dst, l = 1#1,
      q = 1#1, s.atomicCheck (.amo o.toNat) false⟩
  | .amoFaddF32 q l b a d =>
    let dst := Dst.f d.toNat 4
    some ⟨a, .fadd false, 4, .ld, s.own.atomics s.issue a 4 (fun x => x.f32Reg b) (fun _ => Reg.zero) (some dst), some dst, l = 1#1,
      q = 1#1, s.atomicCheck (.fadd false) false⟩
  | .amoFaddBf16 q l b a d =>
    let dst := Dst.f d.toNat 2
    some ⟨a, .fadd true, 2, .ld, s.own.atomics s.issue a 2 (fun x => x.rf b.toNat) (fun _ => Reg.zero) (some dst), some dst, l = 1#1,
      q = 1#1, s.atomicCheck (.fadd true) false⟩
  | .amoCasW c b a d =>
    let dst := Dst.x d.toNat 4 true
    some ⟨a, .cas, 4, .ld, s.own.atomics s.issue a 4 (fun x => x.rx c.toNat) (fun x => x.rx b.toNat) (some dst), some dst, true, true,
      s.atomicCheck .cas false⟩
  | .amoCasD c b a d =>
    let dst := Dst.x d.toNat 8 true
    some ⟨a, .cas, 8, .ld, s.own.atomics s.issue a 8 (fun x => x.rx c.toNat) (fun x => x.rx b.toNat) (some dst), some dst, true, true,
      s.atomicCheck .cas false⟩
  | .red o t b a =>
    some ⟨a, .red o.toNat t.toNat, redBytes t.toNat, .st,
      s.own.atomics s.issue a (redBytes t.toNat) (fun x => x.redValue t.toNat b) (fun _ => Reg.zero) none, none, false, false,
      fun r ps => (redAlign t.toNat r ps).or (s.atomicCheck (.red o.toNat t.toNat) true r ps)⟩
  | .fst b a =>
    some ⟨a, .fst, 4, .st, s.own.atomics s.issue a 4 (fun x => x.rx b.toNat) (fun _ => Reg.zero) none, none, true, false, futureCheck false⟩
  | .fstD b a =>
    some ⟨a, .fst, 8, .st, s.own.atomics s.issue a 8 (fun x => x.rx b.toNat) (fun _ => Reg.zero) none, none, true, false, futureCheck false⟩
  | .frst a => some ⟨a, .frst, 4, .st, s.own.atomics s.issue a 4 (fun _ => Reg.zero) (fun _ => Reg.zero) none, none, false, false, futureCheck false⟩
  | .frstD a => some ⟨a, .frst, 8, .st, s.own.atomics s.issue a 8 (fun _ => Reg.zero) (fun _ => Reg.zero) none, none, false, false, futureCheck false⟩
  | _ => none

/-- The translation of a row's lanes: natural alignment, as accesses that modify memory. -/
def Sys2Proof.Machine.State.atomXl (s : State) (r : AtomRow) : LaneXl := s.xlatAligned s.here 1 6 s.own (r.ats.map (·.req))

/-- Nothing holds the atomics of a row back; no poisoned operand would go to the host window (07 R130). -/
def Sys2Proof.Machine.State.atomsGo (s : State) (r : AtomRow) : Prop :=
  s.cleanX r.a = true ∧ (s.atomXl r).clean ∧ (∀ e, e ∈ (s.atomXl r).ok → r.check e.1 e.2 = none)
  ∧ s.queuedOverlap s.here (s.atomXl r).allPieces = false ∧ s.leasedAway s.here (s.atomXl r).allPieces = false
  ∧ s.own.counterFull r.path = false ∧ s.own.tagsFull (s.atomXl r).allPieces.length = false
  ∧ (r.rl = true → s.released s.here (s.coverAll (s.atomXl r)) = true)
  ∧ ∀ e, e ∈ (s.atomXl r).ok → hostPoisoned r.ats 0#5 0#5 e.1 e.2 = none

/-- 11 R216, R217, R224 to R228: an atomic that nothing holds back retires and starts one operation for each worker, counted as one on
`ld`, or on `st` for the forms without a result; a helper lane's destination receives 0; an acquire at the covering scope follows where
the form asks for one. -/
def Sys2Proof.Machine.atomicsComplete : Prop :=
  ∀ (s : State) (i : Instr) (r : AtomRow), s.atomRow i = some r → s.canIssue i = true → s.atomsGo r →
    exec i s = .next (s.startAtomics s.here s.issue r.op r.n r.path r.ats
      (if r.aq then some (s.coverAll (s.atomXl r)) else none) (s.atomXl r) fun c => c.zeroHelpers s.issue r.dst)

/-- A future load with its width (03 R65; 11 R228). -/
def Sys2Proof.Machine.Instr.futureRow : Instr → Option (BitVec 5 × BitVec 5 × Nat)
  | .fld a d => some (a, d, 4)
  | .fldD a d => some (a, d, 8)
  | _ => none

/-- 03 R65, R66, 11 R228: a future load first sends its requests and waits; when every lane's word has come, it retires. -/
def Sys2Proof.Machine.futureLoadsComplete : Prop :=
  ∀ (s : State) (i : Instr) (a d : BitVec 5) (n : Nat), Instr.futureRow i = some (a, d, n) → s.canIssue i = true →
    (s.own.phase = 1 → s.own.block = none → exec i s = .next (s.retire s.here s.issue))
    ∧ (s.own.phase ≠ 1 → s.cleanX a = true →
        let x := s.xlatAligned s.here 0 4 s.own (s.own.requests s.issue a.toNat 0 n n)
        x.clean → (∀ e, e ∈ x.ok → futureCheck true e.1 e.2 = none) → s.queuedOverlap s.here (x.ok.flatMap (·.2)) = false →
        s.own.counterFull .ld = false → s.own.tagsFull x.ok.length = false → exec i s = .next (s.startFuture s.here s.issue x d.toNat n))

/-- Loads, stores, atomics and future loads that nothing holds back. -/
def Obligations.MemoryInstructionsComplete : Prop := loadsComplete ∧ storesComplete ∧ atomicsComplete ∧ futureLoadsComplete

/-- What an atomic does to storage: it returns the old value, writes the new value over exactly its bytes where there is one, and leaves
every other byte (11 R224 to R227); a lost or poisoned line answers poison and keeps its bytes (03 R70). -/
def Obligations.AtomicAtHome : Prop :=
  ∀ (s : State) (op : TagOp) (a n : Nat) (v c : Reg),
    let t := (s.atomicAt op a n v c).1
    let r := (s.atomicAt op a n v c).2
    (∀ b, b < a ∨ a + n ≤ b → t.byte b = s.byte b ∧ t.bytePoison b = s.bytePoison b)
    ∧ ((s.mark (a / 128) = .clean ∨ isWindowLoc a = true) →
        r.v = BitVec.ofNat 64 (s.value a n) ∧ r.p = s.anyPoison a n
        ∧ t.value a n = match newValue op n (s.value a n) v c with
            | some x => x % 256 ^ n
            | none => s.value a n)
    ∧ (s.mark (a / 128) ≠ .clean → isWindowLoc a = false → t = s ∧ r = { v := 0, p := true })
    ∧ t = { s with mem := t.mem, memPoison := t.memPoison }

/-! ## Traps and returns -/

/-- Two states differ in the context at one place alone. -/
def Sys2Proof.Machine.OnlyAt (k : Nat) (s t : State) : Prop := t = { s with ctxs := t.ctxs } ∧ ∀ j, j ≠ k → t.ctx j = s.ctx j

/-- A context that waits for nothing, holds no lease and runs no handler task. -/
def Sys2Proof.Machine.Ctx.quiet (c : Ctx) : Prop := c.block = none ∧ c.lease = .idle ∧ c.task = none

/-- The bits of `mstatus` after an entry into S or M mode: the enable is saved and cleared, the mode is saved, and no other bit
changes. -/
def Sys2Proof.Machine.statusEntered (old new : Word) (toS : Bool) (mode : Mode) : Prop :=
  if toS then
    new.getLsbD 5 = old.getLsbD 1 ∧ new.getLsbD 1 = false ∧ new.getLsbD 8 = (mode != .u)
      ∧ ∀ b, b ≠ 1 → b ≠ 5 → b ≠ 8 → new.getLsbD b = old.getLsbD b
  else
    new.getLsbD 7 = old.getLsbD 3 ∧ new.getLsbD 3 = false ∧ (bits 11 2 new).toNat = mode.code
      ∧ ∀ b, b ≠ 3 → b ≠ 7 → b ≠ 11 → b ≠ 12 → new.getLsbD b = old.getLsbD b

/-- A context `d` that has entered the trap handler of S or M mode from `c`: the saved registers, the mode and status, the lanes of the
trap at the handler's address, and every other runnable lane parked (15 R314 to R316). -/
def Sys2Proof.Machine.Entered (c d : Ctx) (k : Nat) (toS : Bool) (cause tval epc : Word) (ls : List Nat) : Prop :=
  statusEntered c.csr.mstatus d.csr.mstatus toS c.mode
  ∧ (if toS then
      d.mode = .s ∧ d.csr = { c.csr with mstatus := d.csr.mstatus, sepc := epc, scause := cause, stval := tval, sfmask := laneMask k ls }
    else
      d.mode = .m ∧ d.csr = { c.csr with mstatus := d.csr.mstatus, mepc := epc, mcause := cause, mtval := tval, mfmask := laneMask k ls })
  ∧ d.depth = c.depth + 1
  ∧ (∀ l, l ∈ ls → d.lane l = { c.lane l with pc := (if toS then c.csr.stvec else c.csr.mtvec) &&& ~~~3#64 })
  ∧ ∀ l, l ∉ ls → d.lane l = if (c.lane l).st = .runnable then { c.lane l with st := .trap, depth := c.depth + 1 } else c.lane l

/-- An exception goes to S mode: it is raised below M mode, its `medeleg` bit is set, and it is not REGMISS (15 R315). -/
def Sys2Proof.Machine.Ctx.toS (c : Ctx) (cause : Nat) : Bool := c.mode != .m && cause != 31 && c.csr.medeleg.getLsbD cause

/-- 15 R314 to R316, 18 R365, R366: an exception of the context that issues enters the handler of the mode that `medeleg` selects: `epc` is
the PC of the issue, the cause and `tval` are as raised, the executing lanes that are not helpers (all of them, where each is a helper) go
to the trap vector, and nothing outside the context changes. The context waits for nothing, also for no `sfence.vma`, holds no lease and runs no
handler task, and none of its requests has failed. -/
def Obligations.TrapEntryEnters : Prop :=
  ∀ (s : State) (cause : Nat) (tval : BitVec 64), s.own.status = .resident → s.issue ≠ [] → s.own.wfi = false → s.own.flushWait = false →
    s.own.crossed = false → s.own.quiet → s.own.remote = [] → s.shootOf s.own.uid = none →
    ∃ t, exec (.trapEntry cause tval) s = .next t ∧ OnlyAt s.here s t
      ∧ Entered s.own (t.ctx s.here) s.here (s.own.toS cause) (BitVec.ofNat 64 cause) tval s.own.nextPc
          (s.own.trapLanes s.issue)

/-- The context at the current place issues, and every executing lane is a helper. -/
def Sys2Proof.Machine.State.onlyHelpers (s : State) : Bool :=
  let c := s.own
  c.status == .resident && !s.issue.isEmpty && (c.workers s.issue).isEmpty && !c.wfi && !c.flushWait && !c.crossed
    && c.remote.isEmpty && !c.expired (s.now s.here) && (c.block.isNone || c.phase != 0)

/-- 10 R206: `ecall` raises cause 8, 9 or 11 by the mode with `tval` 0, `ebreak` raises cause 3 with `tval` its PC, and `epc` holds the
instruction's PC; the trap is taken once, and its fault mask names the executing lanes that are not helpers. 11 R449: where there is
no such lane, every instruction that acts once for a wave retires as a no-op. -/
def Obligations.EnvironmentCalls : Prop :=
  ∀ (s : State), s.own.quiet →
    (s.canIssue .ecall = true → s.own.workers s.issue ≠ [] → ∃ t, exec .ecall s = .next t ∧ OnlyAt s.here s t ∧
      let cause := match s.own.mode with
        | .u => 8
        | .s => 9
        | .m => 11
      Entered s.own (t.ctx s.here) s.here (s.own.toS cause) (BitVec.ofNat 64 cause) 0 s.own.nextPc (s.own.workers s.issue))
    ∧ (s.canIssue .ebreak = true → s.own.workers s.issue ≠ [] → ∃ t, exec .ebreak s = .next t ∧ OnlyAt s.here s t ∧
      Entered s.own (t.ctx s.here) s.here (s.own.toS 3) 3 s.own.nextPc s.own.nextPc (s.own.workers s.issue))
    ∧ (∀ i, Instr.once i = true → s.onlyHelpers = true →
      ∃ t, exec i s = .next t ∧ OnlyAt s.here s t ∧ OnlyLanes s.own (t.ctx s.here) s.issue
        ∧ ∀ l, l ∈ s.issue → (t.ctx s.here).lane l = { s.own.lane l with pc := (s.own.lane l).pc + 4 })

/-- The delegation of an interrupt: pre-emption goes to S mode, a machine check to M mode, the others by `mideleg` (15 R315). -/
def Sys2Proof.Machine.Ctx.irqToS (c : Ctx) (code : Nat) : Bool :=
  c.mode != .m && (code == 21 || (code != 20 && c.csr.mideleg.getLsbD code))

/-- 18 R367, R368, R377, R380: an interrupt that is due at the boundary enters its handler with the lanes of the next issue, the PC of that
issue in `epc` and the interrupt bit in the cause: a standard interrupt, the pre-emption interrupt, and a machine check with the
sequence number of its record in `tval`, after which no machine check is pending. -/
def Sys2Proof.Machine.interruptsEnter : Prop :=
  ∀ (s : State) (p : Place), (s.ctx p.key).quiet →
    (∀ code, s.boundaryEvent p = some (.interruptTaken p code) → ∃ t, exec (.interruptTaken p code) s = .next t ∧ OnlyAt p.key s t
      ∧ Entered (s.ctx p.key) (t.ctx p.key) p.key ((s.ctx p.key).irqToS code) (BitVec.ofNat 64 (code + 2 ^ 63)) 0 (s.ctx p.key).nextPc
          (s.ctx p.key).executing)
    ∧ (s.boundaryEvent p = some (.preemptionInterrupt p) → ∃ t, exec (.preemptionInterrupt p) s = .next t ∧ OnlyAt p.key s t
      ∧ Entered (s.ctx p.key) (t.ctx p.key) p.key ((s.ctx p.key).irqToS 21) (BitVec.ofNat 64 (21 + 2 ^ 63)) 0 (s.ctx p.key).nextPc
          (s.ctx p.key).executing
      ∧ (t.ctx p.key).preTaken = true)
    ∧ (s.boundaryEvent p = some (.machineCheck p) → (s.ctx p.key).mcBusy = none → (s.ctx p.key).mcTwice = false →
      ∃ t, exec (.machineCheck p) s = .next t
      ∧ OnlyAt p.key s t
      ∧ Entered (s.ctx p.key) (t.ctx p.key) p.key false (BitVec.ofNat 64 (20 + 2 ^ 63)) (zext ((s.ctx p.key).mcPend.getD 0))
          (s.ctx p.key).nextPc (s.ctx p.key).executing
      ∧ (t.ctx p.key).mcPend = none ∧ (t.ctx p.key).mcBusy = some ((s.ctx p.key).depth + 1))

/-- 18 R374, R375: a deferred trap that is due at the boundary of a context with lanes enters the handler: cause 27 with the number of
records, cause 26 with FILE 3 and REG 0; its pending flag falls. -/
def Sys2Proof.Machine.deferredTrapsEnter : Prop :=
  ∀ (s : State) (p : Place), (s.ctx p.key).quiet → (s.ctx p.key).idleHandler p.key = false →
    (s.boundaryEvent p = some (.deferredWrite p) → ∃ t, exec (.deferredWrite p) s = .next t ∧ OnlyAt p.key s t
      ∧ Entered (s.ctx p.key) (t.ctx p.key) p.key ((s.ctx p.key).toS 27) 27 (BitVec.ofNat 64 (s.ctx p.key).faultQ.length)
          (s.ctx p.key).nextPc (s.ctx p.key).executing
      ∧ (t.ctx p.key).pendDw = false)
    ∧ (s.boundaryEvent p = some (.poisonExport p) → ∃ t, exec (.poisonExport p) s = .next t ∧ OnlyAt p.key s t
      ∧ Entered (s.ctx p.key) (t.ctx p.key) p.key ((s.ctx p.key).toS 26) 26 96 (s.ctx p.key).nextPc (s.ctx p.key).executing
      ∧ (t.ctx p.key).pendPx = false)

/-- What a boundary takes: interrupts and deferred traps. -/
def Obligations.PendingTrapsEnter : Prop := interruptsEnter ∧ deferredTrapsEnter

/-- 15 R319, 04 R89: a user interrupt that is due enters the handler of the transfer: `uepc`, `ucause` 1, `uxid`; the executing lanes go to the
handler and the others are parked, and no Valid copy of a covered line stays in the L1D of the unit (04 R87); `uiret` returns to
`uepc`. -/
def Obligations.UserInterrupts : Prop :=
  (∀ (s : State) (p : Place) (id : BitVec 16) (hdl : Word) (r : List (BitVec 16 × Word)),
    s.boundaryEvent p = some (.userInterrupt p) → (s.ctx p.key).block = none → (s.ctx p.key).uPend = (id, hdl) :: r →
    (s.ctx p.key).lease = .idle →
    ∃ t, exec (.userInterrupt p) s = .next t ∧ t = { s with ctxs := t.ctxs, l1d := t.l1d, net := t.net }
      ∧ (∀ j, j ≠ p.key → t.ctx j = s.ctx j)
      ∧ (∀ l, l ∈ t.l1 (unitOf p.key) → l.st = .valid →
          s.covers (dieOfUnit (unitOf p.key)) (s.copyScope (s.ctx p.key).uid) (l.line * 128) = false)
      ∧ (t.ctx p.key).csr =
        { (s.ctx p.key).csr with uepc := (s.ctx p.key).nextPc, ucause := 1, uxid := zext id }
      ∧ (t.ctx p.key).inUser = true ∧ (t.ctx p.key).uPend = r ∧ (t.ctx p.key).mode = (s.ctx p.key).mode
      ∧ (∀ l, l ∈ (s.ctx p.key).executing → (t.ctx p.key).lane l = { (s.ctx p.key).lane l with pc := hdl })
      ∧ ∀ l, l ∉ (s.ctx p.key).executing → (t.ctx p.key).lane l =
          if ((s.ctx p.key).lane l).st = .runnable then { (s.ctx p.key).lane l with st := .uint } else (s.ctx p.key).lane l)
  ∧ ∀ (s : State), s.canIssue .uiret = true →
      ∃ t, exec .uiret s = .next t ∧ OnlyAt s.here s t ∧ (t.ctx s.here).inUser = false
        ∧ (t.ctx s.here).csr = { s.own.csr with instret := s.own.csr.instret + 1 } ∧ (t.ctx s.here).mode = s.own.mode
        ∧ (∀ l, l ∈ s.issue → (t.ctx s.here).lane l = { s.own.lane l with pc := s.own.csr.uepc })
        ∧ ∀ l, l ∉ s.issue → (t.ctx s.here).lane l =
            if (s.own.lane l).st = .uint then { s.own.lane l with st := .runnable } else s.own.lane l

/-- The bits of `mstatus` after a return: the saved enable comes back and reads 1, the saved mode reads U, and MPRV is cleared when the
new mode is not M; no other bit changes (15 R316). -/
def Sys2Proof.Machine.statusLeft (old new : Word) (fromS : Bool) (mode : Mode) : Prop :=
  (if fromS then
    new.getLsbD 1 = old.getLsbD 5 ∧ new.getLsbD 5 = true ∧ new.getLsbD 8 = false
      ∧ ∀ b, b ≠ 1 → b ≠ 5 → b ≠ 8 → b ≠ 17 → new.getLsbD b = old.getLsbD b
  else
    new.getLsbD 3 = old.getLsbD 7 ∧ new.getLsbD 7 = true ∧ new.getLsbD 11 = false ∧ new.getLsbD 12 = false
      ∧ ∀ b, b ≠ 3 → b ≠ 7 → b ≠ 11 → b ≠ 12 → b ≠ 17 → new.getLsbD b = old.getLsbD b)
  ∧ new.getLsbD 17 = (old.getLsbD 17 && mode == .m)

/-- 15 R316: `mret` and `sret` restore the mode and the status, send the handler's lanes to `mepc` or `sepc`, and let the lanes that the trap
parked issue again. The context is no handler set. -/
def Obligations.ReturnsRestore : Prop :=
  ∀ (s : State) (fromS : Bool), let i := if fromS then Instr.sret else .mret
    s.canIssue i = true → s.own.aborted = none → isHandler s.here = false →
    ∃ t, exec i s = .next t ∧ OnlyAt s.here s t
      ∧ (t.ctx s.here).mode = (if fromS then (if s.own.csr.mstatus.getLsbD 8 then .s else .u)
          else Mode.ofCode (bits 11 2 s.own.csr.mstatus).toNat)
      ∧ statusLeft s.own.csr.mstatus (t.ctx s.here).csr.mstatus fromS (t.ctx s.here).mode
      ∧ (t.ctx s.here).csr = { s.own.csr with mstatus := (t.ctx s.here).csr.mstatus, instret := s.own.csr.instret + 1 }
      ∧ ∀ l, (t.ctx s.here).lane l =
          let x := s.own.lane l
          if x.st = .runnable then { x with pc := if fromS then s.own.csr.sepc else s.own.csr.mepc }
          else if x.st = .trap ∧ x.depth = s.own.depth then { x with st := .runnable, depth := 0 } else x

/-- 15 R317: `wfi` retires and the context leaves issue, but for the handler set, where it is a no-op; a context that waits may wake without a
cause. -/
def Obligations.WfiWaitsAndWakes : Prop :=
  (∀ (s : State), s.canIssue .wfi = true → ∃ t, exec .wfi s = .next t ∧ OnlyAt s.here s t
    ∧ (t.ctx s.here).wfi = !isHandler s.here
    ∧ OnlyLanes s.own { t.ctx s.here with wfi := false } s.issue
    ∧ ∀ l, l ∈ s.issue → (t.ctx s.here).lane l = { s.own.lane l with pc := (s.own.lane l).pc + 4 })
  ∧ ∀ (s : State) (p : Place), ∃ t, exec (.wfiWakeWithoutCause p) s = .next t ∧ OnlyAt p.key s t
      ∧ t.ctx p.key = { s.ctx p.key with wfi := false }

/-! ## Control and status registers -/

/-- A Zicsr instruction: the CSR, the kind (0 write, 1 set, 2 clear), the source, whether it writes, and rd (10 R207). -/
def Sys2Proof.Machine.Instr.csrRow : Instr → Option (Nat × Nat × CsrSrc × Bool × BitVec 5)
  | .csrrw n a d => some (n.toNat, 0, .reg a, true, d)
  | .csrrs n a d => some (n.toNat, 1, .reg a, a != 0#5, d)
  | .csrrc n a d => some (n.toNat, 2, .reg a, a != 0#5, d)
  | .csrrwi n u d => some (n.toNat, 0, .imm u, true, d)
  | .csrrsi n u d => some (n.toNat, 1, .imm u, u != 0#5, d)
  | .csrrci n u d => some (n.toNat, 2, .imm u, u != 0#5, d)
  | _ => none

/-- A CSR whose read and write act on the context's own registers alone. -/
def Sys2Proof.Machine.plainCsr (n : Nat) : Bool := 4 ≤ n && !([0xCC0, 0x5C1, 0x5C3, 0x5C4, 0x5C5, 0x808] : List Nat).contains n

/-- 10 R207, 15 R313 to R318: a Zicsr instruction on a plain CSR gives every executing lane the old value in rd, and, where it writes, the
register receives the new value of the lead lane's source: as it is, or with bits set or cleared; the read-only fields stay. -/
def Sys2Proof.Machine.csrAccesses : Prop :=
  ∀ (s : State) (i : Instr) (n kind : Nat) (x : CsrSrc) (write : Bool) (d : BitVec 5) (l : Nat),
    Instr.csrRow i = some (n, kind, x, write, d) → plainCsr n = true → s.canIssue i = true → s.own.lead s.issue = some l →
    (x.val (s.own.lane l)).p = false →
    ∃ t, exec i s = .next t ∧ OnlyAt s.here s t
      ∧ (let old := { s.own.csr with instret := s.own.csr.instret + 1 }
         let v := csrNew kind (s.readCsr s.here s.own l n) (x.val (s.own.lane l)).v
         (t.ctx s.here).csr = (if write then old.write (isWave s.here) s.own.sMask n v else old)
         ∧ (t.ctx s.here).copy = if write then s.own.copy.write n v else s.own.copy)
      ∧ (∀ m, m ∉ s.issue → (t.ctx s.here).lane m = s.own.lane m)
      ∧ ∀ m, m ∈ s.issue →
          ((t.ctx s.here).lane m).pc = (s.own.lane m).pc + 4
          ∧ ((t.ctx s.here).lane m).rx d.toNat = (if d = 0#5 then Reg.zero else Reg.of (s.readCsr s.here s.own m n) false)
          ∧ (∀ r, r ≠ d.toNat → ((t.ctx s.here).lane m).rx r = (s.own.lane m).rx r) ∧ ((t.ctx s.here).lane m).f = (s.own.lane m).f

/-- What a CSR reads after a write of `v`: the bits of `v` that the register implements, with its fixed bits (02 R33; 10 R209; 15 R313 to R315,
R318; 04 R73; 07 R143). `satp` with a MODE that it does not implement, and the interrupt registers, have clauses of their own. -/
def Sys2Proof.Machine.readsBack (wave : Bool) (n : Nat) (v : Word) : Option Word :=
  if n ∈ [0x140, 0x142, 0x143, 0x340, 0x342, 0x343, 0x800, 0x801, 0x802, 0x803, 0x804, 0x806, 0x807, 0x809, 0x842, 0xB02] then some v
  else if n ∈ [0x105, 0x141, 0x305, 0x341, 0x840] then some (v &&& ~~~3#64)
  else if n ∈ [0x106, 0x306] then some (v &&& 7#64)
  else if n ∈ [0x5C0, 0x7C0] then some (if wave then v else 0)
  else match n with
    | 0x100 => some ((v &&& 0xC0122#64) ||| 0x8000000200006000#64)
    | 0x180 => if v.toNat / 2 ^ 60 = 0 ∨ v.toNat / 2 ^ 60 = 14 then some (v &&& ~~~0xF0000000000#64) else none
    | 0x300 => if v.toNat / 2048 % 4 = 2 then none else some ((v &&& 0x7E19AA#64) ||| 0x8000000A00006000#64)
    | 0x302 => some (v &&& 0x100007F00B3FF#64)
    | 0x303 => some ((v &&& 0x222#64) ||| 0x200000#64)
    | 0x304 => some (v &&& 0x300AAA#64)
    | 0x805 => some (v &&& ~~~0xFFFC000#64)
    | 0x841 => some (v &&& 0xFF#64)
    | _ => none

/-- A CSR that a Zicsr instruction may write without effect: `sctxid`, `saccst`, `mcycle`, `mtime`, and the counters and events that read 0.
CSR 0xB01 as `mtime`, which ignores writes, is the model's choice (PRESUMED, L54). -/
def Sys2Proof.Machine.ignoresWrites (n : Nat) : Bool :=
  ([0x5C2, 0x5C6, 0xB00, 0xB01] : List Nat).contains n || (0x323 ≤ n && n ≤ 0x33F) || (0xB03 ≤ n && n ≤ 0xB1F)

/-- 02 R33, 10 R208, 15 R313 to R318: after a Zicsr instruction has written a CSR, the CSR reads the written value with its fixed and reserved
fields as the rules give them, `satp` stays whole under a MODE other than 0 and 14, and `mie` as S mode sees it takes the delegated
bits; a write to a CSR that ignores writes changes none of the context's registers but `instret`. Three of these are the model's reading or
choice, not the spec's words: a write of MPP = 2 to `mstatus` still writes the other fields (L9), `mideleg` keeps bits 1, 5, 9 and
21 (mask 0x222 with bit 21, L20), and CSR 0xB01 is `mtime` (L54). -/
def Sys2Proof.Machine.csrsReadBack : Prop :=
  ∀ (s : State) (i : Instr) (n kind : Nat) (x : CsrSrc) (d : BitVec 5) (l m : Nat),
    Instr.csrRow i = some (n, kind, x, true, d) → plainCsr n = true → s.canIssue i = true → s.own.lead s.issue = some l →
    (x.val (s.own.lane l)).p = false →
    ∃ t, exec i s = .next t ∧
      let v := csrNew kind (s.readCsr s.here s.own l n) (x.val (s.own.lane l)).v
      let r := t.readCsr s.here (t.ctx s.here) m n
      (∀ w, readsBack (isWave s.here) n v = some w → r = w)
      ∧ (n = 0x180 → v.toNat / 2 ^ 60 ≠ 0 → v.toNat / 2 ^ 60 ≠ 14 → r = s.own.csr.satp)
      ∧ (n = 0x300 → v.toNat / 2048 % 4 = 2 → r &&& ~~~0x1800#64 = (v &&& 0x7E01AA#64) ||| 0x8000000A00006000#64)
      ∧ (n = 0x104 → r &&& 0x300AAA#64 = v &&& (s.own.csr.mideleg ||| 0x200000#64) &&& 0x300AAA#64)
      ∧ (n = 0x344 → r &&& 0x222#64 = v &&& 0x222#64)
      ∧ (n = 0x144 → s.own.csr.mideleg.getLsbD 1 = true → r.getLsbD 1 = v.getLsbD 1)
      ∧ (ignoresWrites n = true → (t.ctx s.here).csr = { s.own.csr with instret := s.own.csr.instret + 1 }
          ∧ (t.ctx s.here).copy = s.own.copy)

/-- The Zicsr instructions: what they write and read, and what a register then reads, with the model's choices of L9, L20 and L54. -/
def Obligations.CsrInstructions : Prop := csrAccesses ∧ csrsReadBack

/-- 07 R126, 10 R207, R209: `fflags`, `frm` and `fcsr` are each lane's own: every executing lane reads its old value into rd and writes its
own field, unless its source is poisoned in a helper lane. -/
def Obligations.FcsrPerLane : Prop :=
  ∀ (s : State) (i : Instr) (n kind : Nat) (x : CsrSrc) (write : Bool) (d : BitVec 5),
    Instr.csrRow i = some (n, kind, x, write, d) → n ≤ 3 → s.canIssue i = true →
    (write = true → s.own.poisoned s.issue x.regNo = []) →
    ∃ t, exec i s = .next t ∧ OnlyAt s.here s t ∧ OnlyLanes s.own (t.ctx s.here) s.issue ∧ ∀ m, m ∈ s.issue →
      let a := s.own.lane m
      let b := (t.ctx s.here).lane m
      let v := x.val a
      b.pc = a.pc + 4 ∧ b.rx d.toNat = (if d = 0#5 then Reg.zero else Reg.of (s.readCsr s.here s.own m n) false)
      ∧ (∀ r, r ≠ d.toNat → b.rx r = a.rx r) ∧ b.f = a.f
      ∧ b.fcsr = if write && !v.p then (a.writeFcsr n (csrNew kind (s.readCsr s.here s.own m n) v.v)).fcsr else a.fcsr

/-- 18 R374: a read of `sdwq` gives the next double of the oldest fault record and moves on, the record going after its last; `sdwn` with
RECS 0 discards every record; neither changes another record. -/
def Obligations.FaultQueueRegisters : Prop :=
  (∀ (s : State) (d : BitVec 5), s.canIssue (.sdwqRead d) = true → s.own.workers s.issue ≠ [] →
    ∃ t, exec (.sdwqRead d) s = .next t ∧ OnlyAt s.here s t
      ∧ (∀ m, m ∈ s.issue → ((t.ctx s.here).lane m).rx d.toNat = if d = 0#5 then Reg.zero else Reg.of s.own.sdwq false)
      ∧ (∀ m, m ∈ s.issue → ((t.ctx s.here).lane m).pc = (s.own.lane m).pc + 4)
      ∧ ((t.ctx s.here).faultQ, (t.ctx s.here).faultNext)
          = match s.own.faultQ with
            | [] => ([], s.own.faultNext)
            | r :: q => if s.own.faultNext = 4 then (q, 0) else (r :: q, s.own.faultNext + 1))
  ∧ ∀ (s : State), s.canIssue .sdwnDiscard = true → s.own.workers s.issue ≠ [] →
      ∃ t, exec .sdwnDiscard s = .next t ∧ OnlyAt s.here s t ∧ (t.ctx s.here).faultQ = [] ∧ (t.ctx s.here).faultNext = 0
        ∧ (t.ctx s.here).faultLost = s.own.faultLost
        ∧ ∀ m, m ∈ s.issue → (t.ctx s.here).lane m = { s.own.lane m with pc := (s.own.lane m).pc + 4 }

/-! ## Order and waiting -/

/-- An instruction that completes with no effect but its retirement: the executing lanes go to PC + 4. -/
def Sys2Proof.Machine.Retires (i : Instr) (s : State) : Prop :=
  ∃ t, exec i s = .next t ∧ OnlyAt s.here s t ∧ OnlyLanes s.own (t.ctx s.here) s.issue
    ∧ ∀ l, l ∈ s.issue → (t.ctx s.here).lane l = { s.own.lane l with pc := (s.own.lane l).pc + 4 }

/-- 10 R204, R205, 11 R220, R221, 05 R103: `fence` with an empty set is a no-op, and else, once its release is performed, leaves no Valid
line in the L1D of the unit; `fence.i` empties the unit's L1I; `waitcnt` retires once the counter is at most the register, and waits
while it is above; `fence.own` retires once no store of the context waits in the store queue. -/
def Sys2Proof.Machine.fencesComplete : Prop :=
  (∀ (s : State) (f p q : BitVec 4) (a d : BitVec 5), s.canIssue (.fence f p q a d) = true →
    ((p = 0#4 ∨ q = 0#4) → Retires (.fence f p q a d) s)
    ∧ (p ≠ 0#4 → q ≠ 0#4 → s.released s.here 5 = true → ∃ t, exec (.fence f p q a d) s = .next t ∧ t.mem = s.mem
        ∧ (∀ x, x ∈ t.l1 (unitOf s.here) → x.st = .valid → s.covers (dieOf s.here) 5 (x.line * 128) = false)
        ∧ (∀ u, u ≠ unitOf s.here → t.l1 u = s.l1 u)
        ∧ ∀ l, l ∈ s.issue → (t.ctx s.here).lane l = { s.own.lane l with pc := (s.own.lane l).pc + 4 }))
  ∧ (∀ (s : State) (i : BitVec 12) (a d : BitVec 5), s.canIssue (.fenceI i a d) = true → ∃ t, exec (.fenceI i a d) s = .next t
      ∧ t = { s with ctxs := t.ctxs, l1i := t.l1i } ∧ t.l1iLines (unitOf s.here) = []
      ∧ (∀ u, u ≠ unitOf s.here → t.l1iLines u = s.l1iLines u) ∧ OnlyLanes s.own (t.ctx s.here) s.issue
      ∧ ∀ l, l ∈ s.issue → (t.ctx s.here).lane l = { s.own.lane l with pc := (s.own.lane l).pc + 4 })
  ∧ (∀ (s : State) (a p : BitVec 5), s.canIssue (.waitcnt a p) = true → s.cleanX a = true →
      (s.own.cnt.get (pathOf p.toNat) ≤ min (s.own.firstX s.issue a.toNat).toNat 255 →
        (p.toNat ≤ 2 → Retires (.waitcnt a p) s) ∧ ∃ t, exec (.waitcnt a p) s = .next t ∧ t.mem = s.mem
          ∧ ∀ l, l ∈ s.issue → (t.ctx s.here).lane l = { s.own.lane l with pc := (s.own.lane l).pc + 4 })
      ∧ (min (s.own.firstX s.issue a.toNat).toNat 255 < s.own.cnt.get (pathOf p.toNat) → exec (.waitcnt a p) s = .next s))
  ∧ ∀ (s : State), s.canIssue .fenceOwn = true →
      if ∃ e, e ∈ Tbl.get [] s.storeQ (unitOf s.here) ∧ e.uid = s.own.uid then exec .fenceOwn s = .next s else Retires .fenceOwn s

/-- 11 R222: `fence.force` makes the issuer's own fence, then every resident context of the named unit owes a fence, and when none owes it
and the lines of its departed contexts have reached their homes, the instruction acquires and retires. -/
def Sys2Proof.Machine.fenceForceCompletes : Prop :=
  ∀ (s : State) (a : BitVec 5) (l : Nat), s.canIssue (.fenceForce a) = true → s.own.lead s.issue = some l →
    ((s.own.lane l).rx a.toNat).p = false →
    let v := ((s.own.lane l).rx a.toNat).v
    v.toNat < 8192 → (4096 ≤ v.toNat → v.toNat % 64 ≤ 3) → (s.dies = 1 → v.toNat / 1024 % 4 = 0) →
    let u := forceUnit v
    (s.own.phase = 1 → (∀ k, k ∈ unitPlaces u → (s.ctx k).region = none) →
      ∃ t, exec (.fenceForce a) s = .next t ∧ (t.ctx s.here).phase = 2
        ∧ ∀ k, k ∈ unitPlaces u → k ≠ s.here → (s.ctx k).status = .resident → s.own.uid ∈ (t.ctx k).forced)
    ∧ (s.own.phase = 2 → (∀ k, k ∈ unitPlaces u → (s.ctx k).status = .resident → s.own.uid ∉ (s.ctx k).forced) →
      (∀ m, m ∈ s.inFlight → ∀ e, e ∈ s.tagEnts u → e.live = false → s.relMsg e.uid (dieOfUnit u) 5 m = false) →
      ∃ t, exec (.fenceForce a) s = .next t ∧ t.mem = s.mem
        ∧ (∀ x, x ∈ t.l1 (unitOf s.here) → x.st = .valid → s.covers (dieOf s.here) 5 (x.line * 128) = false)
        ∧ ∀ l, l ∈ s.issue → (t.ctx s.here).lane l = { s.own.lane l with pc := (s.own.lane l).pc + 4 })

/-- The fences, the wait for a counter, and the force. -/
def Obligations.FencesAndForces : Prop := fencesComplete ∧ fenceForceCompletes

/-- 11 R233, 09 R168: a prefetch whose page is in the TLB, and every hint form, completes without changing a register or a byte of memory; at
most it sends line requests. -/
def Obligations.PrefetchesComplete : Prop :=
  (∀ (s : State) (i : BitVec 12) (a k : BitVec 5), s.canIssue (.pfL1 i a k) = true →
    (a = 0#5 ∨ k ≠ 0#5 → Retires (.pfL1 i a k) s)
    ∧ ((s.xlatLanes s.here 0 s.own (s.own.requests s.issue a.toNat (sext i) 1 1)).miss = [] →
      ∃ t, exec (.pfL1 i a k) s = .next t ∧ t = { s with ctxs := t.ctxs, net := t.net, nextId := t.nextId }
        ∧ (∀ m, m ∈ s.net → m ∈ t.net) ∧ (∀ j, j ≠ s.here → t.ctx j = s.ctx j) ∧ OnlyLanes s.own (t.ctx s.here) s.issue
        ∧ ∀ l, l ∈ s.issue → (t.ctx s.here).lane l = { s.own.lane l with pc := (s.own.lane l).pc + 4 }))
  ∧ ∀ (s : State) (i : BitVec 12) (a : BitVec 5), s.canIssue (.pfL2 i a) = true →
      (a = 0#5 ∨
        (s.xlatLanes s.here 0 s.own (s.own.requests s.issue a.toNat (sext i) 1 1)).miss = []) →
      Retires (.pfL2 i a) s

/-- No store of the context at the current place waits in the store queue of its unit. -/
def Sys2Proof.Machine.State.ownQueueEmpty (s : State) : Prop :=
  (Tbl.get [] s.storeQ (unitOf s.here)).any (fun e => e.uid == s.own.uid) = false

/-- The lines of cached pages that the addresses in a register name, translated and checked as loads; the address of a helper lane that
fails its checks names none (11 R232; 02 R45). -/
def Sys2Proof.Machine.State.cleanXl (s : State) (a : BitVec 5) : LaneXl :=
  (s.xlatLanes s.here 0 s.own (s.own.requests s.issue a.toNat 0 1 1)).check (s.reachCheck s.here) fun l => (s.own.lane l).helper

def Sys2Proof.Machine.LaneXl.cachedLines (x : LaneXl) : List Nat :=
  (((x.ok.flatMap (·.2)).filter fun p => p.at_.home == .cached).map fun p => p.at_.loc / 128).eraseDups

/-- The bytes in M of a line are on their way to its home, and the counter `st` counts them: in a `write` where the line was Dirty, in a
`giveUp` where it was Owned (11 R232; 03 R54; 05 R102). -/
def Sys2Proof.Machine.State.carries (s : State) (u : Nat) (l : L1Line) (t : State) : Prop :=
  ∃ m g, m ∈ t.net ∧ m.loc = l.line * 128 ∧
    match l.st with
    | .dirty => m.body = .write (s.tagUid u l.tag) u l.line l.data l.mask l.poison .cached true (some g)
    | .owned => m.body = .giveUp (s.tagUid u l.tag) u l.line l.data l.mask l.poison (some g)
    | .valid => False

/-- What cleaning some lines of a unit does: the instruction goes on; of those lines `cinv` (`drop`) leaves none and the others leave
only Valid copies; where no `sfence.vma` has marked one of them, every other line and every other L1D stays, and the dirty bytes of a
line outside the host window are on their way home. -/
def Sys2Proof.Machine.State.hasCleaned (s t : State) (lines : List Nat) (drop : Bool) : Prop :=
  let u := unitOf s.here
  (∀ l, l ∈ s.issue → (t.ctx s.here).lane l = { s.own.lane l with pc := (s.own.lane l).pc + 4 })
  ∧ (∀ n x, n ∈ lines → t.l1Line u n = some x → drop = false ∧ x.st = .valid)
  ∧ ((∀ n x, n ∈ lines → s.l1Line u n = some x → x.marked = false) →
      (∀ n, n ∉ lines → t.l1Line u n = s.l1Line u n) ∧ (∀ v, v ≠ u → t.l1 v = s.l1 v)
      ∧ ∀ n x, n ∈ lines → s.l1Line u n = some x → x.st ≠ .valid → x.mask ≠ 0 → isHost (n * 128) = false → s.carries u x t)

/-- 11 R232: where the counter `st` has room, no own store waits and no region holds one of the lines, `cwb` of translated addresses
completes: of their lines the L1D keeps only Valid copies, and the dirty bytes leave. -/
def Sys2Proof.Machine.cwbCompletes : Prop :=
  ∀ (s : State) (a : BitVec 5), s.canIssue (.cwb a) = true → (s.cleanXl a).clean → s.ownQueueEmpty →
    s.own.counterFull .st = false → (∀ n, n ∈ (s.cleanXl a).cachedLines → s.leasedBy (unitOf s.here) n = none) →
    ∃ t, exec (.cwb a) s = .next t ∧ s.hasCleaned t (s.cleanXl a).cachedLines false

/-- 11 R232: `cinv` under the same conditions completes: the L1D keeps no copy of the lines, and the dirty bytes leave. -/
def Sys2Proof.Machine.cinvCompletes : Prop :=
  ∀ (s : State) (a : BitVec 5), s.canIssue (.cinv a) = true → (s.cleanXl a).clean → s.ownQueueEmpty →
    s.own.counterFull .st = false → (∀ n, n ∈ (s.cleanXl a).cachedLines → s.leasedBy (unitOf s.here) n = none) →
    ∃ t, exec (.cinv a) s = .next t ∧ s.hasCleaned t (s.cleanXl a).cachedLines true

/-- 11 R232: `cwb.ctx` acts in the same way on every line that carries the tag of the context. -/
def Sys2Proof.Machine.cwbCtxCompletes : Prop :=
  ∀ (s : State), s.canIssue .cwbCtx = true → s.ownQueueEmpty → s.own.counterFull .st = false →
    let lines := ((s.l1 (unitOf s.here)).filter fun l => l.taggedBy s.own.tagEnt).map (·.line)
    (∀ n, n ∈ lines → s.leasedBy (unitOf s.here) n = none) →
    ∃ t, exec .cwbCtx s = .next t ∧ s.hasCleaned t lines false

/-- The instructions that clean lines complete, under one count of `st`, each on the lines that it names. -/
def Obligations.CleaningCompletes : Prop := cwbCompletes ∧ cinvCompletes ∧ cwbCtxCompletes

/-! ## Leases, write-once buffers and barriers -/

/-- `lease` and `lease2`: the address registers, the budget register and rd (06 R109). -/
def Sys2Proof.Machine.Instr.leaseRow : Instr → Option (List (BitVec 5) × BitVec 5 × BitVec 5)
  | .lease b a d => some ([a], b, d)
  | .lease2 c b a d => some ([a, b], c, d)
  | _ => none

/-- A region that has armed on lane 0 of `c`: the checkpoint is the registers before rd, the deadline is the budget from now, rd holds LRC and
the lane goes on (06 R112). Every load outstanding at that moment counts as issued before it (06 R118). -/
def Sys2Proof.Machine.ArmedFrom (c d : Ctx) (now clk next rd budget : Nat) (ws : List Shadow) : Prop :=
  (∃ n, next ≤ n ∧ d.lease
    = .armed { pc := (c.lane 0).pc, lines := ws, ckpt := (c.lane 0).x, deadline := now + budget, armedAt := clk, since := n })
  ∧ (d.lane 0).rx rd = (if rd = 0 then Reg.zero else Reg.of (BitVec.ofNat 64 c.lrc) false)
  ∧ (∀ r, r ≠ rd → (d.lane 0).rx r = (c.lane 0).rx r) ∧ (d.lane 0).pc = (c.lane 0).pc + 4

/-- The shadow that is left of a shadow by a store of `n` bytes at `o` (06 R114). -/
def Sys2Proof.Machine.Shadow.stored (w x : Shadow) (o n : Nat) (v : Reg) : Prop :=
  x.line = w.line ∧ ∀ i, i < 128 →
    if o ≤ i ∧ i < o + n then
      x.mask.getLsbD i = true ∧ lineByte x.data i = v.v.toNat / 256 ^ (i - o) % 256 ∧ x.poison.getLsbD i = v.p
    else x.mask.getLsbD i = w.mask.getLsbD i ∧ lineByte x.data i = lineByte w.data i ∧ x.poison.getLsbD i = w.poison.getLsbD i

/-- 06 R114: in an armed region an aligned store to a leased line writes its bytes, with their poison, into the line's shadow, and no line and
no other shadow. -/
def Sys2Proof.Machine.regionStores : Prop :=
  ∀ (s : State) (j : BitVec 7) (b a : BitVec 5) (f : BitVec 3) (k : BitVec 5) (r : Region) (w : StoreRow) (q : LaneReq) (p : Piece),
    s.canIssue (.store j b a f k) = true → s.own.region = some r → s.storeRow (.store j b a f k) = some w → s.issue = [0] →
    s.cleanX a = true → w.xl.clean → w.xl.ok = [(q, [p])] → q.va.toNat % q.n = 0 → p.off = 0 → p.n = 2 ^ f.toNat →
    p.at_.loc % 128 + p.n ≤ 128 → p.at_.home = .cached → r.holds (p.at_.loc / 128) = true →
    ∃ t ws, exec (.store j b a f k) s = .next t ∧ OnlyAt s.here s t ∧ (t.ctx s.here).region = some { r with lines := ws }
      ∧ (t.ctx s.here).lane 0 = { s.own.lane 0 with pc := (s.own.lane 0).pc + 4 } ∧ ws.length = r.lines.length
      ∧ ∀ (n : Nat) (x y : Shadow), r.lines[n]? = some x → ws[n]? = some y →
          (x.line ≠ p.at_.loc / 128 → y = x)
          ∧ (x.line = p.at_.loc / 128 → x.stored y (p.at_.loc % 128) p.n ((s.own.lane 0).rx b.toNat))

/-- 06 R114: in an armed region an aligned load of a leased line writes rd with the shadow's bytes where the mask is set and the line's
elsewhere, sign- or zero-extended, and poisoned when one of them is. -/
def Sys2Proof.Machine.regionLoads : Prop :=
  ∀ (s : State) (i : BitVec 12) (a : BitVec 5) (f : BitVec 3) (d : BitVec 5) (r : Region) (v : LoadRow) (q : LaneReq) (p : Piece)
      (w : Shadow) (l : L1Line),
    s.canIssue (.load i a f d) = true → s.own.region = some r → s.loadRow (.load i a f d) = some v → s.issue = [0] →
    s.cleanX a = true → v.xl.clean → v.xl.ok = [(q, [p])] → q.va.toNat % q.n = 0 → q.lane = 0 → q.n = (loadSize f).1 →
    p.off = 0 → p.n = (loadSize f).1 → p.at_.home = .cached → s.loadCheck s.here q [p] = none → s.queuedOverlap s.here [p] = false →
    s.own.counterFull .ld = false → s.missFull (unitOf s.here) [p] = false → s.keyOf s.own.uid = some s.here →
    r.lines.find? (fun x => x.line == p.at_.loc / 128) = some w → s.l1Line (unitOf s.here) w.line = some l →
    let o := p.at_.loc % 128
    ∃ t, exec (.load i a f d) s = .next t ∧ (t.ctx s.here).cnt = s.own.cnt ∧ t.mem = s.mem ∧ t.l1d = s.l1d
      ∧ ((t.ctx s.here).lane 0).pc = (s.own.lane 0).pc + 4
      ∧ ((t.ctx s.here).lane 0).rx d.toNat = if d = 0#5 then Reg.zero else
          { v := extendLoad (loadSize f).2 (loadSize f).1 ((List.range (loadSize f).1).foldr (fun n x =>
              (if w.mask.getLsbD (o + n) then lineByte w.data (o + n) else lineByte l.data (o + n)) + 256 * x) 0),
            p := (List.range (loadSize f).1).any fun n =>
              if w.mask.getLsbD (o + n) then w.poison.getLsbD (o + n) else l.poison.getLsbD (o + n) }

/-- 06 R109 to R112, R114: a lease whose operands are good arms at once where its lines are Owned and free and a slot is open, and otherwise
acquires them without retiring; the event that ends the acquisition arms it in the same way; in the armed region loads and stores of
the leased lines go to the shadows. A store of the unit to a leased line that is still queued is merged into the line as the region arms
(the model's choice, log entry L57). -/
def Obligations.LeasesArm : Prop :=
  regionStores ∧ regionLoads ∧
  (∀ (s : State) (i : Instr) (as : List (BitVec 5)) (b d : BitVec 5) (n : Nat) (ws : List Shadow),
    Instr.leaseRow i = some (as, b, d) → s.canIssue i = true → s.own.region = none → isHandler s.here = false →
    (∀ r, r ∈ as ++ [b] → ((s.own.lane 0).rx r.toNat).p = false) → leaseBudget ((s.own.lane 0).rx b.toNat).v = some n →
    s.leaseLines s.here (as.map fun r => ((s.own.lane 0).rx r.toNat).v) = .ok ws → ((ws.map (·.line)).eraseDups).length = ws.length →
    (s.leaseReady s.here ws = true → ∃ t, exec i s = .next t ∧ ArmedFrom s.own (t.ctx s.here) (s.now s.here) s.clk s.nextId d.toNat n ws)
    ∧ (s.leaseReady s.here ws = false → ∃ t, exec i s = .next t ∧ (t.ctx s.here).lease = .acquiring d.toNat n ws
        ∧ ∀ l, (t.ctx s.here).lane l = s.own.lane l))
  ∧ ∀ (s : State) (p : Place) (rd n : Nat) (ws : List Shadow), (s.ctx p.key).lease = .acquiring rd n ws →
      (s.ctx p.key).status = .resident → s.leaseReady p.key ws = true →
      ∃ t, exec (.leaseArm p) s = .next t ∧ ArmedFrom (s.ctx p.key) (t.ctx p.key) (s.now p.key) s.clk s.nextId rd n ws

/-- 06 R116 to R119: `lclose` merges each shadow into its Owned line; `labort` merges nothing; both free the slot, clear LRC and go on with the
registers as they stand; the expiry of the budget restores the registers and the PC of the lease and raises LRC. The recalls of lines
that no region holds any more leave the queue. -/
def Obligations.LeasesEnd : Prop :=
  (∀ (s : State) (r : Region), s.canIssue .labort = true → s.own.region = some r →
    ∃ t, exec .labort s = .next t ∧ (t.ctx s.here).lease = .idle ∧ (t.ctx s.here).lrc = 0
      ∧ (∀ l, l ∈ s.issue → (t.ctx s.here).lane l = { s.own.lane l with pc := (s.own.lane l).pc + 4 })
      ∧ (t.core (unitOf s.here)).recalls
          = (s.core (unitOf s.here)).recalls.filter (fun e => (t.leasedBy (unitOf s.here) e.1).isSome)
      ∧ ((s.core (unitOf s.here)).recalls = [] → t.mem = s.mem ∧ t.l1d = s.l1d))
  ∧ (∀ (s : State) (r : Region), s.canIssue .lclose = true → s.own.region = some r → (r.lines.map (·.line)).Nodup →
      (s.core (unitOf s.here)).recalls = [] →
      ∃ t, exec .lclose s = .next t ∧ (t.ctx s.here).lease = .idle ∧ (t.ctx s.here).lrc = 0 ∧ t.mem = s.mem
        ∧ (∀ l, l ∈ s.issue → (t.ctx s.here).lane l = { s.own.lane l with pc := (s.own.lane l).pc + 4 })
        ∧ ∀ w l, w ∈ r.lines → s.l1Line (unitOf s.here) w.line = some l →
            ∃ m, t.l1Line (unitOf s.here) w.line = some m ∧ ∀ i, i < 128 →
              lineByte m.data i = (if w.mask.getLsbD i then lineByte w.data i else lineByte l.data i)
              ∧ m.mask.getLsbD i = (w.mask.getLsbD i || l.mask.getLsbD i))
  ∧ ∀ (s : State) (p : Place) (r : Region), (s.ctx p.key).region = some r → r.deadline ≤ s.now p.key →
      ∃ t, exec (.leaseExpiry p) s = .next t ∧ (t.ctx p.key).lease = .idle
        ∧ (t.ctx p.key).lane 0 = { (s.ctx p.key).lane 0 with x := r.ckpt, pc := r.pc }
        ∧ (t.ctx p.key).lrc = min ((s.ctx p.key).lrc + 1) 255
        ∧ ((s.core (unitOf p.key)).recalls = [] → t.mem = s.mem ∧ t.l1d = s.l1d)

/-- 11 R230, R231: `bseal` of a range that passes its checks, once released at `.cluster`, adds one entry to the cluster's seal table;
`bopen` of a sealed range with a count of 0 removes it; registers stay. -/
def Obligations.SealsOpenAndClose : Prop :=
  (∀ (s : State) (b a : BitVec 5) (l : Nat), s.canIssue (.bseal b a) = true → s.own.lead s.issue = some l →
    ((s.own.lane l).rx a.toNat).p = false → ((s.own.lane l).rx b.toNat).p = false →
    s.bsealFault s.here s.own ((s.own.lane l).rx a.toNat).v ((s.own.lane l).rx b.toNat).v = none → s.released s.here 1 = true →
    (s.cluster (clusterOf s.here)).seals.length < 32 →
    ∃ t, exec (.bseal b a) s = .next t ∧ t = { s with ctxs := t.ctxs, clusters := t.clusters }
      ∧ t.cluster (clusterOf s.here) = { s.cluster (clusterOf s.here) with seals := (s.cluster (clusterOf s.here)).seals ++
          [{ base := ((s.own.lane l).rx a.toNat).v.toNat % 2 ^ 40, size := ((s.own.lane l).rx b.toNat).v.toNat, count := 0,
             alloc := s.own.allocBase }] }
      ∧ (∀ c, c ≠ clusterOf s.here → t.cluster c = s.cluster c) ∧ OnlyLanes s.own (t.ctx s.here) s.issue
      ∧ ∀ m, m ∈ s.issue → (t.ctx s.here).lane m = { s.own.lane m with pc := (s.own.lane m).pc + 4 })
  ∧ ∀ (s : State) (a : BitVec 5) (l : Nat) (e : Seal), s.canIssue (.bopen a) = true → s.own.lead s.issue = some l →
      ((s.own.lane l).rx a.toNat).p = false →
      (s.cluster (clusterOf s.here)).seals.find? (fun e =>
        e.alloc == s.own.allocBase && windowOff ((s.own.lane l).rx a.toNat).v == some e.base) = some e → e.count = 0 →
      ∃ t, exec (.bopen a) s = .next t ∧ t = { s with ctxs := t.ctxs, clusters := t.clusters }
        ∧ t.cluster (clusterOf s.here) = { s.cluster (clusterOf s.here) with
            seals := (s.cluster (clusterOf s.here)).seals.filter fun f => !(f == e) }
        ∧ (∀ c, c ≠ clusterOf s.here → t.cluster c = s.cluster c) ∧ OnlyLanes s.own (t.ctx s.here) s.issue
        ∧ ∀ m, m ∈ s.issue → (t.ctx s.here).lane m = { s.own.lane m with pc := (s.own.lane m).pc + 4 }

/-- A barrier object of a pinned or uncached page in memory is at its home, where the unit may use it: no other set's region and no L1
holds its line, and, for an update, the home can be reached and has room for a tag of the context, which has one to give (11 R234; 03 R57,
R58). -/
def Sys2Proof.Machine.State.barrierHome (s : State) (acc loc : Nat) (ps : List Piece) (p : Spot) : Prop :=
  isHbm s.dies loc = true ∧ (p.home = .uncached ∨ (p.home = .cached ∧ p.pinned = true)) ∧ s.leasedAway s.here ps = false
  ∧ s.l1Line (unitOf s.here) (loc / 128) = none ∧ s.atHome loc = true
  ∧ (acc = 1 → s.mgmt.failedHomes.contains (s.homeOf loc) = false ∧ s.tagRoom loc 1 (s.own.tag s.here) = true
      ∧ s.own.tagsFull 1 = false ∧ s.keyOf s.own.uid = some s.here)

/-- A barrier instruction reaches its object, in the cluster SRAM or in memory: its operands hold no poison, its address is aligned and
translated, and in the window has bit 40 clear, no own load of it is outstanding and no own write to it is on its way (11 R234; 16 R330), and
in the cluster SRAM its bytes hold no uncorrectable error (20 R400). -/
def Sys2Proof.Machine.State.barrierAt (s : State) (acc l : Nat) (rs : List (BitVec 5)) (va : Word) (loc : Nat) : Prop :=
  s.own.lead s.issue = some l ∧ (∀ r, r ∈ rs → ((s.own.lane l).rx r.toNat).p = false) ∧ va.toNat % 16 = 0 ∧ objectOff va = false
  ∧ (∃ p ps, s.pieces s.here acc va 16 16 = .ok (p :: ps) ∧ p.at_.loc = loc
      ∧ ((p.at_.home = .window ∧ s.meets s.own.uid loc 16 = s) ∨ s.barrierHome acc loc (p :: ps) p.at_))
  ∧ s.readingFrom s.own.uid loc 16 = false ∧ s.writingTo (unitOf s.here) loc 16 = false

/-- A barrier instruction has written the two doubles of its object and no other byte of memory, and has retired with `v` in rd of
every executing lane; the update of an object in memory takes a tag and an entry of its home (03 R56, R57), and is performed there in
the step that makes it (the model's choice, L17). -/
def Sys2Proof.Machine.State.barrierWrote (s t : State) (loc : Nat) (d : Nat × Nat) (rd : Nat) (v : Reg) : Prop :=
  t.barD0 loc = d.1 ∧ t.barD1 loc = d.2 ∧ (∀ b, b < loc ∨ loc + 16 ≤ b → t.byte b = s.byte b ∧ t.bytePoison b = s.bytePoison b)
  ∧ t = { s with ctxs := t.ctxs, mem := t.mem, memPoison := t.memPoison, slices := t.slices, net := t.net }
  ∧ (isWindowLoc loc = true → t.slices = s.slices ∧ t.net = s.net)
  ∧ (∀ h, h ≠ s.homeOf loc → (t.slice h).dedup = (s.slice h).dedup)
  ∧ (t.ctx s.here).seq = (if isWindowLoc loc then s.own.seq else s.own.seq + 1) ∧ (∀ j, j ≠ s.here → t.ctx j = s.ctx j)
  ∧ ∀ m, m ∈ s.issue → ((t.ctx s.here).lane m).pc = (s.own.lane m).pc + 4
      ∧ ((t.ctx s.here).lane m).rx rd = (if rd = 0 then (s.own.lane m).rx 0 else v)
      ∧ ∀ r, r ≠ rd → ((t.ctx s.here).lane m).rx r = (s.own.lane m).rx r

/-- 11 R234, R236: `bar.init` with a count of 1 to 65535 sets COUNT and LEFT of its object and makes it live. It completes on a sealed
range too, as the next three do (the model's choice, log entry L81). -/
def Sys2Proof.Machine.barInitCompletes : Prop :=
  ∀ (s : State) (b a : BitVec 5) (l loc : Nat), s.canIssue (.barInit b a) = true →
    s.barrierAt 1 l [a, b] ((s.own.lane l).rx a.toNat).v loc →
    let n := ((s.own.lane l).rx b.toNat).v.toNat
    0 < n → n ≤ 65535 → field (s.barD1 loc) 36 28 = 0 →
    ∃ t, exec (.barInit b a) s = .next t ∧ s.barrierWrote t loc (n + n * 2 ^ 16 + 2 ^ 63, s.barD1 loc) 0 Reg.zero

/-- 11 R235, R236: `bar.arrive` of a live object with an arrival left, once released at `.pkg`, takes one from LEFT, completes the
phase where no arrival is left and no byte is pending, and gives the phase before in rd. -/
def Sys2Proof.Machine.barArriveCompletes : Prop :=
  ∀ (s : State) (a d : BitVec 5) (l loc : Nat), s.canIssue (.barArrive a d) = true →
    s.barrierAt 1 l [a] ((s.own.lane l).rx a.toNat).v loc → s.barOk loc = true → s.released s.here 3 = true →
    field (s.barD0 loc) 16 16 ≠ 0 →
    ∃ t, exec (.barArrive a d) s = .next t ∧ s.barrierWrote t loc (barrierStep (s.barD0 loc - 2 ^ 16) (s.barD1 loc)) d.toNat
      (Reg.of (BitVec.ofNat 64 (field (s.barD0 loc) 32 16)) false)

/-- 11 R236: `bar.expect` of a live object adds its operand to LEFT; with 0 it retires and changes nothing. -/
def Sys2Proof.Machine.barExpectCompletes : Prop :=
  ∀ (s : State) (b a : BitVec 5) (l loc : Nat), s.canIssue (.barExpect b a) = true →
    s.barrierAt 1 l [a, b] ((s.own.lane l).rx a.toNat).v loc → s.barOk loc = true →
    let n := ((s.own.lane l).rx b.toNat).v.toNat
    (n = 0 → Retires (.barExpect b a) s)
    ∧ (0 < n → field (s.barD0 loc) 16 16 + n ≤ 65535 →
        ∃ t, exec (.barExpect b a) s = .next t
          ∧ s.barrierWrote t loc (barrierStep (s.barD0 loc + n * 2 ^ 16) (s.barD1 loc)) 0 Reg.zero)

/-- 11 R235, R236: a phase completes exactly when the object is live, no arrival is left and no byte is pending; then LEFT is COUNT again, the
phase number rises by 1 modulo 2^16, and COUNT and PENDING, the byte count of double 1, stay. -/
def Sys2Proof.Machine.barrierPhase : Prop :=
  ∀ (d0 d1 : Nat), d0 < 2 ^ 64 → d1 < 2 ^ 64 → field d0 48 15 = 0 →
    let e := barrierStep d0 d1
    e.2 = d1 ∧ field e.1 0 16 = field d0 0 16 ∧ field e.1 48 16 = field d0 48 16
    ∧ ((d0 / 2 ^ 63 = 1 ∧ field d0 16 16 = 0 ∧ field d1 0 36 = 0 →
        field e.1 16 16 = field d0 0 16 ∧ field e.1 32 16 = (field d0 32 16 + 1) % 2 ^ 16)
      ∧ (¬(d0 / 2 ^ 63 = 1 ∧ field d0 16 16 = 0 ∧ field d1 0 36 = 0) → e.1 = d0))

/-- After an acquire at the scope of the transfers accounted on a barrier object (04 R87; 16 R332), the L1D of the unit keeps no Valid copy
of a covered line, no byte of memory has changed, and of the contexts only the issuing one. -/
def Sys2Proof.Machine.State.barrierAcquired (s t : State) (loc : Nat) : Prop :=
  (∀ x, x ∈ t.l1 (unitOf s.here) → x.st = .valid →
    s.covers (dieOfUnit (unitOf s.here)) (s.barScope loc) (x.line * 128) = false)
  ∧ t = { s with ctxs := t.ctxs, l1d := t.l1d, net := t.net } ∧ ∀ j, j ≠ s.here → t.ctx j = s.ctx j

/-- 11 R236: `bar.wait` of a live object waits while the phase is the one that it names; once it is another, it acquires and retires. -/
def Sys2Proof.Machine.barWaitCompletes : Prop :=
  ∀ (s : State) (b a : BitVec 5) (l loc : Nat), s.canIssue (.barWait b a) = true →
    s.barrierAt 0 l [a, b] ((s.own.lane l).rx a.toNat).v loc → s.barOk loc = true →
    let v := ((s.own.lane l).rx b.toNat).v.toNat % 65536
    (field (s.barD0 loc) 32 16 = v → exec (.barWait b a) s = .next s)
    ∧ (field (s.barD0 loc) 32 16 ≠ v → ∃ t, exec (.barWait b a) s = .next t ∧ s.barrierAcquired t loc
        ∧ ∀ m, m ∈ s.issue → (t.ctx s.here).lane m = { s.own.lane m with pc := (s.own.lane m).pc + 4 })

/-- 11 R236: `bar.try` of a live object retires at once: rd is 1, after an acquire, where the phase is another than the one that it names,
and else 0. -/
def Sys2Proof.Machine.barTryCompletes : Prop :=
  ∀ (s : State) (b a d : BitVec 5) (l loc : Nat), s.canIssue (.barTry b a d) = true →
    s.barrierAt 0 l [a, b] ((s.own.lane l).rx a.toNat).v loc → s.barOk loc = true →
    let other := field (s.barD0 loc) 32 16 ≠ ((s.own.lane l).rx b.toNat).v.toNat % 65536
    ∃ t, exec (.barTry b a d) s = .next t ∧ (other → s.barrierAcquired t loc) ∧ (¬other → OnlyAt s.here s t) ∧ ∀ m, m ∈ s.issue →
      ((t.ctx s.here).lane m).pc = (s.own.lane m).pc + 4
      ∧ ((t.ctx s.here).lane m).rx d.toNat = (if d = 0#5 then Reg.zero else
          Reg.of (boolWord (field (s.barD0 loc) 32 16 ≠ ((s.own.lane l).rx b.toNat).v.toNat % 65536)) false)
      ∧ ∀ r, r ≠ d.toNat → ((t.ctx s.here).lane m).rx r = (s.own.lane m).rx r

/-- The barrier instructions, those that write the object and those that read it, and when a phase completes. An update on a sealed range is
performed (the model's choice, log entry L81). -/
def Obligations.BarrierInstructions : Prop :=
  barInitCompletes ∧ barArriveCompletes ∧ barExpectCompletes ∧ barrierPhase ∧ barWaitCompletes ∧ barTryCompletes

/-! ## Channels -/

/-- 12 R261, 07 R132 to R137: `qsend` to the own context puts the whole packet at the tail; `qrecv` takes the packet at the head into its
registers, absent doubles reading 0, and waits on an empty channel; `qpoll` gives the length of the head packet and the doubles held.
No other channel changes. A packet that arrives at its context's channel retires the `qsend` that sent it. -/
def Obligations.ChannelsPass : Prop :=
  (∀ (s : State) (n : BitVec 3) (b a : BitVec 5) (l ch : Nat), s.canIssue (.qsend n b a) = true → s.own.phase ≠ 1 → s.own.task = none →
    s.own.lead s.issue = some l → ((s.own.lane l).rx a.toNat).p = false →
    s.own.handle ((s.own.lane l).rx a.toNat).v = some (.self, ch) → s.own.chanFill ch + (n.toNat + 1) ≤ 32 →
    ∃ t, exec (.qsend n b a) s = .next t ∧ OnlyAt s.here s t
      ∧ (t.ctx s.here).chan ch = s.own.chan ch ++ [(span b.toNat (n.toNat + 1)).map (s.own.lane l).rx]
      ∧ (∀ q, q ≠ ch → (t.ctx s.here).chan q = s.own.chan q)
      ∧ ∀ m, m ∈ s.issue → (t.ctx s.here).lane m = { s.own.lane m with pc := (s.own.lane m).pc + 4 })
  ∧ (∀ (s : State) (n : BitVec 3) (q d : BitVec 5), s.canIssue (.qrecv n q d) = true → s.own.workers s.issue ≠ [] →
      (s.own.chan q.toNat = [] → exec (.qrecv n q d) s = .next s)
      ∧ ∀ p r, s.own.chan q.toNat = p :: r → ∃ t, exec (.qrecv n q d) s = .next t ∧ OnlyAt s.here s t ∧ (t.ctx s.here).chan q.toNat = r
          ∧ (∀ c, c ≠ q.toNat → (t.ctx s.here).chan c = s.own.chan c)
          ∧ ∀ m, m ∈ s.issue → ((t.ctx s.here).lane m).pc = (s.own.lane m).pc + 4
              ∧ (∀ j, j ≤ n.toNat → ((t.ctx s.here).lane m).rx (d.toNat + j)
                  = if d.toNat + j = 0 then Reg.zero else p.getD j Reg.zero)
              ∧ ∀ j, j < d.toNat ∨ d.toNat + n.toNat < j → ((t.ctx s.here).lane m).rx j = (s.own.lane m).rx j)
  ∧ (∀ (s : State) (q d : BitVec 5), s.canIssue (.qpoll q d) = true →
      ∃ t, exec (.qpoll q d) s = .next t ∧ OnlyAt s.here s t ∧ OnlyLanes s.own (t.ctx s.here) s.issue ∧ ∀ m, m ∈ s.issue →
        ((t.ctx s.here).lane m).pc = (s.own.lane m).pc + 4
        ∧ ((t.ctx s.here).lane m).rx d.toNat = (if d = 0#5 then Reg.zero else
            Reg.of (BitVec.ofNat 64 (((s.own.chan q.toNat).headD []).length + 16 * s.own.chanFill q.toNat)) false)
        ∧ ∀ r, r ≠ d.toNat → ((t.ctx s.here).lane m).rx r = (s.own.lane m).rx r)
  ∧ ∀ (s : State) (k i j uid tgt ch : Nat) (ds : List Reg) (m : NetMsg), s.msg k = some m → m.body = .push uid tgt ch ds →
      s.keyOf uid = some i → s.keyOf tgt = some j → i ≠ j → (s.ctx i).phase = 1 → (s.ctx j).chanFill ch + ds.length ≤ 32 →
      ∃ t, exec (.channelPushArrival k) s = .next t ∧ (t.ctx j).chan ch = (s.ctx j).chan ch ++ [ds]
        ∧ (∀ q, q ≠ ch → (t.ctx j).chan q = (s.ctx j).chan q)
        ∧ (∀ l, l ∈ (s.ctx i).executing → (t.ctx i).lane l = { (s.ctx i).lane l with pc := ((s.ctx i).lane l).pc + 4 })
        ∧ t.msg k = none ∧ ∀ x, x ≠ i → x ≠ j → t.ctx x = s.ctx x

/-! ## Messages, codelets and light threads -/

/-- A rank has been looked up for the context that issues: its entry is `e` (12 R240). -/
def Sys2Proof.Machine.State.rankIs (s : State) (r : Word) (e : Word) : Prop := s.lookFor s.here r = some (.entry e)

/-- 12 R246: a `msend` that nothing holds back sends one message for each worker, to the core that its rank's entry names, with the payload
from `x10` on, and counts as one on `ms` for the instruction; in a handler task it is held until `hend` instead. -/
def Obligations.MessagesSend : Prop :=
  ∀ (s : State) (n sc : BitVec 3) (b a : BitVec 5) (e : Nat → Word), s.canIssue (.msend n sc b a) = true →
    s.cleanX a = true → s.cleanX b = true → s.own.workers s.issue ≠ [] →
    (∀ l, l ∈ s.own.workers s.issue → ((s.own.lane l).rx b.toNat).v.toNat % 4 = 0 ∧ s.rankIs ((s.own.lane l).rx a.toNat).v (e l)
      ∧ entryState (e l).toNat ≠ 0 ∧ entryState (e l).toNat ≠ 3) →
    s.own.counterFull .ms = false →
    let msg := fun (l : Nat) =>
      s.own.message s.here l (n.toNat + 1) sc.toNat ((s.own.lane l).rx a.toNat).v ((s.own.lane l).rx b.toNat).v
    (s.own.task = none → s.sendFull s.here (s.own.workers s.issue).length = false → s.released s.here sc.toNat = true →
      (∀ m, m ∈ s.net → ∀ q, m.body ≠ .heldMsg q) →
      ∃ t, exec (.msend n sc b a) s = .next t
        ∧ (∀ l, l ∈ s.own.workers s.issue → ∃ m q, m ∈ t.net ∧ m.body = .tagged q ∧ q.op = .msg ∧ q.cargo = .message (msg l)
            ∧ q.n = s.destCore (e l).toNat ∧ q.grp = s.nextId)
        ∧ t.net.length = s.net.length + (s.own.workers s.issue).length
        ∧ (t.ctx s.here).cnt = (s.own.count .ms).cnt ∧ (∀ k, k ≠ s.here → t.ctx k = s.ctx k) ∧ t.mem = s.mem
        ∧ ∀ l, l ∈ s.issue → (t.ctx s.here).lane l = { s.own.lane l with pc := (s.own.lane l).pc + 4 })
    ∧ ∀ k, s.own.task = some k → k.held.length < 16 →
      ∃ t, exec (.msend n sc b a) s = .next t ∧ t.net = s.net
        ∧ (t.ctx s.here).task = some { k with held := k.held ++ (s.own.workers s.issue).map fun l => .msg (msg l) s.nextId }
        ∧ (t.ctx s.here).cnt = (s.own.count .ms).cnt ∧ (∀ k, k ≠ s.here → t.ctx k = s.ctx k) ∧ t.mem = s.mem
        ∧ ∀ l, l ∈ s.issue → (t.ctx s.here).lane l = { s.own.lane l with pc := (s.own.lane l).pc + 4 }

/-- 12 R254, R255: `carm` and `cdec` that nothing holds back send one tagged request to the core of each worker's descriptor, counted as one
on `ld` and on `ms`, and retire. -/
def Sys2Proof.Machine.codeletsRequest : Prop :=
  (∀ (s : State) (b a d : BitVec 5), s.canIssue (.carm b a d) = true → s.cleanX a = true → s.cleanX b = true →
    let x := s.xlatDescriptors s.here s.own s.issue a [a.toNat, b.toNat] fun l => (l.rx b.toNat).v.toNat / 2 ^ 32 ≠ 0
    x.clean → (∀ e, e ∈ x.ok → e.2 ≠ []) → s.own.counterFull .ld = false → s.sendFull s.here x.ok.length = false →
    s.released s.here 3 = true →
    ∃ t, exec (.carm b a d) s = .next t ∧ (∀ l, l ∈ s.issue → ((t.ctx s.here).lane l).pc = (s.own.lane l).pc + 4)
      ∧ t.net.length = s.net.length + x.ok.length
      ∧ ∀ e p r, e ∈ x.ok → e.2 = p :: r → ∃ m q, m ∈ t.net ∧ m.body = .tagged q ∧ q.op = .carm ∧ q.loc = p.at_.loc ∧ q.lane = e.1.lane
          ∧ q.v = Reg.of ((s.own.lane e.1.lane).rx b.toNat).v false ∧ q.va = e.1.va)
  ∧ ∀ (s : State) (a : BitVec 5), s.canIssue (.cdec a) = true → s.cleanX a = true → s.own.task = none →
    let x := s.xlatDescriptors s.here s.own s.issue a [a.toNat] fun _ => false
    x.clean → x.ok ≠ [] → (∀ e, e ∈ x.ok → e.2 ≠ []) → s.own.counterFull .ms = false →
    s.sendFull s.here x.ok.length = false → s.released s.here 3 = true →
    ∃ t, exec (.cdec a) s = .next t ∧ (∀ l, l ∈ s.issue → ((t.ctx s.here).lane l).pc = (s.own.lane l).pc + 4)
      ∧ t.net.length = s.net.length + x.ok.length
      ∧ ∀ e p r, e ∈ x.ok → e.2 = p :: r → ∃ m q, m ∈ t.net ∧ m.body = .tagged q ∧ q.op = .cdec ∧ q.loc = p.at_.loc ∧ q.lane = e.1.lane
          ∧ q.va = e.1.va

/-- 12 R254 to R257: the owner core takes its requests in order and answers each; `carm` of a descriptor that is not armed and has a legal
entry writes its count and gives 0; `cdec` of an armed one takes one from its count, and the last one queues the codelet and
disarms the descriptor; the core's issue slot is then held for 2 clk. -/
def Sys2Proof.Machine.ownerAtomics : Prop :=
  ∀ (s : State) (core : Nat) (r : TagReq) (rs : List TagReq), (s.core core).owners = r :: rs → (s.core core).busy ≤ s.unitClk core →
    s.unitHeld core = false →
    ∃ t, exec (.ownerAtomic core) s = .next t ∧ (t.core core).owners = rs ∧ (t.core core).busy = s.unitClk core + 2
      ∧ (∃ m v, m ∈ t.net ∧ m.body = .taggedRep r v 0
          ∧ (r.op = .carm → field (s.value r.loc 8) 32 1 = 1 → s.value r.loc 8 < 2 ^ 33 → v = Reg.of 1 false)
          ∧ (r.op = .carm → s.value r.loc 8 < 2 ^ 32 → (s.core core).armed < 1024 → s.value (r.loc + 8) 8 ≠ 0 →
              s.value (r.loc + 8) 8 % 4 = 0 → v = Reg.of 0 false))
      ∧ (r.op = .carm → s.value r.loc 8 < 2 ^ 32 → (s.core core).armed < 1024 → s.value (r.loc + 8) 8 ≠ 0 →
          s.value (r.loc + 8) 8 % 4 = 0 →
          let n := r.v.v.toNat % 2 ^ 32
          t.value r.loc 8 = (if n = 0 then 0 else n + 2 ^ 32) ∧ (t.core core).armed = (s.core core).armed + 1
          ∧ (t.core core).ring = (s.core core).ring
              ++ if n = 0 then [{ loc := r.loc, va := r.va, launch := r.launch, aborts := 0 }] else [])
      ∧ (r.op = .cdec → field (s.value r.loc 8) 32 1 = 1 → 1 < field (s.value r.loc 8) 0 32 →
          t.value r.loc 8 = s.value r.loc 8 - 1 ∧ (t.core core).ring = (s.core core).ring)
      ∧ (r.op = .cdec → field (s.value r.loc 8) 32 1 = 1 → field (s.value r.loc 8) 0 32 = 1 →
          t.value r.loc 8 = s.value r.loc 8 / 2 ^ 33 * 2 ^ 33
          ∧ (t.core core).ring = (s.core core).ring ++ [{ loc := r.loc, va := r.va, launch := r.launch, aborts := 0 }])

/-- Codelets, from the request to the owner core. -/
def Obligations.CodeletsRun : Prop := codeletsRequest ∧ ownerAtomics

/-- 12 R259: a `spawn` that nothing holds back gives each lane 0 where its rank was claimed and else 1 (a helper lane 0), and sends the
claimed lanes' contexts, with `a0` to `a7`, the PC and the rank, to the cores that the entries name. `ats` are the places of the entries
of the ranks in the table, `u` is the state once they are found and `w` that with the claims made, in lane order, each a tagged request
that its home performs in the step of the `spawn` (the model's choice, L28). -/
def Obligations.SpawnSends : Prop :=
  ∀ (s u w : State) (b a d : BitVec 5) (ats got : List (Nat × Nat)), s.canIssue (.spawn b a d) = true → s.cleanX a = true →
    s.cleanX b = true → (∀ l, l ∈ s.own.workers s.issue → ((s.own.lane l).rx a.toNat).v.toNat % 4 = 0) →
    s.claimAts (unitOf s.here) (s.own.launch.getD 0) (fun l => ((s.own.lane l).rx b.toNat).v) (s.own.workers s.issue)
      = (u, ats.map fun e => (e.1, .at_ e.2)) →
    s.own.task = none → u.sendFull s.here (s.own.workers s.issue).length = false → s.own.counterFull .ms = false →
    u.released s.here 3 = true → u.allAtHome (ats.map (·.2 / 128)) = true →
    (∀ l, l ∈ s.own.workers s.issue → u.changingRank (s.own.launch.getD 0) ((s.own.lane l).rx b.toNat).v.toNat = false) →
    (∀ e, e ∈ ats → u.tagRoom e.2 ats.length (s.own.tag s.here) = true) → u.claimAll s.here ats = (w, got) →
    ∃ t, exec (.spawn b a d) s = .next t ∧ t.mem = w.mem ∧ (∀ k, k ≠ s.here → t.ctx k = w.ctx k)
      ∧ t.net.length = w.net.length + got.length
      ∧ (∀ e, e ∈ got → ∃ m q, m ∈ t.net ∧ m.body = .tagged q ∧ q.op = .arrival ∧ q.n = w.destCore e.2 ∧ q.cargo
          = .light (s.own.spawned e.1 ((s.own.lane e.1).rx a.toNat).v ((s.own.lane e.1).rx b.toNat).v) false)
      ∧ ∀ l, l ∈ s.issue → ((t.ctx s.here).lane l).pc = (s.own.lane l).pc + 4
          ∧ ((t.ctx s.here).lane l).rx d.toNat = (if d = 0#5 then Reg.zero else
              Reg.of (boolWord (!(s.own.lane l).helper && !(got.any fun e => e.1 == l))) false)
          ∧ ∀ r, r ≠ d.toNat → ((t.ctx s.here).lane l).rx r = (s.own.lane l).rx r

/-- Nothing keeps a context from leaving its unit: no counted operation and no load is outstanding, no store of it waits, no line of the L1D
carries its tag, and its releases are performed (05 R106; 12 R260). -/
def Sys2Proof.Machine.State.settled (s : State) : Prop :=
  s.own.cnt.idle = true ∧ s.loading s.own = false ∧ (Tbl.get [] s.storeQ (unitOf s.here)).any (fun e => e.uid == s.own.uid) = false
  ∧ (s.l1 (unitOf s.here)).any (fun l => l.taggedBy s.own.tagEnt) = false ∧ s.released s.here 5 = true
  ∧ s.released s.here 3 = true

/-- 12 R260: a `migrate` to the own core retires (one by rank, when it is not in the 64 clk before the entry is read again); to another core, with
the context settled, it asks for the entry's change to in transit
with the context that is to move, its PC past the instruction, and waits. The answer writes the entry at its home, and the context
leaves its set with the events that are pending for it; the set falls free where no light thread waits for it. -/
def Obligations.MigrationLeaves : Prop :=
  (∀ (s : State) (i : Instr) (core : Nat), s.canIssue i = true → s.own.phase ≠ 1 →
    (match i with
      | .migrateAddr a => s.cleanX a = true ∧ ∃ p, s.xlat s.here 0 (s.own.leadX s.issue a.toNat).v = .ok p ∧ p.home = .core
          ∧ coreOf p.loc = core
      | .migrateRank a => s.cleanX a = true ∧ s.own.lookAt ≤ s.now s.here ∧ ∃ e, s.rankIs (s.own.leadX s.issue a.toNat).v e ∧ entryState e.toNat ≠ 0
          ∧ entryState e.toNat ≠ 3 ∧ entryPkg e.toNat = s.ownPkg ∧ entryCore e.toNat = core
      | _ => False) →
    (core = unitOf s.here → Retires i s)
    ∧ (core ≠ unitOf s.here → s.settled → ∃ t, exec i s = .next t ∧ t.mem = s.mem ∧ (t.ctx s.here).phase = 1
        ∧ (∀ l, (t.ctx s.here).lane l = s.own.lane l) ∧ (∀ k, k ≠ s.here → t.ctx k = s.ctx k)
        ∧ ∃ m, m ∈ t.net ∧ m.body = .transit s.own.uid (s.own.toLight (s.own.launch.getD 0)) core))
  ∧ ∀ (s u : State) (k j uid core a : Nat) (l : Light) (m : NetMsg), s.msg k = some m → m.body = .transit uid l core →
      s.keyOf uid = some j → (s.ctx j).phase = 1 → s.rankHome (unitOf j) l.launch l.rank.toNat = (u, .at_ a) →
      u.atHome a = true → u.sendFull j 1 = false → u.changingRank l.launch l.rank.toNat = false →
      u.tagRoom a 1 ((s.ctx j).tag j) = true → (s.core (unitOf j)).arrivals = [] →
      ∃ t, exec (.migrateTransitReply k) s = .next t ∧ t.ctx j = Ctx.vacant
        ∧ t.value a 8 = EntryOp.transit.apply (u.value a 8) % 2 ^ 64
        ∧ ∃ n q, n ∈ t.net ∧ n.body = .tagged q ∧ q.op = .arrival ∧ q.n = core
            ∧ q.cargo = .light { l with mcPend := (s.ctx j).mcPend, uPend := (s.ctx j).uPend, preempt := (s.ctx j).preempt } true

/-- 12 R250: `hend` ends a handler task whose held sends have all left; it ends a settled thread, whose set falls free. -/
def Sys2Proof.Machine.hendEnds : Prop :=
  (∀ (s : State), s.canIssue .hend = true → isHandler s.here = true → s.own.cnt.ld = 0 → s.own.cnt.st = 0 →
    (s.own.task = none ∨ ∃ k, s.own.task = some k ∧ k.held = []) →
    ∃ t, exec .hend s = .next t ∧ OnlyAt s.here s t ∧ (t.ctx s.here).task = none ∧ (t.ctx s.here).lanes = [])
  ∧ ∀ (s : State), s.canIssue .hend = true → isHandler s.here = false → s.settled → s.own.light = false →
      (s.core (unitOf s.here)).arrivals = [] →
      ∃ t, exec .hend s = .next t ∧ OnlyAt s.here { s with tags := t.tags, trapCsrs := t.trapCsrs } t ∧ t.ctx s.here = Ctx.vacant

/-- 12 R263: `yield` in the handler set is a no-op; a thread or wave that no light context waits for goes on, and stands back in the 16 clk after this
one; the end of that time makes it choosable. -/
def Sys2Proof.Machine.yieldsGiveWay : Prop :=
  (∀ (s : State), s.canIssue .yield = true → isHandler s.here = true → Retires .yield s)
  ∧ (∀ (s : State), s.canIssue .yield = true → isHandler s.here = false → s.own.light = false →
      ∃ t, exec .yield s = .next t ∧ OnlyAt s.here s t ∧ (t.ctx s.here).yieldTil = some (s.now s.here + 17)
        ∧ ∀ l, l ∈ s.issue → (t.ctx s.here).lane l = { s.own.lane l with pc := (s.own.lane l).pc + 4 })
  ∧ ∀ (s : State) (p : Place) (n : Nat), (s.ctx p.key).yieldTil = some n → n ≤ s.now p.key →
      ∃ t, exec (.yieldExpiry p) s = .next t ∧ OnlyAt p.key s t ∧ t.ctx p.key = { s.ctx p.key with yieldTil := none }

/-- How a task, a thread or a turn ends. -/
def Obligations.EndsAndYields : Prop := hendEnds ∧ yieldsGiveWay

/-- 12 R240, R241: the reply to a lookup gives its context the entry; a held message is read again when it is due: it stays while its rank is in
transit, and leaves for the core of the entry when the move is over. -/
def Sys2Proof.Machine.ranksAreFound : Prop :=
  (∀ (s u : State) (k uid l j : Nat) (r : Word) (v : LookRes) (m : NetMsg), s.msg k = some m → m.body = .lookup uid l r →
    s.deliverable m = true → (s.dropMsg k).keyOf uid = some j → (s.dropMsg k).readRank (.ctx uid) (unitOf j) l r = (u, some v) →
    ∃ t, exec (.rankLookupReply k) s = .next t ∧ (t.ctx j).look = (r, v) :: (u.ctx j).look.filter (fun e => e.1 != r)
      ∧ ∀ x, x ≠ j → t.ctx x = u.ctx x)
  ∧ ∀ (s u : State) (k : Nat) (r : TagReq) (q : Message) (e : Word) (m : NetMsg), s.msg k = some m → m.body = .heldMsg r →
      r.cargo = .message q → m.due ≤ s.msgClk m → s.heldBefore m.id r = false →
      s.readRank (.msg m.id) (unitOf r.place) q.launch (zext q.rank) = (u, some (.entry e)) →
      (entryState e.toNat = 3 → exec (.heldMessageReread k) s = .next (u.setMsg { m with due := u.msgClk m + 64 }))
      ∧ (entryState e.toNat ≠ 0 → entryState e.toNat ≠ 3 → ∃ t, exec (.heldMessageReread k) s = .next t
          ∧ (∃ n, n ∈ t.net ∧ n.lane = m.lane
              ∧ n.body = .tagged { r with n := u.destCore e.toNat, loc := u.destCore e.toNat * 128 })
          ∧ t.msg u.nextId ≠ none)

/-- A request that carries a message or a context can be put before its core: the path is up, the core stands in this package, and its
table of 256 entries has room and does not hold the tag (12 R241, R242). -/
def Sys2Proof.Machine.State.reaches (s : State) (r : TagReq) : Prop :=
  let dd := (s.core r.n).dedup.filter fun e => !s.confirmed r.place r.uid r.ack e
  s.mgmt.failedHomes.contains (s.tagHome r) = false ∧ r.core = r.n ∧ foreign r.n = false
  ∧ s.standing r.n = true ∧ dd.length < 256
  ∧ ∀ e, e ∈ dd → e.holds r = false

/-- 12 R242, R243, R245, R258: a message or a light context that reaches a core with enough free places enters at the tail of its queue, with
an entry of the core's table; with too few it is refused, to come again 256 clk later, and the queue stays. -/
def Sys2Proof.Machine.admissionQueues : Prop :=
  (∀ (s : State) (k : Nat) (r : TagReq) (q : Message) (m : NetMsg), s.msg k = some m → m.body = .tagged r → r.cargo = .message q →
    s.deliverable m = true → s.reaches r →
    let v := r.n
    ∃ t, exec (.messageAdmission k) s = .next t
      ∧ (placesNeeded m.refused ≤ 128 - (s.core v).inq.length →
          (t.core v).inq = (s.core v).inq ++ [{ q with id := (s.core v).msgId }] ∧ (t.core v).msgId = (s.core v).msgId + 1
          ∧ ∃ e, e ∈ (t.core v).dedup ∧ e.holds r = true ∧ e.done = true)
      ∧ (128 - (s.core v).inq.length < placesNeeded m.refused → t.core v = { s.core v with dedup := (t.core v).dedup }
          ∧ ∃ n, n ∈ t.net ∧ n.body = m.body ∧ n.refused = m.refused + 1 ∧ n.due = s.msgClk m + 256))
  ∧ ∀ (s : State) (k : Nat) (r : TagReq) (l : Light) (m : NetMsg), s.msg k = some m → m.body = .tagged r → r.cargo = .light l false →
      s.deliverable m = true → s.reaches r → s.freeSet r.n = none →
      let v := r.n
      ∃ t, exec (.arrivalAdmission k) s = .next t
        ∧ (placesNeeded m.refused ≤ 256 - (s.core v).arrivals.length → (t.core v).arrivals = (s.core v).arrivals ++ [l])
        ∧ (256 - (s.core v).arrivals.length < placesNeeded m.refused → t.core v = { s.core v with dedup := (t.core v).dedup }
            ∧ ∃ n, n ∈ t.net ∧ n.body = m.body ∧ n.refused = m.refused + 1 ∧ n.due = s.msgClk m + 256)

/-- The network interfaces: lookups, held messages and admission. -/
def Obligations.NetworkInterfaces : Prop := ranksAreFound ∧ admissionQueues

/-- 12 R247, R248: a free handler set takes the oldest message, or where none waits the oldest codelet, and runs it in U mode in lane 0 with the
registers of the rule and a fresh budget, where no load of an aborted task is still to come and no request of it has failed; the expiry of the
budget raises cause 28 with `tval` 0, once the replies to earlier instructions are in. -/
def Obligations.HandlerTasksRun : Prop :=
  (∀ (s : State) (core : Nat) (m : Message) (r : List Message), core % 128 < 64 → (s.ctx (core * 32 + 4)).handlerFree = true →
    s.awaiting (s.ctx (core * 32 + 4)) = false → (s.ctx (core * 32 + 4)).remote = [] → s.unitHeld core = false →
    (s.core core).inq = m :: r → s.launchSaved m.launch = false → (s.core core).ring = [] →
    ∃ t, exec (.handlerTaskStart core) s = .next t ∧ (t.core core).inq = r
      ∧ (t.ctx (core * 32 + 4)).task
          = some { work := .message m, deadline := none, held := [], claimed := [] }
      ∧ (t.ctx (core * 32 + 4)).mode = .u ∧ (t.ctx (core * 32 + 4)).lanes.map (·.1) = [0]
      ∧ ((t.ctx (core * 32 + 4)).lane 0).pc = m.pc ∧ ((t.ctx (core * 32 + 4)).lane 0).st = .runnable
      ∧ ((t.ctx (core * 32 + 4)).lane 0).rx 5 = Reg.of m.sender false
      ∧ ((t.ctx (core * 32 + 4)).lane 0).rx 6 = Reg.of (BitVec.ofNat 64 (m.id.toNat + (m.n - 1) * 2 ^ 16 + m.scope * 2 ^ 19)) false
      ∧ ∀ j, j < m.payload.length → m.payload.length ≤ 8 →
          ((t.ctx (core * 32 + 4)).lane 0).rx (10 + j) = m.payload.getD j Reg.zero)
  ∧ (∀ (s : State) (core : Nat) (c : Codelet) (r : List Codelet), core % 128 < 64 → (s.ctx (core * 32 + 4)).handlerFree = true →
      s.awaiting (s.ctx (core * 32 + 4)) = false → (s.ctx (core * 32 + 4)).remote = [] → s.unitHeld core = false →
      (s.core core).inq = [] → (s.core core).ring = c :: r → s.launchSaved c.launch = false →
      ∃ t, exec (.handlerTaskStart core) s = .next t ∧ (t.core core).ring = r ∧ (t.core core).armed = (s.core core).armed - 1
        ∧ (t.ctx (core * 32 + 4)).task
            = some { work := .codelet c, deadline := none, held := [], claimed := [] }
        ∧ (t.ctx (core * 32 + 4)).mode = .u ∧ ((t.ctx (core * 32 + 4)).lane 0).st = .runnable
        ∧ ((t.ctx (core * 32 + 4)).lane 0).pc = BitVec.ofNat 64 (s.value (c.loc + 8) 8)
        ∧ ((t.ctx (core * 32 + 4)).lane 0).rx 10 = Reg.of c.va false)
  ∧ ∀ (s : State) (p : Place), s.budgetDue p.key = true →
      exec (.budgetExpiry p) s
        = .next (if s.awaiting (s.ctx p.key) then s else s.trap p.key 28 0 (s.ctx p.key).nextPc (s.ctx p.key).executing)

/-! ## Votes, exchange and short vectors -/

/-- What a lane receives in an exchange: X[rs1] of its source lane, or its own where that lane does not execute, poisoned with it or by the
index (13 R275). -/
def Sys2Proof.Machine.State.given (s : State) (a : BitVec 5) (n src : Nat) (bad : Bool) : Reg :=
  let v := (s.own.lane (if src ∈ s.issue then src else n)).rx a.toNat
  Reg.of v.v (v.p || bad)

/-- The bits of a ballot: bit `b` is 1 where the worker of that number holds a value that is not 0 (13 R274). -/
def Sys2Proof.Machine.State.ballotBits (s : State) (a : BitVec 5) : Word :=
  BitVec.ofNat 64 ((List.range 64).foldr (fun b n => 2 * n +
    if (s.own.workers s.issue).any fun l => (if s.own.ganged then l % 32 else l) == b && ((s.own.lane l).rx a.toNat).v != 0 then 1 else 0) 0)

/-- The register of a lane that need not execute can be read: it is present, and no load to it is under way (13 R275; 15 R326). -/
def Sys2Proof.Machine.State.laneReady (s : State) (l : Nat) (a : BitVec 5) : Bool :=
  !Tbl.get false s.own.absent (l * 128 + a.toNat) && !s.hazard s.own.uid [l] [a.toNat]

/-- A vote or an exchange: rd, and what each executing lane receives (13 R274 to R276). -/
def Sys2Proof.Machine.State.waveRow (s : State) : Instr → Option (BitVec 5 × (Nat → Reg))
  | .voteAny a d => some (d, fun _ => Reg.of (if ∃ l, l ∈ s.own.workers s.issue ∧ ((s.own.lane l).rx a.toNat).v ≠ 0 then 1 else 0)
      ((s.own.workers s.issue).any fun l => ((s.own.lane l).rx a.toNat).p))
  | .voteAll a d => some (d, fun _ => Reg.of (if ∀ l, l ∈ s.own.workers s.issue → ((s.own.lane l).rx a.toNat).v ≠ 0 then 1 else 0)
      ((s.own.workers s.issue).any fun l => ((s.own.lane l).rx a.toNat).p))
  | .ballot a d => some (d, fun _ => Reg.of (s.ballotBits a) ((s.own.workers s.issue).any fun l => ((s.own.lane l).rx a.toNat).p))
  | .shfl b a d => some (d, fun n =>
      let x := (s.own.lane n).rx b.toNat
      s.given a n (s.own.laneAt n (x.v.toNat % 64)) x.p)
  | .shflXor b a d => some (d, fun n =>
      let x := (s.own.lane n).rx b.toNat
      s.given a n (s.own.laneAt n (n ^^^ (x.v.toNat % 64))) x.p)
  | .rdlane b a d => (s.own.lead s.issue).bind fun l =>
      let x := (s.own.lane l).rx b.toNat
      let src := s.own.laneAt l (x.v.toNat % 64)
      let v := (s.own.lane src).rx a.toNat
      if s.laneReady src a then some (d, fun _ => Reg.of v.v (v.p || x.p)) else none
  | .quadSx a d => some (d, fun n => s.given a n (n ^^^ 1) false)
  | .quadSy a d => some (d, fun n => s.given a n (n ^^^ 2) false)
  | .quadSd a d => some (d, fun n => s.given a n (n ^^^ 3) false)
  | .quadBc i a d => some (d, fun n => s.given a n (n / 4 * 4 + i.toNat) false)
  | .ishelper d => some (d, fun n => Reg.of (if (s.own.lane n).helper then 1 else 0) false)
  | _ => none

/-- 13 R274 to R276: a vote, a ballot, an exchange or `ishelper` gives each executing lane its value in rd and changes nothing else; `rdlane` waits
while a load to the register that it reads is under way in its source lane. -/
def Obligations.WaveExchanges : Prop :=
  (∀ (s : State) (b a d : BitVec 5) (l : Nat), s.canIssue (.rdlane b a d) = true → s.own.lead s.issue = some l →
    let src := s.own.laneAt l (((s.own.lane l).rx b.toNat).v.toNat % 64)
    Tbl.get false s.own.absent (src * 128 + a.toNat) = false → s.hazard s.own.uid [src] [a.toNat] = true →
    exec (.rdlane b a d) s = .next s)
  ∧ ∀ (s : State) (i : Instr) (d : BitVec 5) (f : Nat → Reg), s.waveRow i = some (d, f) → s.canIssue i = true →
    ∃ t, exec i s = .next t ∧ OnlyAt s.here s t ∧ OnlyLanes s.own (t.ctx s.here) s.issue ∧ ∀ l, l ∈ s.issue →
      ((t.ctx s.here).lane l).pc = (s.own.lane l).pc + 4
      ∧ ((t.ctx s.here).lane l).rx d.toNat = (if d = 0#5 then Reg.zero else f l)
      ∧ (∀ r, r ≠ d.toNat → ((t.ctx s.here).lane l).rx r = (s.own.lane l).rx r)
      ∧ ((t.ctx s.here).lane l).f = (s.own.lane l).f ∧ ((t.ctx s.here).lane l).fcsr = (s.own.lane l).fcsr

/-- An element-wise instruction on w registers: the length, the sources, the destination and the operation on one element (13 R282). -/
def Sys2Proof.Machine.Instr.vecRow : Instr → Option (BitVec 1 × List (BitVec 5) × BitVec 5 × (Fmt → Rnd → List Nat → Nat × FFlags))
  | .vadd t b a d => some (t, [a, b], d, fun f r e => addVal f r (decodeFp f (e.getD 0 0)) (decodeFp f (e.getD 1 0)))
  | .vsub t b a d => some (t, [a, b], d, fun f r e => addVal f r (decodeFp f (e.getD 0 0)) (decodeFp f (e.getD 1 0)).negate)
  | .vmul t b a d => some (t, [a, b], d, fun f r e => mulVal f r (decodeFp f (e.getD 0 0)) (decodeFp f (e.getD 1 0)))
  | .vmin t b a d => some (t, [a, b], d, fun f _ e => minMaxFp f false (e.getD 0 0) (e.getD 1 0))
  | .vmax t b a d => some (t, [a, b], d, fun f _ e => minMaxFp f true (e.getD 0 0) (e.getD 1 0))
  | .vfma c t b a d =>
    some (t, [a, b, c], d, fun f r e => fmaVal f r (decodeFp f (e.getD 0 0)) (decodeFp f (e.getD 1 0)) (decodeFp f (e.getD 2 0)))
  | _ => none

/-- 13 R282, 07 R126, R129: a short-vector operation writes the operation's result of each element, poisoned where a source element is; the flags
of all elements accrue in the thread's `fcsr` unless an element is poisoned; `vbc` fills a w register with one value and raises no
flag. No other register changes. -/
def Sys2Proof.Machine.vectorResults : Prop :=
  (∀ (s : State) (i : Instr) (t : BitVec 1) (srcs : List (BitVec 5)) (d : BitVec 5) (f : Fmt → Rnd → List Nat → Nat × FFlags),
    Instr.vecRow i = some (t, srcs, d, f) → s.canIssue i = true → s.issue = [0] →
    ∃ u, exec i s = .next u ∧ OnlyAt s.here s u ∧
      let dbl := decide (t = 1#1)
      let es := srcs.map fun r => (s.own.rw r.toNat).elems dbl
      let res := fun (j : Nat) => f (fpFmt dbl) (rndOf (s.own.lane 0).frm) (es.map fun e => (e.getD j (0, false)).1)
      let n := if dbl then 4 else 8
      let bad := es.any fun e => e.any (·.2)
      (u.ctx s.here).rw d.toNat
        = WReg.ofElems dbl ((List.range n).map fun j => ((res j).1, es.any fun e => (e.getD j (0, false)).2))
      ∧ (∀ r, r ≠ d.toNat → (u.ctx s.here).rw r = s.own.rw r)
      ∧ (u.ctx s.here).lane 0 = { s.own.lane 0 with
          pc := (s.own.lane 0).pc + 4
          fcsr := if (s.own.lane 0).helper || bad then (s.own.lane 0).fcsr
                  else (s.own.lane 0).fcsr ||| BitVec.ofNat 8 ((List.range n).foldl (fun g j => flagOr g (res j).2) 0 % 32) })
  ∧ ∀ (s : State) (t : BitVec 1) (a d : BitVec 5), s.canIssue (.vbc t a d) = true →
      ∃ u, exec (.vbc t a d) s = .next u ∧ OnlyAt s.here s u ∧
        let v := (s.own.lane 0).rf a.toNat
        let dbl := decide (t = 1#1)
        (u.ctx s.here).rw d.toNat = WReg.ofElems dbl (List.replicate (if dbl then 4 else 8) (fpUnbox dbl v.v, v.p))
        ∧ (∀ r, r ≠ d.toNat → (u.ctx s.here).rw r = s.own.rw r)
        ∧ ∀ l, l ∈ s.issue → (u.ctx s.here).lane l = { s.own.lane l with pc := (s.own.lane l).pc + 4 }

/-- 07 R124, 13 R282: the elements of a w register are the values that were written, in order, each with its poison bit; at 64 bits an element's
two poison bits are one. -/
def Sys2Proof.Machine.vectorElements : Prop :=
  ∀ (dbl : Bool) (es : List (Nat × Bool)), es.length = (if dbl then 4 else 8) →
    (∀ e, e ∈ es → e.1 < 2 ^ if dbl then 64 else 32) → (WReg.ofElems dbl es).elems dbl = es

/-- Short vectors: the operations, and the elements of a register. -/
def Obligations.ShortVectors : Prop := vectorResults ∧ vectorElements

/-- 13 R283: `bsort` leaves its eight pairs, and `bmerge` its sixteen, in ascending order of their keys: the same pairs, ordered as
unsigned numbers or as FP32 values; a poisoned key poisons every element, else a value keeps its poison. -/
def Obligations.SortsOrder : Prop :=
  ∀ (s : State) (i : Instr) (fp : Bool) (l : List KV) (d : BitVec 5),
    (match i with
      | .bsort t a e => e = d ∧ fp = decide (t = 1#1) ∧ l = s.own.pairsOf a.toNat
      | .bmerge t b a e => e = d ∧ fp = decide (t = 1#1) ∧ l = s.own.pairsOf a.toNat ++ s.own.pairsOf b.toNat
      | _ => False) →
    s.canIssue i = true →
    ∃ t, exec i s = .next t ∧ OnlyAt s.here s t
      ∧ (∀ m, m ∈ s.issue → (t.ctx s.here).lane m = { s.own.lane m with pc := (s.own.lane m).pc + 4 })
      ∧ (∀ r, r < d.toNat ∨ d.toNat + l.length / 4 ≤ r → (t.ctx s.here).rw r = s.own.rw r)
      ∧ let out := (List.range (l.length / 8)).flatMap fun j => (t.ctx s.here).pairsOf (d.toNat + 2 * j)
        (out.map fun e => (e.key, e.val)).Perm (l.map fun e => (e.key, e.val))
        ∧ out.Pairwise (fun x y => sortKey fp x.key ≤ sortKey fp y.key)
        ∧ (∀ e, e ∈ out → e.kp = l.any (·.kp))
        ∧ (l.any (·.kp) = false → (out.map fun e => (e.key, e.val, e.vp)).Perm (l.map fun e => (e.key, e.val, e.vp)))

/-! ## Waves: parking, crossing, gathering and returning -/

/-- The lanes of the context are listed in order. -/
def Sys2Proof.Machine.State.lanesOrdered (s : State) : Prop := (s.own.lanes.map (·.1)).Pairwise (· < ·)

/-- Every lane of the context that does not execute is finished or idle. -/
def Sys2Proof.Machine.State.allHere (s : State) : Prop := ∀ l, l ∉ s.issue → (s.own.lane l).st = .finished ∨ (s.own.lane l).st = .idle

/-- A lane that does not execute still holds work and is not parked. -/
def Sys2Proof.Machine.State.laneAtWork (s : State) : Prop :=
  ∃ l, l ∉ s.issue ∧ (s.own.lane l).st ≠ .finished ∧ (s.own.lane l).st ≠ .idle ∧ (s.own.lane l).st ≠ .wsync
    ∧ (s.own.lane l).st ≠ .regroup

/-- 13 R271: `wsync` parks the executing lanes where another lane of the wave is still at work; where every unfinished lane has come it
retires, once the stores of the wave have left the store queue. In any wave, a ganged pair's halves each by themselves (13 R265), the
lanes that the rule then releases (`Ctx.freed`) go on after their `wsync`. -/
def Sys2Proof.Machine.wsyncCompletes : Prop :=
  ∀ (s : State), s.canIssue .wsync = true → s.lanesOrdered →
    (s.own.ganged = false → s.laneAtWork → ∃ t, exec .wsync s = .next t ∧ OnlyAt s.here s t ∧ OnlyLanes s.own (t.ctx s.here) s.issue
      ∧ ∀ l, l ∈ s.issue → (t.ctx s.here).lane l = { s.own.lane l with st := .wsync })
    ∧ (s.own.ganged = false → s.allHere → s.storing s.here = false → Retires .wsync s)
    ∧ let c := s.own.modLanes s.issue fun _ l => { l with st := .wsync }
      (c.freed ≠ [] → s.storing s.here = true → exec .wsync s = .next s)
      ∧ ((c.freed = [] ∨ s.storing s.here = false) → ∃ t, exec .wsync s = .next t ∧ OnlyAt s.here s t
          ∧ ∀ l, (t.ctx s.here).lane l
              = if l ∈ c.freed then { c.lane l with st := .runnable, pc := (c.lane l).pc + 4 } else c.lane l)

/-- 13 R272: `regroup` parks the executing lanes with their source register named, and is counted among the wave's parks, while another lane of
the wave is still at work, or where every other lane is finished or stands at a `regroup` of the same PC. -/
def Sys2Proof.Machine.regroupCompletes : Prop :=
  ∀ (s : State) (a : BitVec 5), s.canIssue (.regroup a) = true → s.lanesOrdered → s.own.ganged = false → s.cleanX a = true →
    (s.laneAtWork ∨ ∀ l m, l ∉ s.issue → m ∈ s.issue → (s.own.lane l).st = .finished ∨ (s.own.lane l).st = .idle
      ∨ ((s.own.lane l).st = .regroup ∧ (s.own.lane l).pc = (s.own.lane m).pc)) →
    ∃ t, exec (.regroup a) s = .next t ∧ OnlyAt s.here s t ∧ (t.ctx s.here).parks = s.own.parks + 1
      ∧ OnlyLanes s.own { t.ctx s.here with parks := s.own.parks } s.issue
      ∧ ∀ l, l ∈ s.issue → (t.ctx s.here).lane l = { s.own.lane l with st := .regroup, park := a }

/-- The instructions at which the lanes of a wave wait for each other complete: `wsync` and `regroup`. -/
def Obligations.WavesPark : Prop := wsyncCompletes ∧ regroupCompletes

/-- 13 R272, R273: when every wave of a crew stands at one `regroup` PC with its releases performed and its survivors' registers present, the lanes that go on fill the waves in
order, 64 to a wave, with their registers, at the PC after the `regroup`; a wave left without a lane ends. -/
def Obligations.RegroupFillsWaves : Prop :=
  ∀ (s : State) (launch crew : Nat) (p : Word),
    let mine := fun (e : Nat × Ctx) =>
      e.2.status != .vacant && e.2.launch == some launch && e.2.crew == some crew && !e.2.gath
    let ws := s.ctxs.filter mine
    ws ≠ [] → s.saved.filter mine = [] → (s.ctxs.map (·.1)).Nodup →
    (∀ e, e ∈ ws → e.2.arrivedAt = some p ∧ e.2.status = .resident ∧ s.released e.1 3 = true ∧ e.2.grouped = false
      ∧ e.2.flushWait = false ∧ e.2.missing = []) →
    let sorted := ws.foldr insertWave []
    let all := sorted.flatMap fun e => e.2.survivors
    ∃ t, exec (.regroupMerge launch crew) s = .next t ∧ t.mem = s.mem
      ∧ (∀ k, k ∉ ws.map (·.1) → t.ctx k = s.ctx k)
      ∧ ∀ n e, sorted[n]? = some e →
        let mine := (all.drop (64 * n)).take 64
        (mine = [] → (t.ctx e.1).status = .ending)
        ∧ ∀ j x, mine[j]? = some x → (t.ctx e.1).lane j = { x with pc := p + 4, st := .runnable, depth := 0 }

/-- 13 R266: a `wavego` whose operands are good, once its counters are 0 and its release is performed, sends the crossing to the Tun of its
cluster with its PC and map, and the thread waits as crossed. -/
def Sys2Proof.Machine.wavegoCrosses : Prop :=
  ∀ (s : State) (b a : BitVec 5) (ps : List Piece), s.canIssue (.wavego b a) = true → s.cleanX a = true → s.cleanX b = true →
    let pc := ((s.own.lane 0).rx a.toNat).v
    let map := ((s.own.lane 0).rx b.toNat).v
    pc.toNat % 4 = 0 → map.toNat % 128 = 0 → s.pieces s.here 0 map 128 1 = .ok ps → (∀ p, p ∈ ps → mapHome p.at_.home = true) →
    s.own.cnt.ld = 0 → s.own.cnt.mx = 0 → s.loading s.own = false → s.released s.here 3 = true →
    s.net.length < 64 →
    ∃ t, exec (.wavego b a) s = .next t ∧ t.mem = s.mem ∧ (t.ctx s.here).crossed = true
      ∧ (∀ l, (t.ctx s.here).lane l = s.own.lane l) ∧ (∀ k, k ≠ s.here → t.ctx k = s.ctx k)
      ∧ ∃ m, m ∈ t.net ∧ m.body = .tun s.own.uid (clusterOf s.here) pc map (encode (.wavego b a))

/-- The IN registers of a map are present in the thread, where it is resident (15 R326). -/
def Sys2Proof.Machine.State.insPresent (s : State) (uid : Nat) (es : List MapEnt) : Prop :=
  ∀ j, s.keyOf uid = some j → (s.ctx j).firstAbsent [0] ((es.filter (·.inn)).map (·.sreg)) = none

/-- 17 R360: a crossing that reaches the Tun joins the bin of its key, or takes a free bin with the map that it names; a bin that meets its
threshold or its timeout becomes a gathered wave of the cluster's queue; `wflush` does so with the bins of its PC, or with all. -/
def Sys2Proof.Machine.tunGathers : Prop :=
  (∀ (s : State) (k uid cl i : Nat) (pc map : Word) (word : BitVec 32) (m : NetMsg) (c : Ctx) (b : Bin), s.msg k = some m →
    m.body = .tun uid cl pc map word → s.byUid uid = some c → (s.cluster cl).matchBin c pc map = some (i, b) → b.frozen = false →
    (∀ j x, j < 16 → j ≠ i → Tbl.get none (s.cluster cl).bins j = some x → (s.cluster cl).binDue (s.clusterClk cl) x = false) →
    s.insPresent uid b.ents →
    let b' := { b with reqs := b.reqs ++ [c.tunReq (s.clusterClk cl)] }
    ∃ t, exec (.tunRequest k) s = .next t ∧ t.msg k = none ∧ (∀ d, d ≠ cl → t.cluster d = s.cluster d) ∧ t.ctxs = s.ctxs ∧ t.mem = s.mem
      ∧ ((s.cluster cl).binDue (s.clusterClk cl) b' = false →
          Tbl.get none (t.cluster cl).bins i = some b' ∧ (t.cluster cl).gathQ = (s.cluster cl).gathQ)
      ∧ ((s.cluster cl).binDue (s.clusterClk cl) b' = true → (s.cluster cl).gathQ.length < 32 →
          Tbl.get none (t.cluster cl).bins i = none ∧ (t.cluster cl).gathQ = (s.cluster cl).gathQ ++ [b']))
  ∧ (∀ (s u : State) (k uid cl i : Nat) (pc map : Word) (word : BitVec 32) (m : NetMsg) (c : Ctx) (es : List MapEnt), s.msg k = some m →
      m.body = .tun uid cl pc map word → s.byUid uid = some c → (s.cluster cl).matchBin c pc map = none →
      s.tunMap cl c map word = (u, some (.ok es)) → u.insPresent uid es →
      (List.range 16).find? (fun i => Tbl.get none (u.cluster cl).bins i == none) = some i →
      (∀ j x, j < 16 → Tbl.get none (u.cluster cl).bins j = some x → (u.cluster cl).binDue (u.clusterClk cl) x = false) →
      (u.cluster cl).binDue (u.clusterClk cl) (c.bin pc map es (u.clusterClk cl)) = false →
      ∃ t, exec (.tunRequest k) s = .next t ∧ t.msg k = none
        ∧ Tbl.get none (t.cluster cl).bins i = some (c.bin pc map es (u.clusterClk cl)))
  ∧ (∀ (s : State) (cl bin : Nat) (b : Bin), Tbl.get none (s.cluster cl).bins bin = some b →
      (b.frozen = true ∨ (s.cluster cl).binDue (s.clusterClk cl) b = true) → (s.cluster cl).gathQ.length < 32 →
      ∃ t, exec (.tunBinTimeout cl bin) s = .next t ∧ t = { s with clusters := t.clusters }
        ∧ t.cluster cl = { s.cluster cl with
            bins := Tbl.set none (s.cluster cl).bins bin none, gathQ := (s.cluster cl).gathQ ++ [{ b with frozen := false }] }
        ∧ ∀ d, d ≠ cl → t.cluster d = s.cluster d)
  ∧ ∀ (s : State) (a : BitVec 5) (l : Nat), s.canIssue (.wflush a) = true → s.own.lead s.issue = some l →
      ((s.own.lane l).rx a.toNat).p = false → (s.cluster (clusterOf s.here)).gathQ.length ≤ 16 →
      ∃ t, exec (.wflush a) s = .next t ∧ t = { s with ctxs := t.ctxs, clusters := t.clusters }
        ∧ (∀ i b, i < 16 → Tbl.get none (s.cluster (clusterOf s.here)).bins i = some b →
            Tbl.get none (t.cluster (clusterOf s.here)).bins i
              = if a = 0#5 ∨ b.pc = ((s.own.lane l).rx a.toNat).v then none else some b)
        ∧ (∀ d, d ≠ clusterOf s.here → t.cluster d = s.cluster d) ∧ OnlyLanes s.own (t.ctx s.here) s.issue
        ∧ ∀ m, m ∈ s.issue → (t.ctx s.here).lane m = { s.own.lane m with pc := (s.own.lane m).pc + 4 }

/-- 13 R267, 17 R361, R362: the oldest gathered wave of a cluster takes a free slot of its engines with one lane for each request, in the mode and
address space of its bin. No bin of the cluster is frozen. -/
def Sys2Proof.Machine.gatheredWaveStarts : Prop :=
  ∀ (s : State) (cl k : Nat) (b : Bin) (q : List Bin), (s.cluster cl).gathQ = b :: q → s.gatherSlot cl = some k →
    (∀ i x, Tbl.get none (s.cluster cl).bins i = some x → x.frozen = false) →
    ∃ t, exec (.gatheredWavePlace cl) s = .next t ∧ (t.cluster cl).gathQ = q ∧ (t.ctx k).status = .resident ∧ (t.ctx k).gath = true
      ∧ (t.ctx k).mode = b.mode ∧ (t.ctx k).csr.satp = b.satp ∧ (t.ctx k).launch = b.launch ∧ (t.ctx k).ents = b.ents
      ∧ (t.ctx k).ctxid = BitVec.ofNat 48 (2 ^ 47 + s.idCount.toNat) ∧ t.idCount = s.idCount + 1
      ∧ ∀ j r, b.reqs[j]? = some r → (t.ctx k).lane j = b.lane r

/-- The crossing of a thread, from `wavego` to the slot of its gathered wave. -/
def Obligations.CrossingToTheWideSide : Prop := wavegoCrosses ∧ tunGathers ∧ gatheredWaveStarts

/-- 13 R268, R269: `wret`, its release performed, ends its lanes; each worker that came from a thread gives it the OUT registers of its map, and the
thread goes on after its `wavego`, having counted two instructions (10 R209). Where its end lets parked lanes go on, the stores of the wave
have left the store queue (13 R271). Contexts and lanes are listed in order. -/
def Sys2Proof.Machine.wretDelivers : Prop :=
  ∀ (s : State), s.canIssue .wret = true → s.released s.here 3 = true → (s.ctxs.map (·.1)).Pairwise (· < ·) →
    s.lanesOrdered →
    ((s.own.modLanes s.issue fun _ l => { l with st := .finished }).freed = [] ∨ s.storing s.here = false) →
    ∃ t, exec .wret s = .next t ∧ (∀ l, l ∈ s.issue → ((t.ctx s.here).lane l).st = .finished)
      ∧ ∀ l uid j, l ∈ s.own.workers s.issue → (s.own.lane l).origin = some uid → s.keyOf uid = some j → j ≠ s.here →
        (∀ m, m ∈ s.own.workers s.issue → m ≠ l → (s.own.lane m).origin ≠ some uid) →
        ((s.own.ents.filter (·.out)).map (·.sreg)).Nodup → (∀ e, e ∈ s.own.ents → e.out = true → e.sreg ≠ 0) →
        (t.ctx j).crossed = false ∧ ((t.ctx j).lane 0).pc = ((s.ctx j).lane 0).pc + 4
        ∧ (t.ctx j).csr.instret = (s.ctx j).csr.instret + 2
        ∧ ∀ e, e ∈ s.own.ents → e.out = true → ((t.ctx j).lane 0).mapReg e.sreg = (s.own.lane l).mapReg e.lreg

/-- 17 R353, 07 R127: an ending wave whose operations and writes are all done leaves its slot, and its accumulator slots are free. -/
def Sys2Proof.Machine.wavesRetire : Prop :=
  ∀ (s : State) (p : Place), let k := p.key
    (s.ctx k).status = .ending → (s.ctx k).flushWait = false → (s.ctx k).cnt.ld = 0 → (s.ctx k).cnt.st = 0 → (s.ctx k).cnt.mx = 0 → s.loading (s.ctx k) = false →
    (Tbl.get [] s.storeQ (unitOf k)).any (fun e => e.uid == (s.ctx k).uid) = false →
    (s.l1 (unitOf k)).any (fun l => l.taggedBy (s.ctx k).tagEnt) = false → s.released k 5 = true →
    ∃ t, exec (.waveRetire p) s = .next t ∧ t.ctx k = Ctx.vacant ∧ (∀ j, j ≠ k → t.ctx j = s.ctx j) ∧ t.mem = s.mem
      ∧ (t.engine (unitOf k)).slots = (s.engine (unitOf k)).slots.filter fun (e : Nat × Slot) => e.2.holder != some (s.ctx k).uid

/-- How the lanes of a wave, and the wave, end. -/
def Obligations.WavesEnd : Prop := wretDelivers ∧ wavesRetire

/-! ## Drays -/

/-- Every executing lane has gone on with `v` in rd, and no other register of it has changed. -/
def Sys2Proof.Machine.State.gave (s t : State) (d : BitVec 5) (v : Word) : Prop :=
  ∀ l, l ∈ s.issue → ((t.ctx s.here).lane l).pc = (s.own.lane l).pc + 4
    ∧ ((t.ctx s.here).lane l).rx d.toNat = (if d = 0#5 then Reg.zero else Reg.of v false)
    ∧ ∀ r, r ≠ d.toNat → ((t.ctx s.here).lane l).rx r = (s.own.lane l).rx r

/-- 04 R76, R77: a launch with a bad parameter gives its reason and starts nothing; one that passes its checks gives the transfer's identifier,
counts on `cp`, and queues the transfer, with the parameters as they stand, at the Dray with fewer transfers. Which transfers count for that
(`State.pickDray`, log entry L46), and the order in which the reasons are tested (`State.launchReason`, L55), are the model's choices. -/
def Sys2Proof.Machine.cplaunchLaunches : Prop :=
  ∀ (s : State) (d : BitVec 5), s.canIssue (.cplaunch d) = true → s.own.workers s.issue ≠ [] →
    (s.launchReason s.here s.own ≠ 0 → ∃ t, exec (.cplaunch d) s = .next t ∧ OnlyAt s.here s t
      ∧ OnlyLanes s.own (t.ctx s.here) s.issue ∧ s.gave t d (BitVec.ofNat 64 (2 ^ 63 + s.launchReason s.here s.own)))
    ∧ (s.launchReason s.here s.own = 0 → s.own.launchBounds s.own.copy = none → s.own.cnt.cp < 16 → s.own.task = none →
        s.draysFull (clusterOf s.here) = false → s.released s.here 3 = true →
        ∃ t x, exec (.cplaunch d) s = .next t ∧ s.gave t d (zext s.own.nextXid)
          ∧ t.xfer s.nextId = some x ∧ x.uid = s.own.uid ∧ x.id = s.own.nextXid ∧ x.par = s.own.copy ∧ x.state = 0 ∧ x.held = false
          ∧ x.done = s.own.copy.start
          ∧ (t.ctx s.here).nextXid = s.own.nextXid + 1 ∧ (t.ctx s.here).cnt = (s.own.count .cp).cnt
          ∧ (t.dray (s.pickDray (clusterOf s.here))).queue = (s.dray (s.pickDray (clusterOf s.here))).queue ++ [s.nextId]
          ∧ (s.own.copy.barOn = false → t.mem = s.mem) ∧ ∀ k, k ≠ s.here → t.ctx k = s.ctx k)

/-- 04 R91: a write of `cpstat` selects a transfer, and with CANCEL cancels it where it is outstanding; a read gives the status of the
selected one. -/
def Sys2Proof.Machine.cpstatReadsAndCancels : Prop :=
  (∀ (s : State) (v : BitVec 64), s.canIssue (.cpstatSelect v) = true → s.own.workers s.issue ≠ [] →
    ∃ t, exec (.cpstatSelect v) s = .next t ∧ OnlyAt s.here s t ∧ (t.ctx s.here).cpSel = bits 0 17 v
      ∧ ∀ l, l ∈ s.issue → (t.ctx s.here).lane l = { s.own.lane l with pc := (s.own.lane l).pc + 4 })
  ∧ (∀ (s : State) (v : BitVec 64), s.canIssue (.cpstatCancel v) = true → s.own.workers s.issue ≠ [] →
      ∃ t, exec (.cpstatCancel v) s = .next t ∧ (t.ctx s.here).cpSel = bits 0 17 v ∧ t.mem = s.mem
        ∧ (∀ l, l ∈ s.issue → (t.ctx s.here).lane l = { s.own.lane l with pc := (s.own.lane l).pc + 4 })
        ∧ ∀ x r, s.selected { s.own with cpSel := bits 0 17 v } = some (x, r) →
            t.xfer x = some (if r.state < 2 then { r with cancelled := true } else r) ∧ ∀ y, y ≠ x → t.xfer y = s.xfer y)
  ∧ ∀ (s : State) (d : BitVec 5), s.canIssue (.cpstatRead d) = true →
      ∃ t, exec (.cpstatRead d) s = .next t ∧ s.gave t d (s.readCpstat s.own) ∧ t.mem = s.mem ∧ t.xfers = s.xfers
        ∧ ∀ k, k ≠ s.here → t.ctx k = s.ctx k

/-- The copy-engine registers: launch, selection, cancellation and status. -/
def Obligations.CopyInstructions : Prop := cplaunchLaunches ∧ cpstatReadsAndCancels

/-- 04 R80: a tile unit within the clip limits is the copy between the dense place of its number and the strided place of its indices; one
beyond them that writes nothing is performed as clipped. -/
def Sys2Proof.Machine.tileUnitsCopy : Prop :=
  ∀ (s : State) (x u : Nat) (r : Xfer), s.xfer x = some r → r.par.modeOf = 0 → r.mayPerform u = true →
    let i := fun d => r.par.tileIndex u d
    let off := i 0 * r.par.unitBytes + i 1 * r.par.strideD 1 + i 2 * r.par.strideD 2 + i 3 * r.par.strideD 3 + i 4 * r.par.strideD 4
    let dense := BitVec.ofNat 64 (r.par.unitBytes * u)
    ((∀ d, d < 5 → i d ≤ r.par.clipL d) → exec (.drayTileUnit x u) s = .next
      (if r.par.dir then s.copyUnit x r u (r.par.src + dense) (r.par.dst + BitVec.ofNat 64 off) r.par.unitBytes
       else s.copyUnit x r u (r.par.src + BitVec.ofNat 64 off) (r.par.dst + dense) r.par.unitBytes))
    ∧ (∀ d, d < 5 → r.par.clipL d < i d → (r.par.dir = true ∨ r.par.fill = true) →
        exec (.drayTileUnit x u) s = .next (s.unitDone x r u true false))

/-- 04 R82, R83: a gather, scatter or row-gather unit reads its index, signed, and copies between the dense place of its number and the place
that the index names, where the index lies within LIMIT; a scatter unit beyond it is performed as clipped. `v` is the state after the
read of the index. -/
def Sys2Proof.Machine.indexUnitsCopy : Prop :=
  ∀ (s v : State) (i : Instr) (x u : Nat) (r : Xfer) (bs : List (Nat × Bool)),
    (match i with
      | .drayGatherUnit y w => y = x ∧ w = u ∧ r.par.modeOf = 1
      | .drayScatterUnit y w => y = x ∧ w = u ∧ r.par.modeOf = 2
      | .drayRowGatherUnit y w => y = x ∧ w = u ∧ r.par.modeOf = 3
      | _ => False) →
    s.xfer x = some r → r.mayPerform u = true →
    s.drayRead x r (r.par.dim + BitVec.ofNat 64 ((if r.par.modeOf = 3 ∧ r.par.nlist = true then 8 else 0) + u * r.par.idxBytes)) r.par.idxBytes
      = (v, .ok bs) →
    bs.any (·.2) = false →
    let k := toSigned (8 * r.par.idxBytes) (ofBytes (bs.map (·.1)))
    let n := r.par.unitBytes
    ((r.par.limit = 0 ∨ (0 ≤ k ∧ k < r.par.limit)) → exec i s = .next
      (if r.par.modeOf = 2 then v.copyUnit x r u (r.par.src + BitVec.ofNat 64 (u * n)) (r.par.dst + BitVec.ofInt 64 (k * r.par.idxStride)) n
       else v.copyUnit x r u (r.par.src + BitVec.ofInt 64 (k * r.par.idxStride)) (r.par.dst + BitVec.ofNat 64 (u * n)) n))
    ∧ (r.par.limit ≠ 0 → (k < 0 ∨ r.par.limit ≤ k) → r.par.modeOf = 2 → exec i s = .next (v.unitDone x r u true false))

/-- 04 R84: unit `u` of a pod exchange without notices reads the receive address of part (p + 1 + u) mod P, which is a multiple of 16, and
writes its own block there at the place of its own part. That a unit is one event is the model's choice (L18). -/
def Sys2Proof.Machine.podUnitsExchange : Prop :=
  ∀ (s v w z : State) (x u : Nat) (r : Xfer) (bs blk : List (Nat × Bool)) (pod : Bool), s.xfer x = some r → r.par.modeOf = 4 →
    r.mayPerform u = true → r.par.xnote = false → r.notice = none →
    let k := (r.par.own + 1 + u) % r.par.parts
    let n := r.par.unitBytes
    s.drayRead x r (r.par.dim + BitVec.ofNat 64 (8 * k)) 8 = (v, .ok bs) → bs.any (·.2) = false →
    ofBytes (bs.map (·.1)) % 16 = 0 →
    v.drayRead x r (r.par.src + BitVec.ofNat 64 (k * n)) n = (w, .ok blk) →
    w.drayWrite x r (BitVec.ofNat 64 (ofBytes (bs.map (·.1))) + BitVec.ofNat 64 (r.par.own * n)) blk [] = (z, .ok pod) →
    exec (.drayPodExchangeUnit x u) s = .next (z.unitDone x r u false pod)

/-- 04 R85, R87, R92: a Dray that is free takes the transfer at the head of its queue; a transfer stops at its lowest faulting unit once every unit
below it is performed; a transfer that has ended is done with its code, takes one from `cp`, raises its user interrupt where it
asked for one, and frees its Dray. -/
def Sys2Proof.Machine.drayTransfersRun : Prop :=
  (∀ (s : State) (d x : Nat) (q : List Nat) (r : Xfer), (s.dray d).running = none → (s.dray d).queue = x :: q → s.xfer x = some r →
    (r.par.modeOf = 3 → r.par.nlist = false) →
    ∃ t, exec (.drayTransferStart d) s = .next t ∧ t = { s with xfers := t.xfers, drays := t.drays }
      ∧ t.xfer x = some { r with state := 1 } ∧ (∀ y, y ≠ x → t.xfer y = s.xfer y)
      ∧ t.dray d = { s.dray d with queue := q, running := some x } ∧ ∀ e, e ≠ d → t.dray e = s.dray e)
  ∧ (∀ (s : State) (x : Nat) (r : Xfer), s.xfer x = some r → r.state = 1 → r.code = 0 → r.faultUnit = some r.done →
      ∃ t, exec (.drayFaultStop x) s = .next t ∧ t = { s with xfers := t.xfers } ∧ t.xfer x = some { r with code := 1 }
        ∧ ∀ y, y ≠ x → t.xfer y = s.xfer y)
  ∧ ∀ (s : State) (x j : Nat) (r : Xfer), s.xfer x = some r → r.ended = true → (r.par.clipMsg = true → r.clips = 0) →
      s.keyOf r.uid = some j → (s.ctxs.map (·.1)).Pairwise (· < ·) →
      ∃ t, exec (.drayCompletion x) s = .next t
        ∧ t.xfer x = some { r with
            state := 2, left := 0, code := if r.code = 1 then 1 else if r.cancelled then 2 else 0 }
        ∧ (t.dray r.dray).running = none ∧ (t.dray r.dray).queue = (s.dray r.dray).queue
        ∧ (t.ctx j).cnt = ((s.ctx j).uncount .cp).cnt
        ∧ (t.ctx j).uPend = (s.ctx j).uPend ++ (if r.par.int = true then [(r.id, r.par.hdl)] else [])
        ∧ (∀ k, k ≠ j → t.ctx k = s.ctx k) ∧ (r.par.barOn = false → t.mem = s.mem)

/-- The Drays: the units of each mode, and the course of a transfer. -/
def Obligations.DrayTransfers : Prop := tileUnitsCopy ∧ indexUnitsCopy ∧ podUnitsExchange ∧ drayTransfersRun

/-! ## System instructions -/

/-- 02 R46: `sfence.vma`, its release performed, ends every walk and sends its broadcast to every TLB; a TLB that it reaches keeps no entry that it
names; when every TLB has answered and no access issued before is left, the dirty lines stored under a matching translation are marked and
the instruction retires; a set that acquires a line under a matching translation begins its lease again. That the deferred future loads
are not waited for is the model's choice (log entry L16). -/
def Sys2Proof.Machine.sfenceReachesTlbs : Prop :=
  (∀ (s : State) (b a : BitVec 5) (l : Nat), s.canIssue (.sfenceVma b a) = true → s.own.lead s.issue = some l →
    (s.shootOf s.own.uid = none → s.released s.here 3 = true →
      ∃ t, exec (.sfenceVma b a) s = .next t ∧ t.mem = s.mem ∧ t.ctxs = s.ctxs ∧ t.tlbs = s.tlbs ∧ t.walkCache = []
        ∧ (∀ w, w ∈ t.walks → w.dead = true)
        ∧ ∃ m, m ∈ t.net ∧ m.body = .shoot s.own.uid (if a = 0#5 then none else some ((s.own.lane l).rx a.toNat).v.toNat)
            (if b = 0#5 then none else some (((s.own.lane l).rx b.toNat).v.toNat % 65536)) (s.tlbs.map (·.1)) s.nextId)
    ∧ ∀ m va asid n, s.shootOf s.own.uid = some (m, va, asid, [], n) → s.olderAccess n = false →
      ∃ t, exec (.sfenceVma b a) s = .next t ∧ t.mem = s.mem ∧ t.msg m.id = none
        ∧ OnlyLanes (s.own.refence va asid) (t.ctx s.here) s.issue ∧ (∀ k, k ≠ s.here → t.ctx k = (s.ctx k).refence va asid)
        ∧ (∀ u x, x ∈ t.l1 u → x.st ≠ .valid → x.under.fenced va asid = true → x.marked = true)
        ∧ ∀ l, l ∈ s.issue → (t.ctx s.here).lane l = { s.own.lane l with pc := (s.own.lane l).pc + 4 })
  ∧ ∀ (s : State) (k tlb by_ n : Nat) (va asid : Option Nat) (ts : List Nat) (m : NetMsg), s.msg k = some m →
      m.body = .shoot by_ va asid ts n → ts.contains tlb = true →
      ∃ t, exec (.tlbShootdown k tlb) s = .next t ∧ t = { s with tlbs := t.tlbs, net := t.net }
        ∧ t.msg k = some { m with body := .shoot by_ va asid (ts.filter (· != tlb)) s.nextId }
        ∧ t.tlb tlb = (s.tlb tlb).filter (fun e => !e.fenced va asid) ∧ ∀ u, u ≠ tlb → t.tlb u = s.tlb u

/-- 15 R322, R323: `rtab.set` drops the cached entries of its launch and gives it its table, and retires when no lookup is on its way;
`ctx.tag` gives the context its identifier once no line and no write carries the old one. -/
def Sys2Proof.Machine.tablesAndTags : Prop :=
  (∀ (s u : State) (b a : BitVec 5) (l n : Nat), s.canIssue (.rtabSet b a) = true → s.own.lead s.issue = some l →
    ((s.own.lane l).rx a.toNat).p = false → ((s.own.lane l).rx b.toNat).p = false → s.own.launch = some n →
    (s.own.phase = 1 → s.lookingUp n = false → exec (.rtabSet b a) s = .next (s.retire s.here s.issue))
    ∧ ∀ v, s.own.phase ≠ 1 →
        s.rtabCheck (unitOf s.here) s.own ((s.own.lane l).rx a.toNat).v ((s.own.lane l).rx b.toNat).v = (u, .go) →
        u.released s.here 3 = true → u.launch n = some v →
        ∃ t, exec (.rtabSet b a) s = .next t
          ∧ t.launch n = some { v with rtBase := ((s.own.lane l).rx a.toNat).v, rtCount := ((s.own.lane l).rx b.toNat).v.toNat }
          ∧ (∀ c r, r ∈ (t.cluster c).rankCache → r.1 ≠ n) ∧ (t.ctx s.here).phase = 1 ∧ t.mem = u.mem)
  ∧ ∀ (s : State) (a : BitVec 5) (l : Nat), s.canIssue (.ctxTag a) = true → s.own.lead s.issue = some l →
      ((s.own.lane l).rx a.toNat).p = false →
      let v := ((s.own.lane l).rx a.toNat).v
      bits 47 17 v = 0#17 →
      (s.tagCtxid (unitOf s.here) s.own.tagEnt = (bits 0 48 v).toNat
        ∨ ((s.l1 (unitOf s.here)).any (fun x => x.taggedBy s.own.tagEnt) = false
          ∧ s.inFlight.any (fun m => s.relMsg s.own.uid (dieOf s.here) 5 m) = false)) →
      ∃ t, exec (.ctxTag a) s = .next t ∧ t = { s with ctxs := t.ctxs, tags := t.tags } ∧ (t.ctx s.here).ctxid = bits 0 48 v
        ∧ (∀ k, k ≠ s.here → t.ctx k = s.ctx k)
        ∧ ∀ m, m ∈ s.issue → (t.ctx s.here).lane m = { s.own.lane m with pc := (s.own.lane m).pc + 4 }

/-- 15 R325, 20 R404: `island.req` reads an island, gates one that holds no context and no Dirty or Owned line, and asks the power manager for another
point or for power; the manager's answer changes the island where it grants, and the instruction retires with the word. That OP is read from rs2 as a
constructor of its own for each command is the model's choice (log entry L47). -/
def Sys2Proof.Machine.islandsAnswer : Prop :=
  (∀ (s : State) (i : Instr) (b a d : BitVec 5) (l op : Nat),
    (match i with
      | .islandQuery x y z => x = b ∧ y = a ∧ z = d ∧ op = 0
      | .islandSetPoint x y z => x = b ∧ y = a ∧ z = d ∧ op = 1
      | .islandGate x y z => x = b ∧ y = a ∧ z = d ∧ op = 2
      | .islandUngate x y z => x = b ∧ y = a ∧ z = d ∧ op = 3
      | _ => False) →
    s.canIssue i = true → s.own.lead s.issue = some l →
    ((s.own.lane l).rx a.toNat).p = false → ((s.own.lane l).rx b.toNat).p = false →
    let isl := ((s.own.lane l).rx a.toNat).v.toNat
    let req := ((s.own.lane l).rx b.toNat).v
    isl ≤ 255 → isl / 64 < s.dies → bits 6 58 req = 0#58 → s.islandReq s.own.uid = none → (op ≠ 0 → s.islandBusy isl s.nextId = false) →
    let v := s.island isl
    (op = 0 → ∃ t, exec i s = .next t ∧ OnlyAt s.here s t ∧ OnlyLanes s.own (t.ctx s.here) s.issue
      ∧ s.gave t d (BitVec.ofNat 64 (v.point.toNat + if v.gated then 16 else 0)))
    ∧ (op = 2 → isl % 64 < 48 → isl ≠ unitIsland (unitOf s.here) →
        (∀ u p, u ∈ islandUnits isl → p ∈ unitPlaces u → (s.ctx p).region = none) → (∀ u, u ∈ islandUnits isl → s.unitHolds u = false) →
        (∀ u x, u ∈ islandUnits isl → x ∈ s.l1 u → x.st = .valid) → (∀ u, u ∈ islandUnits isl → s.unitWriting u = false) →
        ∃ t, exec i s = .next t ∧ t.island isl = { v with gated := true } ∧ (∀ j, j ≠ isl → t.island j = s.island j)
          ∧ (∀ u, u ∈ islandUnits isl → t.l1 u = []) ∧ s.gave t d (BitVec.ofNat 64 (v.point.toNat + 16)))
    ∧ (op = 1 ∨ op = 3 → ∃ t, exec i s = .next t ∧ (t.ctx s.here).phase = 2 ∧ t.islands = s.islands ∧ t.mem = s.mem
        ∧ (∀ m, (t.ctx s.here).lane m = s.own.lane m)
        ∧ ∃ m, m ∈ t.net ∧ m.body = .island s.own.uid isl op s.issue d.toNat (bits 2 4 req) false))
  ∧ ∀ (s : State) (k uid isl op rd j : Nat) (ls : List Nat) (point : BitVec 4) (w granted : Bool) (m : NetMsg), s.msg k = some m →
      m.body = .island uid isl op ls rd point w → s.islandBusy isl m.id = false → s.keyOf uid = some j → (s.ctx j).phase = 2 →
      op = 1 ∨ op = 3 →
      let v := s.island isl
      let v' := if granted then (if op = 1 then v.setPoint s.clk point else { v with gated := false }) else v
      ∃ t, exec (if op = 1 then .operatingPointChange k granted else .islandPowerUp k granted) s = .next t ∧ t.island isl = v'
        ∧ (∀ x, x ≠ isl → t.island x = s.island x) ∧ (t.ctx j).phase = 0
        ∧ t.ctx j = ((s.ctx j).writeAll ls rd (Reg.of (v'.word (if granted then 0 else 3)) false)).retire ls
        ∧ ∀ x, x ≠ j → t.ctx x = s.ctx x

/-- The system instructions of 02 R46 and 15 R322 to R325, and the events that end them. -/
def Obligations.SystemInstructions : Prop := sfenceReachesTlbs ∧ tablesAndTags ∧ islandsAnswer

/-- 17 R343, R353, R355, 03 R50, 20 R398, R406: writes of the device region. A doorbell within the queue's size moves the tail, and any other is
discarded; a `tunctl` or an `arbctl` in range takes effect, and any other is discarded; a legal pin is kept, and one of a frame that has its
home elsewhere or is pinned already, or in minimal mode, is discarded; `wend` ends the wave that it names, and one that names no wave is
discarded; a register's write acts on that register. That a write to an address that no block lays out is discarded is the model's choice
(log entries L10 and L19: `devReg pa = none`). -/
def Obligations.DeviceRegisterWrites : Prop :=
  (∀ (s : State) (q : Nat) (v : BitVec 64),
    let n := (bits 0 32 v - (s.queue q).head).toNat
    (n ≤ 2 ^ (bits 1 4 (s.queue q).ctl).toNat → ∃ t, exec (.cqDoorbell q v) s = .next t ∧ t = { s with queues := t.queues }
      ∧ t.queue q = { s.queue q with tail := bits 0 32 v } ∧ ∀ r, r ≠ q → t.queue r = s.queue r)
    ∧ (2 ^ (bits 1 4 (s.queue q).ctl).toNat < n → exec (.cqDoorbell q v) s = .next s))
  ∧ (∀ (s : State) (c : Nat) (v : BitVec 64),
      let thr := (bits 0 7 v).toNat
      (8 ≤ thr → thr ≤ 64 → 64 ≤ (bits 8 16 v).toNat → ∃ t, exec (.tunctlWrite c v) s = .next t ∧ t = { s with clusters := t.clusters }
        ∧ (t.cluster c).tunctl = v &&& 0xFFFF7F#64 ∧ ∀ d, d ≠ c → t.cluster d = s.cluster d)
      ∧ ((thr < 8 ∨ 64 < thr ∨ (bits 8 16 v).toNat < 64) → exec (.tunctlWrite c v) s = .next s))
  ∧ (∀ (s : State) (h n : Nat) (v : BitVec 64), s.mgmt.bootst.getLsbD 5 = false →
      (v.getLsbD 0 = true → homeSlice (h / 64 * 2 ^ 38 + (bits 16 22 v).toNat * 65536) = h % 64
        ∧ ∀ i, i < 16 → i ≠ n → (Tbl.get 0 (s.slice h).slpin i).getLsbD 0 = true →
            bits 16 22 (Tbl.get 0 (s.slice h).slpin i) ≠ bits 16 22 v) →
      ∃ t, exec (.slpinWrite h n v) s = .next t ∧ t = { s with slices := t.slices }
        ∧ Tbl.get 0 (t.slice h).slpin n = v &&& 0x3FFFFF0001#64
        ∧ (∀ i, i ≠ n → Tbl.get 0 (t.slice h).slpin i = Tbl.get 0 (s.slice h).slpin i) ∧ ∀ g, g ≠ h → t.slice g = s.slice g)
  ∧ (∀ (s : State) (h n : Nat) (v : BitVec 64),
      (s.mgmt.bootst.getLsbD 5 = true
        ∨ v.getLsbD 0 = true ∧ (homeSlice (h / 64 * 2 ^ 38 + (bits 16 22 v).toNat * 65536) ≠ h % 64
          ∨ ∃ i, i < 16 ∧ i ≠ n ∧ (Tbl.get 0 (s.slice h).slpin i).getLsbD 0 = true
            ∧ bits 16 22 (Tbl.get 0 (s.slice h).slpin i) = bits 16 22 v)) →
      exec (.slpinWrite h n v) s = .next s)
  ∧ (∀ (s : State) (c k : Nat) (v : BitVec 64), (waveSlots c).find? (fun k => (s.ctx k).status == .resident
        && (waveIdOf k (s.ctx k) 0 == v.toNat || waveIdOf k (s.ctx k) 63 == v.toNat)) = some k →
      ∃ t, exec (.wendWrite c v) s = .next t ∧ (t.ctx k).status = .ending ∧ t.mem = s.mem)
  ∧ (∀ (s : State) (c : Nat) (v : BitVec 64),
      (∀ k, k ∈ waveSlots c → (s.ctx k).status = .resident →
        waveIdOf k (s.ctx k) 0 ≠ v.toNat ∧ waveIdOf k (s.ctx k) 63 ≠ v.toNat) →
      exec (.wendWrite c v) s = .next s)
  ∧ ∀ (s : State) (pa : Nat) (v : BitVec 64),
      (s.devReg pa = none → exec (.registerWrite pa v) s = .next s)
      ∧ (s.devReg pa = some .mchead → ∃ t, exec (.registerWrite pa v) s = .next t
          ∧ t = { s with mgmt := { s.mgmt with mchead := v &&& 0xFFFFFFFF#64 } })
      ∧ (∀ c, s.devReg pa = some (.arbctl c) → bits 0 4 v ≠ 0#4 → bits 4 4 v ≠ 0#4 →
          ∃ t, exec (.registerWrite pa v) s = .next t ∧ t = { s with clusters := t.clusters }
            ∧ t.cluster c = { s.cluster c with arbctl := v &&& 0xFF#64 } ∧ ∀ d, d ≠ c → t.cluster d = s.cluster d)
      ∧ (∀ c, s.devReg pa = some (.arbctl c) → (bits 0 4 v = 0#4 ∨ bits 4 4 v = 0#4) → exec (.registerWrite pa v) s = .next s)
      ∧ ∀ r, s.devReg pa = some r → exec (.registerWrite pa v) s = .next (s.writeDev r v)

/-! ## The distributor -/

/-- A launch as the distributor reads it from the ring: the sixteen doubles of the packet (17 R344, R345). -/
def Sys2Proof.Machine.State.packetAt (s : State) (q : Nat) : Launch :=
  let a := (s.queue q).slot
  let ws := (List.range 16).map fun i => BitVec.ofNat 64 (s.value (a + 8 * i) 8)
  { queue := q, index := (s.queue q).head, words := ws, admitted := false, marker := decide ((ws.headD 0).toNat % 16 = 2), number := 0,
    rtBase := 0, rtCount := 0, crewsPlaced := 0, lastClu := 2 ^ 20, threadsPlaced := 0, order := 0, saved := false, savedAt := 0,
    floorEnd := none, vacated := 0, cancelled := false }

/-- 17 R347, R346, 19 R392: the word that a queue signals, with an address that may be written and whose line no L1 owns, is then in
memory, and nothing else there has changed; the queue's vector has gone, or the host has it masked, which is a free value (the
model's choice, log entry L73). -/
def Sys2Proof.Machine.signalWrites : Prop :=
  ∀ (s : State) (q : Nat) (a v : Word), a ≠ 0 → a.toNat % 8 = 0 → isHbm s.dies a.toNat = true → s.mark (a.toNat / 128) ≠ .lost →
    s.atHome a.toNat = true → s.inRedWindow a.toNat = false →
    ∃ u, s.signal q a v = (u, true) ∧ u.value a.toNat 8 = v.toNat ∧ (∀ b, b < a.toNat ∨ a.toNat + 8 ≤ b → u.byte b = s.byte b)
      ∧ ((q ∈ u.mgmt.msixMask ∧ u.mgmt.msixSent = s.mgmt.msixSent) ∨ u.mgmt.msixSent = s.mgmt.msixSent ++ [q])

/-- 17 R344 to R347: the distributor reads the head packet of an enabled queue that is not empty: a no-operation packet goes, a malformed one goes
and its reason is signalled at its SIGADDR as 2^63 + reason, and any other is held, with the supervisor's cancel as a free value (the
model's choice, log entry L66); a marker signals once its queue runs nothing. -/
def Sys2Proof.Machine.packetsAreRead : Prop :=
  (∀ (s : State) (q : Nat), q < 256 → s.mgmt.bootst.getLsbD 4 = true → (s.queue q).ctl.getLsbD 0 = true →
    (s.queue q).head ≠ (s.queue q).tail → s.headPacket q = none →
    (isHost (s.queue q).slot = true ∨ isHbm s.dies (s.queue q).slot = true ∧ s.atHome (s.queue q).slot = true) →
    let v := s.packetAt q
    ∃ t, exec (.packetRead q) s = .next t
      ∧ (v.type = 0 → t.queue q = { s.queue q with head := (s.queue q).head + 1 } ∧ t.launches = s.launches)
      ∧ (v.type ≠ 0 → v.reason s.dies (bits 5 4 (s.queue q).ctl).toNat = 0 →
          (∃ c, t.launch s.nextId = some { v with cancelled := c }) ∧ t.nextId = s.nextId + 1 ∧ t.queue q = s.queue q)
      ∧ ∀ u, v.type ≠ 0 → v.reason s.dies (bits 5 4 (s.queue q).ctl).toNat ≠ 0 →
          s.signal q (v.d 11) (BitVec.ofNat 64 (2 ^ 63 + v.reason s.dies (bits 5 4 (s.queue q).ctl).toNat)) = (u, true) →
          t.launch s.nextId = none ∧ t.queue q = { s.queue q with head := (s.queue q).head + 1 } ∧ t.mem = u.mem
          ∧ t.mgmt = u.mgmt)
  ∧ ∀ (s u : State) (q l : Nat) (v : Launch), s.headPacket q = some (l, v) → v.marker = true → s.running q = false →
      s.signal q (v.d 11) (v.d 12) = (u, true) →
      ∃ t, exec (.markerSignal q) s = .next t ∧ t.launch l = none ∧ t.queue q = { u.queue q with head := (u.queue q).head + 1 }
        ∧ t.mem = u.mem ∧ t.mgmt = u.mgmt ∧ (isHost (v.d 11).toNat = true → (v.d 11).toNat % 8 = 0 → s.mgmt.hostFails = false →
            t.value (v.d 11).toNat 8 = (v.d 12).toNat)

/-- 17 R346, R348 to R350: admission takes the first head packet that it can admit or must reject: a packet that the supervisor has cancelled goes
with reason 7, one whose table is bad with reason 8, one whose ranks are bad with reason 8 or 4, and a concurrent one that does not fit the
package with no work in it with reason 5, each signalled as 2^63 + reason, and one whose table and ranks pass and that fits is
admitted; placement goes on with the units that wait. `u` is the state with the table's base translated, `w` that with the entries of the
ranks read, which lie at `places`; no line is left held for the queue by the end. That nothing is admitted or placed while a launch comes back for its floor slice is the model's choice
(log entry L65), as is how the distributor translates (L36). -/
def Sys2Proof.Machine.launchesAreAdmitted : Prop :=
  (∀ (s : State) (l : Nat) (v : Launch) (r : List (Nat × Launch)), s.heads = (l, v) :: r → v.marker = false →
    s.floorWaits = false →
    (∀ u, v.cancelled = true → s.signal v.queue (v.d 11) (BitVec.ofNat 64 (2 ^ 63 + 7)) = (u, true) →
      u.heldLines (.queue v.queue) = [] →
      ∃ t, exec .launchAdmission s = .next t ∧ t.launch l = none ∧ t.mem = u.mem ∧ t.mgmt = u.mgmt
        ∧ t.queue v.queue = { u.queue v.queue with head := (u.queue v.queue).head + 1 } ∧ t.ctxs = u.ctxs)
    ∧ (∀ u w, v.cancelled = false → (v.ser = true → s.running v.queue = false) → s.tableBad l v = (u, some true) →
        u.signal v.queue (v.d 11) (BitVec.ofNat 64 (2 ^ 63 + 8)) = (w, true) → w.heldLines (.queue v.queue) = [] →
        ∃ t, exec .launchAdmission s = .next t ∧ t.launch l = none ∧ t.mem = w.mem ∧ t.mgmt = w.mgmt
          ∧ t.queue v.queue = { w.queue v.queue with head := (w.queue v.queue).head + 1 } ∧ t.ctxs = w.ctxs)
    ∧ (∀ u w n x, v.cancelled = false → (v.ser = true → s.running v.queue = false) → s.tableBad l v = (u, some false) →
        (u.installTable l v).ranksCheck l v = (w, .bad n) →
        (w.setLaunch l (some v)).signal v.queue (v.d 11) (BitVec.ofNat 64 (2 ^ 63 + n)) = (x, true) → x.heldLines (.queue v.queue) = [] →
        ∃ t, exec .launchAdmission s = .next t ∧ t.launch l = none ∧ t.mem = x.mem ∧ t.mgmt = x.mgmt
          ∧ t.queue v.queue = { x.queue v.queue with head := (x.queue v.queue).head + 1 } ∧ t.ctxs = x.ctxs)
    ∧ (∀ u w x places, v.cancelled = false → (v.ser = true → s.running v.queue = false) → s.tableBad l v = (u, some false) →
        (u.installTable l v).ranksCheck l v = (w, .at_ places) → v.cls = 0 →
        (w.setLaunch l (some v)).emptied.tryAdmit l v places = none →
        (w.setLaunch l (some v)).signal v.queue (v.d 11) (BitVec.ofNat 64 (2 ^ 63 + 5)) = (x, true) → x.heldLines (.queue v.queue) = [] →
        ∃ t, exec .launchAdmission s = .next t ∧ t.launch l = none ∧ t.mem = x.mem ∧ t.mgmt = x.mgmt
          ∧ t.queue v.queue = { x.queue v.queue with head := (x.queue v.queue).head + 1 } ∧ t.ctxs = x.ctxs)
    ∧ ∀ u w x places, v.cancelled = false → (v.ser = true → s.running v.queue = false) → s.tableBad l v = (u, some false) →
        (u.installTable l v).ranksCheck l v = (w, .at_ places) →
        (v.cls = 0 → (w.setLaunch l (some v)).emptied.tryAdmit l v places ≠ none) →
        (w.setLaunch l (some v)).tryAdmit l v places = some x →
        exec .launchAdmission s = .next (({ x.advance v.queue with queueRr := v.queue } : State).passAll (.queue v.queue)))
  ∧ (∀ (s : State), s.heads = [] → exec .launchAdmission s = .next s)
  ∧ ∀ (s : State) (l : Nat) (v : Launch), s.launch l = some v → v.admitted = true → v.saved = false →
      s.floorWaits = false → exec (.unitPlacement l) s = .next (s.takeLights.placeAll l (v.units + 1))

/-- 17 R347, 19 R392: when all of a launch is over and its handler sets' stores are out, its ranks become vacant, one entry after the other; then
its allocations are free, its signal is written, and the launch is gone. `u` is the state with the entry changed, or with the
signal written, as `signalWrites` says. -/
def Sys2Proof.Machine.launchesComplete : Prop :=
  ∀ (s u : State) (l : Nat) (v : Launch), s.launch l = some v → s.launchDone l v = true → s.handlerLines = [] →
    s.handlersWritten = true →
    (∀ n, v.vacated + (n + 1) = v.threads → s.entryStep (.queue v.queue) none 0 l (v.rank0 + v.vacated) 0 .vacate = (u, true) →
      u.launch l = some v →
      exec (.launchCompletion l) s = .next ((u.setLaunch l (some { v with vacated := v.vacated + 1 })).vacateRanks l (v.threads - 1)))
    ∧ (v.threads ≤ v.vacated → (s.freeLaunch l).heldFor (.queue v.queue) (v.d 11).toNat = false →
      (s.freeLaunch l).signal v.queue (v.d 11) (v.d 12) = (u, true) →
      ∃ t, exec (.launchCompletion l) s = .next t ∧ t.launch l = none ∧ t.mem = u.mem ∧ t.mgmt = u.mgmt
        ∧ ∀ c a, a ∈ (t.cluster c).allocs → a.launch ≠ l)

/-- 17 R354, R357: pre-emption asks every resident unit of the next victim for its save; a concurrent launch that has been saved for seven slices is
to be resumed for one, where no work has to go for it (the model's choice, log entry L65); a demotion ends after 1,024 clk of the island of its unit,
or at a wake event, with which the run of takes starts anew (the model's choice, log entry L72). The slices count the clk of the package, which
the distributor keeps (the model's choice, log entry L76). -/
def Sys2Proof.Machine.launchesYield : Prop :=
  (∀ (s : State) (l w : Nat) (v x : Launch), s.launch l = some v → s.wantsRoom l v = true →
    s.nextVictim (fun t => t.goesOn l v) (s.victims l fun y => decide (y.prio < v.prio)) = some w → s.launch w = some x →
    ∃ t, exec (.preemptionRequest l) s = .next t ∧ t = { s with ctxs := t.ctxs, launches := t.launches }
      ∧ t.launch w = some { x with saved := true, savedAt := s.clk, floorEnd := none } ∧ (∀ y, y ≠ w → t.launch y = s.launch y)
      ∧ ∀ k, t.ctx k = if (s.ctx k).unitOfLaunch k w then (s.ctx k).ask else s.ctx k)
  ∧ (∀ (s : State) (l : Nat) (v : Launch), s.launch l = some v → v.cls = 0 → v.saved = true → v.savedAt + 7 * 262144 ≤ s.clk →
      let u := s.setLaunch l (some { v with savedAt := s.clk + 262144, floorEnd := some (s.clk + 262144) })
      u.nextVictim (fun t => t.allFit l) (u.victims l fun y => y.prio ≠ v.prio || y.cls ≠ 1) = none →
      exec (.floorShareSlice l) s = .next u)
  ∧ (∀ (s : State) (p : Place) (n : Nat), (s.ctx p.key).demoted = some n → n + 1024 ≤ s.now p.key →
      ∃ t, exec (.demotionExpiry p) s = .next t ∧ OnlyAt p.key s t ∧ t.ctx p.key = { s.ctx p.key with demoted := none })
  ∧ ∀ (s : State) (p : Place), ∃ t, exec (.spinWake p) s = .next t ∧ OnlyAt p.key s t
      ∧ t.ctx p.key = { s.ctx p.key with demoted := none, spin := Spin.none }

/-- The distributor: signals, packets, admission, completion and pre-emption. -/
def Obligations.Distributor : Prop := signalWrites ∧ packetsAreRead ∧ launchesAreAdmitted ∧ launchesComplete ∧ launchesYield

/-! ## Save, resume and absent registers -/

/-- The registers that are present, and the PCs, stand in a save area: each value at its place, and its poison bit at the place of that
(18 R382, R383). -/
def Sys2Proof.Machine.State.areaHolds (s : State) (wave : Bool) (a : Nat) (c : Ctx) : Prop :=
  (∀ l r, (if wave then l < 64 else l = 0) → r < 64 → Tbl.get false c.absent (l * 128 + r) = false →
    let v := if r < 32 then (c.lane l).rx r else (c.lane l).rf (r - 32)
    s.value (areaSlot wave a l r) 8 = v.v.toNat
    ∧ (s.byte (areaPoison wave a l r).1).toNat.testBit (areaPoison wave a l r).2 = v.p)
  ∧ (wave = false → ∀ r, r < 32 → Tbl.get false c.absent (64 + r) = false →
      s.value (areaSlot false a 0 (64 + r)) 32 = (c.rw r).v.toNat ∧ s.byte (areaPoison false a 0 (64 + r)).1 = BitVec.ofNat 8 (c.rw r).p.toNat)
  ∧ (wave = false → s.value (a + 0x640) 8 = (c.lane 0).pc.toNat)
  ∧ (wave = true → ∀ l, l < 64 → s.value (a + 0x8200 + 8 * l) 8 = (c.lane l).pc.toNat)

/-- 18 R381, R382, R383: a due hardware save of a context that waits for nothing, once no L1 owns a line of its save area, puts its state into the
area, its registers and PCs at the places of the layout, and its place is free. Which area a context without one takes (log entry L37), and
that the state besides the laid-out blocks is held with the area's number (L39), are the model's choices. -/
def Sys2Proof.Machine.contextsAreSaved : Prop :=
  ∀ (s : State) (p : Place) (a : Nat), s.boundaryEvent p = some (.hardwareSave p) → (s.ctx p.key).block = none →
    (s.ctx p.key).lease = .idle → s.loading (s.ctx p.key) = false → (s.ctx p.key).forced = [] → s.areaFor p.key = some a →
    s.allAtHome (areaLines (isWave p.key) a) = true → (s.ctxs.map (·.1)).Pairwise (· < ·) →
    ∃ t, exec (.hardwareSave p) s = .next t ∧ t.ctx p.key = Ctx.vacant ∧ (∀ k, k ≠ p.key → t.ctx k = s.ctx k)
      ∧ Tbl.get Ctx.vacant t.saved a = (s.ctx p.key).saveState a (s.now p.key)
      ∧ t.areaHolds (isWave p.key) a (s.ctx p.key)
      ∧ ∀ b, b ≠ a → Tbl.get Ctx.vacant t.saved b = Tbl.get Ctx.vacant s.saved b

/-- 18 R385, 05 R107: a saved context that fits a place and whose launch may go on resumes there, once no L1 owns a line of its save area and
nothing waits to be written there, with the PCs that the area holds and every register absent, and waits for the tag flush of its old unit
where that is another. Its unit has a tag entry free. The state that
comes back besides the laid-out blocks is the model's choice (log entry L39). -/
def Sys2Proof.Machine.contextsResume : Prop :=
  ∀ (s : State) (area : Nat) (p : Place), let c := Tbl.get Ctx.vacant s.saved area
    c.status = .resident → s.fits c p.key = true → s.unsynced c.uid = false → s.allAtHome (areaLines (isWave p.key) area) = true →
    (∃ i, i < tagCount (unitOf p.key) ∧ ∀ e, e ∈ s.tagEnts (unitOf p.key) → e.idx ≠ i) →
    (∀ l v, c.launch = some l → s.launch l = some v → s.mayResume l v = true) →
    ∃ t, exec (.contextResume area p) s = .next t ∧ Tbl.get Ctx.vacant t.saved area = Ctx.vacant
      ∧ (t.ctx p.key).status = .resident ∧ (t.ctx p.key).uid = c.uid ∧ (t.ctx p.key).ctxid = c.ctxid ∧ (t.ctx p.key).mode = c.mode
      ∧ (t.ctx p.key).csr = c.csr ∧ (t.ctx p.key).tagUnit = unitOf p.key
      ∧ (t.ctx p.key).flushWait = decide (c.tagUnit ≠ unitOf p.key)
      ∧ (isWave p.key = false → ((t.ctx p.key).lane 0).pc = BitVec.ofNat 64 (s.value (area + 0x640) 8))
      ∧ (isWave p.key = true → ∀ l, l < 64 → ((t.ctx p.key).lane l).pc = BitVec.ofNat 64 (s.value (area + 0x8200 + 8 * l) 8))
      ∧ ∀ l r, (if isWave p.key then l < 64 ∧ 1 ≤ r ∧ r < 64 else l = 0 ∧ 1 ≤ r ∧ r < 96) →
          Tbl.get false (t.ctx p.key).absent (l * 128 + r) = true

/-- 15 R326, 18 R385: an absent register is fetched from the save area with its value and poison, by the micro-trap or in the background, once no L1
owns a line of its place in the area, and is then present: an x or an f register of a lane, or a w register. In an armed region its
checkpoint has the value too (06 R118). Where the fetch would fail, nothing comes. -/
def Sys2Proof.Machine.absentRegistersCome : Prop :=
  ∀ (s : State) (p : Place) (i : Instr) (l file reg a : Nat),
    (i = .registerMiss p l file reg ∨ i = .backgroundRegisterFetch p l file reg) →
    (s.ctx p.key).status = .resident → (s.ctx p.key).flushWait = false → reg < 32 → file < 3 → file * 32 + reg ≠ 0 →
    Tbl.get false (s.ctx p.key).absent (l * 128 + (file * 32 + reg)) = true →
    s.fetchFails p.key l (file * 32 + reg) = false → (s.ctx p.key).area = some a →
    s.allAtHome ((areaPlaces (isWave p.key) a l (file * 32 + reg)).map (· / 128)) = true →
    let at_ := areaSlot (isWave p.key) a l (file * 32 + reg)
    let pb := areaPoison (isWave p.key) a l (file * 32 + reg)
    let v : Reg := { v := BitVec.ofNat 64 (s.value at_ 8), p := (s.byte pb.1).toNat.testBit pb.2 }
    ∃ t, exec i s = .next t ∧ OnlyAt p.key s t
      ∧ Tbl.get false (t.ctx p.key).absent (l * 128 + (file * 32 + reg)) = false
      ∧ (file = 0 → ((t.ctx p.key).lane l).rx reg = v) ∧ (file = 1 → ((t.ctx p.key).lane l).rf reg = v)
      ∧ (file = 2 → (t.ctx p.key).rw reg
          = { v := BitVec.ofNat 256 (s.value at_ 32), p := BitVec.ofNat 8 ((s.byte pb.1).toNat / 2 ^ pb.2) })
      ∧ (∀ q, file = 0 → (s.ctx p.key).lease = .armed q →
          ∃ q', (t.ctx p.key).lease = .armed q' ∧ Tbl.get Reg.zero q'.ckpt reg = v)
      ∧ ((t.ctx p.key).lane l).pc = ((s.ctx p.key).lane l).pc ∧ ∀ m, m ≠ l → (t.ctx p.key).lane m = (s.ctx p.key).lane m

/-- 18 R378: 1,000,000 clk of its unit in S mode raise BUDGET with `tval` 2 into M mode, and the watchdog starts again; a context that waits for the
last step of an `sfence.vma` takes it after that (02 R46). -/
def Sys2Proof.Machine.watchdogsExpire : Prop :=
  (∀ (s : State) (p : Place), s.shootOf (s.ctx p.key).uid ≠ none → exec (.watchdogExpiry p) s = .next s)
  ∧ ∀ (s : State) (p : Place) (n : Nat), (s.ctx p.key).dog = some n → n + 1000000 ≤ s.now p.key → (s.ctx p.key).status = .resident →
    s.shootOf (s.ctx p.key).uid = none → (s.ctx p.key).task = none →
    (s.ctx p.key).mode = .s → (s.ctx p.key).executing ≠ [] → (s.ctx p.key).block = none → (s.ctx p.key).lease = .idle →
    ∃ t, exec (.watchdogExpiry p) s = .next t ∧ OnlyAt p.key s t ∧ (t.ctx p.key).dog = some (s.now p.key)
      ∧ Entered (s.ctx p.key) (t.ctx p.key) p.key false 28 2 (s.ctx p.key).nextPc (s.ctx p.key).executing

/-- The hardware save, the resume, absent registers and the watchdog. -/
def Obligations.SaveAndResume : Prop := contextsAreSaved ∧ contextsResume ∧ absentRegistersCome ∧ watchdogsExpire

/-! ## The host, the links and reliability -/

/-- 19 R387 to R393: a request of the host reaches its port, and is performed at the home of its bytes once no L1 owns their lines: a read
is answered with the bytes, a write stores its bytes with the poison that CXL.mem carries, an AtomicOp is that of 11 R224 and is answered with
the old value; while an L1 owns a line, the home recalls it and the request waits; a register is read, and a write of one acts as a store
to it; an address that nothing lies at is answered as unsupported; a snoop leaves no line of the host, and is answered. That a request waits
behind the one before it (log entry L43), and which accesses of BAR0 are supported (L59), are the model's choices; whether the host
caches what it reads is a free value (L73). In the clauses that perform an access no line is held for the host. An invalidating snoop leaves
no Valid or Dirty copy of a line of the host; a data snoop leaves a Dirty one Valid where all of it is there, and drops a Valid one; either
sends the Dirty bytes back to the host. -/
def Sys2Proof.Machine.hostAccesses : Prop :=
  (∀ (s : State) (a n b : Nat), s.port.queue = [] → s.hostTo a n = .hbm b → s.l1Owned (lineRange b n) = [] →
      s.heldLines .host = [] →
      ∃ t, exec (.hostRead a n) s = .next t ∧ t.mem = s.mem ∧ t.ctxs = s.ctxs ∧ t.l1d = s.l1d
        ∧ t.port = { s.port with sent := s.port.sent ++ [.data (s.hostBytes b n)] })
  ∧ (∀ (s : State) (a n b : Nat) (d : HostData), s.port.queue = [] → s.hostTo a n = .hbm b → s.l1Owned (lineRange b n) = [] →
      s.heldLines .host = [] → (∀ i, i < n → s.inRedWindow (b + i) = false) →
      ∃ t, exec (.hostWrite a n d) s = .next t
        ∧ t = { s with mem := t.mem, memPoison := t.memPoison, marks := t.marks, fullBits := t.fullBits }
        ∧ (∀ i, i < n → t.byte (b + i) = BitVec.ofNat 8 (d.v / 256 ^ i) ∧ t.bytePoison (b + i) = (d.poison && s.mgmt.cxl))
        ∧ ∀ c, c < b ∨ b + n ≤ c → t.byte c = s.byte c)
  ∧ (∀ (s : State) (a n b : Nat) (d : HostData), s.port.queue = [] → s.hostTo a n = .hbm b → s.l1Owned (lineRange b n) ≠ [] →
      let u := s.askLines .host (s.l1Owned (lineRange b n)) false
      exec (.hostWrite a n d) s = .next { u with port := { u.port with queue := [⟨a, n, .write d⟩] } })
  ∧ (∀ (s u : State) (a n : Nat) (d : HostData) (r : HostReq) (q : List HostReq), s.port.queue = r :: q → s.serveReq r = (u, false) →
      exec (.hostWrite a n d) s = .next { u with port := { u.port with queue := r :: q ++ [⟨a, n, .write d⟩] } })
  ∧ (∀ (s : State) (a n : Nat) (r : DevReg) (d : HostData), s.port.queue = [] → s.hostTo a n = .reg r →
      exec (.hostWrite a n d) s = .next (s.writeDev r (BitVec.ofNat 64 d.v))
      ∧ ∃ t, exec (.hostRead a n) s = .next t ∧ t = { s with port := t.port }
          ∧ t.port = { s.port with
              sent := s.port.sent ++ [.data ((List.range 8).map fun i => ((s.readDev r).toNat / 256 ^ i % 256, false))] })
  ∧ (∀ (s : State) (op n a b : Nat) (v c : BitVec 64), op ≤ 2 → (n = 4 ∨ n = 8) → b % n = 0 → s.port.queue = [] → s.hostTo a n = .hbm b →
      s.inRedWindow b = false → s.l1Owned (lineRange b n) = [] → s.heldLines .host = [] →
      let u := s.atomicAt (if op = 0 then .amo 0 else if op = 1 then .amo 8 else .cas) b n (Reg.of v false) (Reg.of c false)
      ∃ t, exec (.hostAtomic op n a v c) s = .next t ∧ t = { u.1 with port := t.port }
        ∧ t.port.sent = u.1.port.sent ++ [.data ((List.range n).map fun i => (u.2.v.toNat / 256 ^ i % 256, u.2.p))])
  ∧ (∀ (s : State) (a n : Nat), s.port.queue = [] → s.hostTo a n = .unsupported →
      ∃ t, exec (.hostRead a n) s = .next t ∧ t = { s with port := t.port }
        ∧ t.port = { s.port with sent := s.port.sent ++ [.unsupported] })
  ∧ ∀ (s : State) (line : Nat) (inval : Bool), isHost (line * 128) = true → (s.l1d.map (·.1)).Pairwise (· < ·) →
      ∃ t, exec (.hostSnoop line inval) s = .next t
        ∧ t.port = { s.port with sent := s.port.sent ++ [.snooped line (s.port.lost.contains line || s.mark line == .lost)] }
        ∧ (∀ u l, t.l1Line u line = some l → l.st ≠ .dirty ∧ (inval = true → l.st = .owned))
        ∧ (∀ u l, s.l1Line u line = some l → l.st = .valid → t.l1Line u line = none)
        ∧ ∀ u l, s.l1Line u line = some l → l.st = .dirty → l.marked = false →
            (inval = false → l.fill = true → t.l1Line u line = some { l with st := .valid, mask := 0, marked := false })
            ∧ (l.poison = 0 → l.mask ≠ 0 →
                ∃ m ∈ t.net, m.loc = line * 128 ∧ m.body = .write (s.tagUid u l.tag) u line l.data l.mask 0 .cached true none)

/-- 19 R394 to R396: a retried flit changes nothing, and a spare lane takes over; a link is bypassed at once where nothing is on its way over it,
and else once that has drained; a Span port that goes down leaves the active count and loses the replies on their way over it alone. No
other link drains. -/
def Sys2Proof.Machine.linksRecover : Prop :=
  (∀ (s : State) (n : Nat), exec (.flitRetry n) s = .next s ∧ exec (.laneRepair n true) s = .next s)
  ∧ (∀ (s : State) (n : Nat), n < 6 → s.linkInReset n = false → s.linkIs n = 0 → (∀ e ∈ s.mgmt.linkState, e.2 < 2) →
      ∃ t, exec (.laneRepair n false) s = .next t ∧ t = { s with mgmt := t.mgmt } ∧ (∀ m, m ≠ n → t.linkIs m = s.linkIs m)
        ∧ ((∀ m ∈ s.net, s.onLink n m = false) → t.linkIs n = 1)
        ∧ ∀ m ∈ s.net, s.onLink n m = true → m.id < s.nextId → m.refused = 0 → m.lost = false → t.linkIs n = 2 + s.nextId)
  ∧ ∀ (s : State) (n : Nat), n < 16 → s.mgmt.portsDown.contains n = false → (bits 16 5 s.mgmt.podcfg).toNat ≠ 0 →
      ∃ t, exec (.spanPortDown n) s = .next t ∧ t = { s with mgmt := t.mgmt, net := t.net }
        ∧ t.mgmt.portsDown = s.mgmt.portsDown ++ [n] ∧ (bits 16 5 t.mgmt.podcfg).toNat = (bits 16 5 s.mgmt.podcfg).toNat - 1
        ∧ bits 0 8 t.mgmt.podcfg = bits 0 8 s.mgmt.podcfg
        ∧ ∀ m, m ∈ s.net →
            ((∀ r v x, m.body ≠ .taggedRep r v x) → m ∈ t.net)
            ∧ ∀ r v x, m.body = .taggedRep r v x → { m with lost := m.lost || (s.linksOf r).contains (6 + n) } ∈ t.net

/-- The host port and the links. -/
def Obligations.HostAndLinks : Prop := hostAccesses ∧ linksRecover

/-- 20 R400, 03 R69, 18 R377: a corrected error is counted; the counters are read, and a unit with more than 1,024 in its second is due for its
test; an uncorrectable error in storage marks its line, one of a Valid L1 line drops it with its record, one in an SRAM byte poisons the byte,
and one in a register poisons the register, with a machine check for its context. That the second is a fixed window (log entry L90), that
a register's error is met where it occurs (L44), and that the error acts in one event (L40), are the model's choices. -/
def Sys2Proof.Machine.errorsAreContained : Prop :=
  (∀ (s : State) (u : Nat), ∃ t, exec (.correctedError u) s = .next t ∧ t = { s with mgmt := t.mgmt }
    ∧ Tbl.get 0 t.mgmt.errors u = Tbl.get 0 s.mgmt.errors u + 1 ∧ ∀ v, v ≠ u → Tbl.get 0 t.mgmt.errors v = Tbl.get 0 s.mgmt.errors v)
  ∧ (∀ (s : State), (∀ e, e ∈ s.mgmt.errors → e.2 - Tbl.get 0 s.mgmt.samples e.1 ≤ 1024) → s.mgmt.sampleAt + 1900000000 ≤ s.clk →
      exec .counterSample s = .next { s with mgmt := { s.mgmt with samples := s.mgmt.errors, sampleAt := s.clk } })
  ∧ (∀ (s : State) (e : Nat × Nat), e ∈ s.mgmt.errors → 1024 < e.2 - Tbl.get 0 s.mgmt.samples e.1 →
      ∃ t, exec .counterSample s = .next t ∧ e.1 ∈ t.mgmt.testDue ∧ t.ctxs = s.ctxs)
  ∧ (∀ (s : State) (line site : Nat), site = 2 ∨ site = 3 → isHbm s.dies (line * 128) = true →
      s.mark (s.canon (line * 128) / 128) = .clean →
      ∃ t, exec (.uncorrectableError site line) s = .next t ∧ t.mark (s.canon (line * 128) / 128) = .poisoned ∧ t.ctxs = s.ctxs)
  ∧ (∀ (s : State) (u line : Nat) (l : L1Line), u < 2 ^ 16 → s.l1Line u line = some l → l.st = .valid →
      ∃ t, exec (.uncorrectableError 0 (u + line * 2 ^ 16)) s = .next t ∧ t.l1Line u line = none ∧ t.ctxs = s.ctxs
        ∧ t.mem = (s.mcRecord 3 4 (line * 128) (unitCode u) 0).mem)
  ∧ (∀ (s : State) (a : Nat), isWindowLoc a = true → ∃ t, exec (.uncorrectableError 4 a) s = .next t ∧ t.bytePoison a = true)
  ∧ ∀ (s : State) (p : Place) (l r : Nat), (s.ctx p.key).status = .resident → l < 64 → 0 < r → r < 32 →
      ∃ t, exec (.uncorrectableError 5 ((p.key * 64 + l) * 128 + r)) s = .next t
        ∧ ((t.ctx p.key).lane l).rx r = { ((s.ctx p.key).lane l).rx r with p := true } ∧ (t.ctx p.key).mcPend ≠ none
        ∧ ∀ k, k ≠ p.key → t.ctx k = s.ctx k

/-- 20 R402, R404, 01 R14: a unit that passes a test that it may have is due no longer; one that fails, in start-up or with its work gone, is replaced
by a spare, of which nothing is known yet, or leaves the active counts, and before that its contexts are asked to be saved where a spare takes
them; the data of an HBM4 target is copied first, and in that time accesses wait; a core that is declared failed ends its contexts and
holds nothing more; a thermal trip lowers an operating point. An engine and a Dray are tested by themselves and retired with their cluster.
Which number of a unit goes, and that the contexts run to their end where no spare is left, is the model's choice (log entry L45); that a
failure acts in one event is L40. -/
def Sys2Proof.Machine.unitsRetire : Prop :=
  (∀ (s : State) (u : Nat), s.mgmt.mayTest u s.clk = true →
    (∃ t, exec (.unitSelfTest u true) s = .next t ∧ t = { s with mgmt := t.mgmt }
      ∧ t.mgmt.testDue = s.mgmt.testDue.filter (· != u) ∧ Tbl.get 0 t.mgmt.tested u = s.clk)
    ∧ (isHbmUnit (sparedWith u) = false →
        (s.mgmt.testing = true ∨ s.mgmt.retired.contains (sparedWith u) = false ∧ s.moved (sparedWith u) = true) →
        ∃ t, exec (.unitSelfTest u false) s = .next t ∧ t.ctxs = s.ctxs ∧ t.l1d = s.l1d
          ∧ (if s.mgmt.hasSpare (sparedWith u)
              then Tbl.get 0 t.mgmt.spares (spareKey (sparedWith u)).1 = Tbl.get 0 s.mgmt.spares (spareKey (sparedWith u)).1 + 1
                ∧ t.mgmt.retired = s.mgmt.retired.filter fun x => !partOf (sparedWith u) x
              else sparedWith u ∈ t.mgmt.retired))
    ∧ (isHbmUnit (sparedWith u) = false → s.mgmt.testing = false → s.mgmt.retired.contains (sparedWith u) = false →
        s.moved (sparedWith u) = false → (unitMembers (sparedWith u)).any s.holdsWork = true → s.mgmt.hasSpare (sparedWith u) = true →
        ∃ t, exec (.unitSelfTest u false) s = .next t ∧ (∃ b, (sparedWith u, b) ∈ t.mgmt.moving) ∧ t.mem = s.mem
          ∧ ∀ k ∈ s.moveCtxs (unitMembers (sparedWith u)), (t.ctx k).preempt = true)
    ∧ (isHbmUnit u = true → s.mgmt.testing = false → s.mgmt.retired.contains u = false →
        ((∀ b, (u, b) ∉ s.mgmt.moving) → ∃ t, exec (.unitSelfTest u false) s = .next t ∧ t = { s with mgmt := t.mgmt }
          ∧ ∀ loc, isHbm s.dies (s.canon loc) = true → targetUnit (s.canon loc) = u → t.atHome loc = false)
        ∧ ∀ b, (u, b) ∈ s.mgmt.moving → ∃ t, exec (.unitSelfTest u false) s = .next t ∧ t.ctxs = s.ctxs
          ∧ t.mgmt.retired = s.mgmt.retired ∧ ∀ c, (u, c) ∉ t.mgmt.moving))
  ∧ (∀ (s : State) (u : Nat), u < 2 ^ 20 → ∃ t, exec (.unitDeclaredFailed u) s = .next t
      ∧ (∀ k, unitOf k = u → t.ctx k = Ctx.vacant) ∧ t.l1 u = [])
  ∧ ∀ (s : State) (isl : Nat) (point : BitVec 4), point.toNat < (s.island isl).point.toNat →
      ∃ t, exec (.thermalTrip isl point false) s = .next t ∧ t = { s with islands := t.islands }
        ∧ t.island isl = (s.island isl).setPoint s.clk point

/-- The step that a start takes next: the first where none goes on, else the one after the last (20 R405). -/
def Sys2Proof.Machine.State.nextStep (s : State) : Nat := if s.mgmt.bootAt.isSome then bootStage s.mgmt + 1 else 1

/-- 20 R401, R405, R406, 06 R123: the start goes step by step: a step that passes sets STAGE, the seventh sets READY; the fourth, by which every built
unit has been tested, passes where every die meets its active counts; a step that fails for a reason of its own, and the start's watchdog after 10 s, count the start as failed with
the reason, and STAGE stays; a reset of the package starts over with no context but those of reset, and a start that went on counts
as failed; a reset of a core ends its contexts. What survives a reset besides HBM4 and its marks (log entry L42), that units which were
retired stay out, their spares mapped, and that the fourth step tests those that no self-test has named (L45), and that a start which a reset
ends has no reason of its own (L75), are the model's choices. -/
def Sys2Proof.Machine.startsAndResets : Prop :=
  (∀ (s : State) (n pkg ports : Nat), bootReady s.mgmt = false → n = s.nextStep → n ≤ 7 → (n = 2 → pkg ≠ 2 ∧ pkg ≠ 3) →
    (n = 4 → s.mgmt.countsMet = true) →
    ∃ t, exec (.startUp n 0 ports pkg) s = .next t ∧ bootStage t.mgmt = n ∧ bootReady t.mgmt = decide (n = 7) ∧ t.ctxs = s.ctxs ∧ t.mem = s.mem
      ∧ (n = 4 → t.mgmt.testDue = [] ∧ ∀ u, s.clk ≤ t.mgmt.lastTest u))
  ∧ (∀ (s : State) (n pkg ports : Nat) (r : BitVec 8), bootReady s.mgmt = false → n = s.nextStep →
      (n = 1 ∧ (r = 1#8 ∨ r = 2#8) ∨ n = 2 ∧ (pkg = 2 ∨ pkg = 3) ∧ r = 6#8 ∨ n = 3 ∧ (r = 3#8 ∨ r = 4#8)
        ∨ n = 4 ∧ s.mgmt.countsMet = false ∧ r = 5#8) →
      ∃ t, exec (.startUp n r ports pkg) s = .next t ∧ t = { s with mgmt := t.mgmt } ∧ bootStage t.mgmt = bootStage s.mgmt
        ∧ bootReady t.mgmt = false ∧ bootFails t.mgmt = min (bootFails s.mgmt + 1) 3 ∧ (bits 8 8 t.mgmt.bootst).toNat = r.toNat)
  ∧ (∀ (s : State) (n : Nat), bootReady s.mgmt = false → s.mgmt.bootAt = some n → n + 19000000000 ≤ s.clk →
      ∃ t, exec .startUpWatchdogExpiry s = .next t ∧ t = { s with mgmt := t.mgmt }
      ∧ bootStage t.mgmt = bootStage s.mgmt ∧ bootFails t.mgmt = min (bootFails s.mgmt + 1) 3 ∧ (bits 8 8 t.mgmt.bootst).toNat = 7)
  ∧ (∀ (s : State), ∃ t, exec (.deviceReset none) s = .next t ∧ t.ctxs = State.reset.ctxs ∧ t.net = State.reset.net
      ∧ t.l1d = State.reset.l1d ∧ t.launches = State.reset.launches ∧ bootReady t.mgmt = false
      ∧ bootFails t.mgmt = (if s.mgmt.bootAt.isSome then min (bootFails s.mgmt + 1) 3 else bootFails s.mgmt)
      ∧ t.mgmt.retired = s.mgmt.retired ∧ t.mgmt.spares = s.mgmt.spares
      ∧ ∀ a, isWindowLoc a = true → t.byte a = State.reset.byte a)
  ∧ ∀ (s : State) (u : Nat), u % 128 < 64 → (s.breakAndFlush [u]).unitWriting u = false →
      ∃ t, exec (.deviceReset (some u)) s = .next t ∧ (∀ k, unitOf k = u → t.ctx k = Ctx.vacant) ∧ t.l1 u = []

/-- Errors, failed units, resets and the start. -/
def Obligations.Reliability : Prop := errorsAreContained ∧ unitsRetire ∧ startsAndResets

/-! ## The matrix unit and the predictor -/

/-- What the checks of a matrix instruction give on its lead lane: the entry of the queue, and the tag that its slots then have (14 R285, R286,
R296 to R301; 15 R320). -/
def Sys2Proof.Machine.State.matrixRow (s : State) (l : Nat) : Instr → Chk (MxOp × SlotTag)
  | .mma b a n => (s.mmaCheck s.here s.own n.toNat (a.toNat, (s.own.lane l).rx a.toNat) (b.toNat, (s.own.lane l).rx b.toNat) none).map
      fun r => (.fresh s.own s.here n.toNat r.2 r.1, r.2)
  | .mmaSp m b a n => (s.mmaCheck s.here s.own n.toNat (a.toNat, (s.own.lane l).rx a.toNat) (b.toNat, (s.own.lane l).rx b.toNat)
        (some (m.toNat, (s.own.lane l).rx m.toNat))).map
      fun r => (.fresh s.own s.here n.toNat r.2 r.1, r.2)
  | .mzero n => ((s.engine (unitOf s.here)).nameSlot s.own.uid n.toNat true).map
      fun r => (.fresh s.own s.here r.1 r.2 .mzero, .none)
  | .mlink a n => (s.mlinkCheck s.here s.own n.toNat a ((s.own.lane l).rx a.toNat)).map
      fun r => (.fresh s.own s.here r.1 r.2.1 (.mlink r.2.2), r.2.1)
  | .epi a n => (s.epiCheck s.here s.own n.toNat a ((s.own.lane l).rx a.toNat)).map
      fun r => (.fresh s.own s.here r.1 r.2.1 (.epi r.2.2 s.own.csr.srseed s.own.csr.satp s.own.dataMode (s.own.csr.mstatus.getLsbD 18)),
        if (epiDesc r.2.2).after = 0 then r.2.1 else .none)
  | .msave a n => (s.msaveCheck s.here s.own n.toNat a ((s.own.lane l).rx a.toNat)).map
      fun r => (.fresh s.own s.here r.1 r.2.1 (.msave ((s.own.lane l).rx a.toNat).v r.2.2), r.2.1)
  | .mrest a n => (s.mrestCheck s.here s.own n.toNat a ((s.own.lane l).rx a.toNat)).map
      fun r => (.fresh s.own s.here n.toNat r.1 (.mrest ((s.own.lane l).rx a.toNat).v r.2), r.1)
  | _ => .error .stall

/-- 14 R285, R287, R288, R299: a matrix instruction whose context's window stores are performed, whose checks pass, with its release performed and room in
the queue and the counter, enters the queue of its engine; its slots become the wave's, with their elements as they were, and `mx`
rises by 1. The first on a slot that `mlink` has handed over acquires at `.clu`. No byte of SRAM holds an error that its reader has not met. -/
def Sys2Proof.Machine.matrixInstructionsQueue : Prop :=
  ∀ (s : State) (i : Instr) (l : Nat) (o : MxOp) (g : SlotTag), s.canIssue i = true → s.own.lead s.issue = some l →
    s.mgmt.badBytes = [] → s.windowDone s.here = true → s.matrixRow l i = .ok (o, g) → s.released s.here 1 = true → s.own.counterFull .mx = false →
    (s.engine (unitOf s.here)).queue.length < 8 →
    ∃ t, exec i s = .next t ∧ t = { s with ctxs := t.ctxs, engines := t.engines, l1d := t.l1d, net := t.net }
      ∧ (t.engine (unitOf s.here)).queue = (s.engine (unitOf s.here)).queue ++ [o]
      ∧ (∀ n, n ∈ o.slots → (t.engine (unitOf s.here)).slot n
          = { (s.engine (unitOf s.here)).slot n with holder := some s.own.uid, tag := g, linked := false })
      ∧ (∀ n, n ∉ o.slots → (t.engine (unitOf s.here)).slot n = (s.engine (unitOf s.here)).slot n)
      ∧ (∀ u, u ≠ unitOf s.here → t.engine u = s.engine u) ∧ (t.ctx s.here).cnt = (s.own.count .mx).cnt
      ∧ (∀ k, k ≠ s.here → t.ctx k = s.ctx k)
      ∧ (∀ m, m ∈ s.issue → (t.ctx s.here).lane m = { s.own.lane m with pc := (s.own.lane m).pc + 4 })
      ∧ ((∀ n, n ∈ o.slots → ((s.engine (unitOf s.here)).slot n).linked = false) → t.l1d = s.l1d ∧ t.net = s.net)
      ∧ ((∃ n, n ∈ o.slots ∧ ((s.engine (unitOf s.here)).slot n).linked = true) →
          ∀ c, c ∈ t.l1 (unitOf s.here) → c.st = .valid → s.covers (dieOfUnit (unitOf s.here)) 1 (c.line * 128) = false)

/-- 14 R289 to R291: an instruction of the queue starts when its turn on its path has come; when its writes and its arrival are made, it leaves the queue
and `mx` falls by 1. -/
def Sys2Proof.Machine.matrixUnitRuns : Prop :=
  (∀ (s : State) (e n : Nat) (o : MxOp), (s.engine e).queue[n]? = some o → o.started = false → (s.engine e).mayStart n o = true →
    ∃ t, exec (.matrixUnitStart e n) s = .next t ∧ t = { s with engines := t.engines }
      ∧ (t.engine e).queue[n]? = some { o with started := true } ∧ (t.engine e).slots = (s.engine e).slots
      ∧ ∀ m, m ≠ n → (t.engine e).queue[m]? = (s.engine e).queue[m]?)
  ∧ ∀ (s u w : State) (e n j : Nat) (o : MxOp), (s.engine e).queue[n]? = some o → o.started = true → o.written = false →
      s.mgmt.badBytes = [] → s.mxWrite e o = (u, true) →
      (u.setEngine e ((u.engine e).modOp n fun o => { o with written := true })).mxArrive e o = (w, true) → w.keyOf o.uid = some j →
      ∃ t, exec (.matrixCompletion e n) s = .next t ∧ (t.engine e).queue = (w.engine e).queue.eraseIdx n
        ∧ (t.engine e).slots = (w.engine e).slots ∧ t.mem = w.mem ∧ (t.ctx j).cnt = ((w.ctx j).uncount .mx).cnt
        ∧ ∀ k, k ≠ j → t.ctx k = w.ctx k

/-- The place of byte `x` of written row `r` of an epilogue's tile (14 R301). -/
def Sys2Proof.Machine.MxOp.tileAt (o : MxOp) (d : EpiDesc) (r x : Nat) : Nat := o.winBase + d.daddr.toNat % 2 ^ 40 + r * d.pitch + x

/-- 14 R291, R294 to R301, 15 R320, R321: the writes of a queued instruction. `mzero` clears its slots, and `mlink` hands them to the wave that it
names. `mma` writes each element from its old value and its products, one of PAIR into both of its slots. `epi` writes its rows, one after
the other, and where the format has whole bytes and no scales, and the tile lies in the window beside the bias, each element of the tile
has its code, with the `srseed` that the instruction took at issue (the model's choice, log entry L85). `msave` stores the elements, their poison
map and the header of each slot, and `mrest` gives the slots the elements and the poison that the areas hold. `epi` and `msave` with a
free at the end leave their slots Free. -/
def Sys2Proof.Machine.matrixWrites : Prop :=
  ∀ (s : State) (e : Nat) (o : MxOp),
    (o.work = .mzero → ∃ t, s.mxWrite e o = (t, true) ∧ t.mem = s.mem
      ∧ ∀ n, n ∈ o.slots → (t.engine e).slot n = { (s.engine e).slot n with elems := [] })
    ∧ (∀ w j, o.work = .mlink w → s.keyOf w = some j → ∃ t, s.mxWrite e o = (t, true) ∧ t.mem = s.mem
        ∧ ∀ n, n ∈ o.slots → (t.engine e).slot n = { (s.engine e).slot n with holder := some w, linked := true })
    ∧ (∀ sp a b idx lab md, o.work = .mma sp a b idx lab md → o.tag ≠ .pair → ∃ t, s.mxWrite e o = (t, true) ∧ t.mem = s.mem
        ∧ (∀ i j, i < 128 → j < 128 →
            let old := ((s.engine e).slot o.slot).elem (128 * i + j)
            let r := mmaElem o.tag old (0, false) (s.products o.winBase sp (opDesc a) (opDesc b) idx lab md i j)
            ((t.engine e).slot o.slot).elem (128 * i + j) = (BitVec.ofNat 32 r.1, r.2))
        ∧ ∀ n, n ≠ o.slot → (t.engine e).slot n = (s.engine e).slot n)
    ∧ (∀ sp a b idx lab md, o.work = .mma sp a b idx lab md → o.tag = .pair → ∃ t, s.mxWrite e o = (t, true) ∧ t.mem = s.mem
        ∧ (∀ i j, i < 128 → j < 128 →
            let old := fun n => ((s.engine e).slot n).elem (128 * i + j)
            let r := mmaElem .pair (old o.slot) (old (o.slot + 1)) (s.products o.winBase sp (opDesc a) (opDesc b) idx lab md i j)
            ((t.engine e).slot o.slot).elem (128 * i + j) = (BitVec.ofNat 32 r.1, r.2)
            ∧ ((t.engine e).slot (o.slot + 1)).elem (128 * i + j) = (BitVec.ofNat 32 (r.1 / 2 ^ 32), r.2))
        ∧ ∀ n, n ≠ o.slot → n ≠ o.slot + 1 → (t.engine e).slot n = (s.engine e).slot n)
    ∧ (∀ w seed satp mode sum, o.work = .epi w seed satp mode sum → ∃ t, s.mxWrite e o = (t, true)
        ∧ (let d := epiDesc w
           let lo := (s.engine e).slot o.slot
           let hi := if o.tag = .pair then (s.engine e).slot (o.slot + 1) else Slot.free
           let n := fmtBits d.fmt / 8
           t.mem = ((List.range d.height).foldl (fun u r => u.epiRow o lo hi d seed r) s).mem
           ∧ (d.bad = false → fmtMx d.fmt = false → fmtBits d.fmt ≠ 4 → d.daddr.toNat % 2 ^ 40 + d.height * d.pitch ≤ 2 ^ 40 →
              (d.bmode ≠ 0 → o.tileAt d d.height 0 ≤ o.winBase + d.baddr.toNat % 2 ^ 40
                ∨ o.winBase + d.baddr.toNat % 2 ^ 40 + 512 ≤ o.tileAt d 0 0) →
              ∀ r q, r < d.height → q < d.width →
                t.value (o.tileAt d r (q * n)) n = d.code seed (s.epiEl o lo hi d r q) % 256 ^ n
                ∧ ∀ i, i < n → t.bytePoison (o.tileAt d r (q * n) + i) = (s.epiEl o lo hi d r q).p))
        ∧ ((epiDesc w).after = 2 → ∀ n, n ∈ o.slots → (t.engine e).slot n = Slot.free))
    ∧ (∀ va pages, o.work = .msave va pages → s.ownedLines pages (o.area va) = [] → ∃ t, s.mxWrite e o = (t, true)
        ∧ (∀ n, n ∈ o.slots → (t.engine e).slot n = Slot.free)
        ∧ (va.toNat % 128 = 0 →
            (∀ x y, x < o.slots.length * areaBytes → y < o.slots.length * areaBytes →
              opLoc o.winBase pages (va.toNat + x) = opLoc o.winBase pages (va.toNat + y) → x = y) →
            ∀ i m, o.slots[i]? = some m →
              let at_ := fun x => opLoc o.winBase pages (va.toNat + i * areaBytes + x)
              let v := (s.engine e).slot m
              (∀ n, n < 16384 → t.value (at_ (4 * n)) 4 = (v.elem n).1.toNat
                ∧ (t.byte (at_ (0x10000 + n / 8))).toNat.testBit (n % 8) = (v.elem n).2)
              ∧ t.value (at_ 0x10800) 8 = headerOf o.tag (decide (i = 1))))
    ∧ ∀ va pages, o.work = .mrest va pages → s.ownedLines pages (o.area va) = [] → ∃ t, s.mxWrite e o = (t, true) ∧ t.mem = s.mem
        ∧ ∀ i m, o.slots[i]? = some m → ∀ n, n < 16384 →
            let at_ := fun x => opLoc o.winBase pages (va.toNat + i * areaBytes + x)
            let d := s.opValue (at_ (4 * n)) 4
            let p := s.opByte (at_ (0x10000 + n / 8))
            ((t.engine e).slot m).elem n = (BitVec.ofNat 32 d.1, d.2 || p.2 || p.1.testBit (n % 8))

/-- The matrix unit: the queue, its course, and the writes. -/
def Obligations.MatrixUnit : Prop := matrixInstructionsQueue ∧ matrixUnitRuns ∧ matrixWrites

/-- The predictor instructions: the address register and the kind. -/
def Sys2Proof.Machine.Instr.predRow : Instr → Option (BitVec 5 × Nat)
  | .pred a => some (a, 0)
  | .punion a => some (a, 1)
  | .sparge a => some (a, 2)
  | _ => none

/-- 14 R288 to R290, R302: a predictor instruction whose checks pass enters the queue of its cluster's predictor, and `mx` rises; the oldest starts;
its completion makes its results from the operands, once no L1 owns a line that it reads, and takes it from the queue, and `mx` falls. -/
def Obligations.Predictor : Prop :=
  (∀ (s : State) (i : Instr) (a : BitVec 5) (kind l : Nat) (p : PredIn), Instr.predRow i = some (a, kind) → s.canIssue i = true →
    s.own.lead s.issue = some l → s.mgmt.badBytes = [] → s.windowDone s.here = true → s.predIssueCheck s.here s.own kind a ((s.own.lane l).rx a.toNat) = .ok p →
    s.released s.here 3 = true → s.own.counterFull .mx = false → (s.cluster (clusterOf s.here)).preds.length < 16 →
    ∃ t o, exec i s = .next t ∧ t = { s with ctxs := t.ctxs, clusters := t.clusters }
      ∧ (t.cluster (clusterOf s.here)).preds = (s.cluster (clusterOf s.here)).preds ++ [o]
      ∧ o.uid = s.own.uid ∧ o.kind = kind ∧ o.desc = p.desc ∧ o.pdesc = p.pdesc ∧ o.counts = p.counts ∧ o.pages = p.pages
      ∧ o.started = false ∧ (∀ c, c ≠ clusterOf s.here → t.cluster c = s.cluster c)
      ∧ (t.ctx s.here).cnt = (s.own.count .mx).cnt ∧ (∀ k, k ≠ s.here → t.ctx k = s.ctx k)
      ∧ ∀ m, m ∈ s.issue → (t.ctx s.here).lane m = { s.own.lane m with pc := (s.own.lane m).pc + 4 })
  ∧ (∀ (s : State) (c : Nat) (o : PredOp) (r : List PredOp), (s.cluster c).preds = o :: r → o.started = false →
      ∃ t, exec (.predictorStart c) s = .next t ∧ t = { s with clusters := t.clusters }
        ∧ t.cluster c = { s.cluster c with preds := { o with started := true } :: r } ∧ ∀ d, d ≠ c → t.cluster d = s.cluster d)
  ∧ ∀ (s : State) (c j : Nat) (o : PredOp) (r : List PredOp), (s.cluster c).preds = o :: r → o.started = true →
      s.mgmt.badBytes = [] → s.ownedLines o.pages o.reads = [] → s.keyOf o.uid = some j →
      ∃ t, exec (.predictorCompletion c) s = .next t ∧ (t.cluster c).preds = r
        ∧ t.mem = (if o.kind = 0 then s.runPred o else if o.kind = 1 then s.runUnion o else s.runCheck o).mem
        ∧ (t.ctx j).cnt = ((s.ctx j).uncount .mx).cnt ∧ ∀ k, k ≠ j → t.ctx k = s.ctx k

/-! ## The memory system's own events -/

/-- Message `k` is `m`, and nothing holds its delivery (03 R53). -/
def Sys2Proof.Machine.State.brings (s : State) (k : Nat) (m : NetMsg) : Prop := s.msg k = some m ∧ s.deliverable m = true

/-- The home slice of a message is being retired (20 R402). -/
def Sys2Proof.Machine.State.retiring (s : State) (m : NetMsg) : Prop := ∃ e ∈ s.mgmt.moving, e.1 = 2 ^ 20 + s.homeOf m.loc

/-- The data of the HBM4 that holds the line of a message is being copied (20 R402). -/
def Sys2Proof.Machine.State.copying (s : State) (m : NetMsg) : Prop := isHost m.loc = false ∧ s.rowsMoving m.loc = true

/-- The home of a message takes it: neither holds. -/
def Sys2Proof.Machine.State.serves (s : State) (m : NetMsg) : Prop := ¬s.retiring m ∧ ¬s.copying m

/-- The messages but `k` are those that they were. -/
def Sys2Proof.Machine.othersStay (k : Nat) (s t : State) : Prop := ∀ n : NetMsg, n.id ≠ k → (n ∈ t.net ↔ n ∈ s.net)

/-- The bytes of a line under a mask have gone to storage, with their poison, and no other byte has changed. -/
def Sys2Proof.Machine.merged (s t : State) (line : Nat) (d : LineBits) (mask poison : BitVec 128) : Prop :=
  (∀ i, i < 128 → mask.getLsbD i = true →
    t.byte (s.canon (line * 128) + i) = BitVec.ofNat 8 (lineByte d i) ∧ t.bytePoison (s.canon (line * 128) + i) = poison.getLsbD i)
  ∧ ∀ b, (∀ i, i < 128 → mask.getLsbD i = true → b ≠ s.canon (line * 128) + i) → t.byte b = s.byte b ∧ t.bytePoison b = s.bytePoison b

/-- No L1 owns the line of a request at its home, and no request waits there for the line's directory entry (03 R53, R54). -/
def Sys2Proof.Machine.State.unclaimed (s : State) (loc : Nat) : Prop :=
  s.dirFind (loc / 128) = none
  ∧ ∀ e ∈ (s.slice (s.homeOf loc)).stalled, s.canon e.2.loc / 128 ≠ s.canon loc / 128

/-- 03 R54: requests at a home slice. A read of a line that nobody owns is answered with the line; a read of bytes gives them to its loads; a write
merges its bytes and is acknowledged; a request for ownership with room in its set gets an entry and the line; with the set full it
waits for the recall of a victim; a request for a line that another unit owns is queued, and the line is recalled. The set that an
address selects is the model's choice (L50). A slice that is being retired takes no request but refuses it for 64 clk, and while the data of
the HBM4 behind it is being copied a request waits at the home (20 R402). -/
def Sys2Proof.Machine.homesServe : Prop :=
  (∀ (s : State) (k u line : Nat) (m : NetMsg), s.brings k m → s.serves m → m.body = .lineRead u line → s.unclaimed m.loc →
    ∃ t, exec (.sliceRead k) s = .next t ∧ t = { s with net := t.net } ∧ othersStay k s t
      ∧ ∃ n ∈ t.net, n.id = k ∧ n.body = .lineFill u line (s.readLine line).1 (s.readLine line).2 none)
  ∧ (∀ (s : State) (k : Nat) (ps : List ReadPart) (h : Home) (m : NetMsg), s.brings k m → s.serves m → k < s.nextId → m.body = .read ps h → h ≠ .core → h ≠ .window →
      s.unclaimed m.loc →
      exec (.sliceRead k) s = .next (ps.foldl (fun t q => t.pendBytes q.pend q.off (t.readPart q h)) (s.dropMsg k)))
  ∧ (∀ (s : State) (k uid u line : Nat) (d : LineBits) (mask poison : BitVec 128) (h : Home) (rel : Bool) (grp : Option Nat) (m : NetMsg),
      s.brings k m → s.serves m → k < s.nextId → m.body = .write uid u line d mask poison h rel grp → h ≠ .reduction →
      s.unclaimed m.loc →
      ∃ t, exec (.sliceWrite k) s = .next t ∧ merged s t line d mask poison
        ∧ t = { s with mem := t.mem, memPoison := t.memPoison, marks := t.marks, fullBits := t.fullBits, nextId := s.nextId + 1, net := t.net }
        ∧ (∀ n, n ∈ s.net → n.id ≠ k → n ∈ t.net) ∧ ∃ n ∈ t.net, n.id = s.nextId ∧ n.body = .writeAck uid u line rel grp)
  ∧ (∀ (s : State) (k u line tag : Nat) (m : NetMsg), s.brings k m → s.serves m → m.body = .own u line tag → m.loc = line * 128 → s.unclaimed m.loc →
      (s.dirSetOf line).length < 16 →
      ∃ t, exec (.ownershipRequest k) s = .next t ∧ t = { s with slices := t.slices, nextId := s.nextId + 1, net := t.net }
        ∧ t.dirFind line = some ⟨s.canon (line * 128) / 128, u, false, s.nextId, [], none⟩ ∧ othersStay k s t
        ∧ ∃ n ∈ t.net, n.id = k ∧ n.body = .lineFill u line (s.readLine line).1 (s.readLine line).2 (some tag))
  ∧ (∀ (s : State) (k u line tag : Nat) (v : DirEnt) (m : NetMsg), s.brings k m → s.serves m → k < s.nextId → m.body = .own u line tag →
      m.loc = line * 128 → s.unclaimed m.loc → 16 ≤ (s.dirSetOf line).length → s.dirVictim (s.dirSetOf line) = some v →
      v.recalled = false → (s.slice (s.homeOf (line * 128))).queued < 128 →
      ∃ t, exec (.ownershipRequest k) s = .next t ∧ t = { s with slices := t.slices, nextId := s.nextId + 1, net := t.net }
        ∧ (v.line, m) ∈ (t.slice (s.homeOf (line * 128))).stalled ∧ (∀ n ∈ t.net, n.id ≠ k)
        ∧ ∃ n ∈ t.net, n.id = s.nextId ∧ n.body = .recall v.owner v.line false)
  ∧ (∀ (s : State) (k u line : Nat) (m : NetMsg), s.brings k m → s.retiring m → m.body = .lineRead u line → s.unclaimed m.loc →
      ∃ t, exec (.sliceRead k) s = .next t ∧ t = { s with net := t.net } ∧ othersStay k s t
        ∧ t.msg k = some { m with refused := m.refused + 1, due := s.msgClk m + 64 })
  ∧ (∀ (s : State) (k u line : Nat) (m : NetMsg), s.brings k m → ¬s.retiring m → s.copying m → m.body = .lineRead u line →
      ∃ t, exec (.sliceRead k) s = .next t ∧ t = { s with net := t.net } ∧ othersStay k s t ∧ t.msg k = some m)
  ∧ ∀ (s : State) (k u line : Nat) (m : NetMsg) (e : DirEnt), s.brings k m → s.serves m → k < s.nextId → m.body = .lineRead u line →
      s.dirFind (m.loc / 128) = some e → e.recalled = false → (s.slice (s.homeOf (e.line * 128))).queued < 128 →
      ∃ t, exec (.sliceRead k) s = .next t ∧ t = { s with slices := t.slices, nextId := s.nextId + 1, net := t.net }
        ∧ t.dirFind (m.loc / 128) = some { e with recalled := true, queue := e.queue ++ [m] }
        ∧ (∀ n, n.id ≠ k → n ∈ s.net → n ∈ t.net)
        ∧ ∃ n ∈ t.net, n.id = s.nextId ∧ n.body = .recall e.owner e.line true

/-- 03 R54, R55, 06 R119: the end of an ownership. A line that its owner gives up, or answers a recall of, merges its bytes and is owned no more; an
owner without a lease answers a recall at once, Valid after a read's and without the line after another's; while the line is leased the
recall waits with the core, which holds four. Where a line comes home, no record, no write to a save area and no request of the host waits for
one. -/
def Sys2Proof.Machine.ownershipsEnd : Prop :=
  (∀ (s : State) (k uid u line : Nat) (d : LineBits) (mask poison : BitVec 128) (grp : Option Nat) (m : NetMsg) (e : DirEnt),
    s.brings k m → k < s.nextId → m.body = .giveUp uid u line d mask poison grp → m.loc = line * 128 → s.dirFind line = some e →
    e.owner = u → e.queue = [] → (∀ x ∈ (s.slice (s.homeOf (line * 128))).stalled, x.1 ≠ e.line) →
    s.mgmt.mcWait = [] → s.areaWait = [] → s.port.queue = [] →
    ∃ t, exec (.giveUpOwnership k) s = .next t ∧ merged s t line d mask poison ∧ t.dirFind line = none
      ∧ ∃ n ∈ t.net, n.id = s.nextId ∧ n.body = .writeAck uid u line true grp)
  ∧ (∀ (s : State) (k u line : Nat) (d : LineBits) (mask poison : BitVec 128) (m : NetMsg) (e : DirEnt),
      s.brings k m → m.body = .recallRep u line d mask poison → s.dirFind line = some e → e.recalled = true → e.owner = u → e.queue = [] →
      (∀ x ∈ (s.slice (s.homeOf (line * 128))).stalled, x.1 ≠ e.line) → s.mgmt.mcWait = [] → s.areaWait = [] → s.port.queue = [] →
      ∃ t, exec (.recallReply k) s = .next t ∧ merged s t line d mask poison ∧ t.dirFind line = none ∧ (∀ n ∈ t.net, n.id ≠ k))
  ∧ (∀ (s : State) (k u line : Nat) (rd : Bool) (m : NetMsg) (l : L1Line), s.brings k m → k < s.nextId → m.body = .recall u line rd →
      (∀ i, i < 4 → (s.ctx (u * 32 + i)).lease = .idle) → s.l1Line u line = some l → l.line = line → l.st = .owned → l.marked = false →
      isHost (line * 128) = false → u ≠ hostUnit →
      ∃ t, exec (.recall k) s = .next t ∧ t.mem = s.mem ∧ (rd = true → t.slices = s.slices)
        ∧ (∀ x, (t.dirFind x).map (·.owner) = (s.dirFind x).map (·.owner))
        ∧ (∃ n ∈ t.net, n.id = s.nextId ∧ n.body = .recallRep u line l.data l.mask l.poison)
        ∧ t.l1Line u line = (if rd then some { l with st := .valid, mask := 0, marked := false } else none)
        ∧ ∀ v x, v ≠ u ∨ x ≠ line → t.l1Line v x = s.l1Line v x)
  ∧ (∀ (s : State) (k u line : Nat) (rd : Bool) (m : NetMsg), s.brings k m → m.body = .recall u line rd →
      (s.dropMsg k).armReady u = s.dropMsg k → (s.leasedBy u line).isSome = true → (s.core u).recalls.length < 4 →
      ∃ t, exec (.recall k) s = .next t ∧ t = { s with cores := t.cores, net := t.net }
        ∧ t.core u = { s.core u with recalls := (s.core u).recalls ++ [(line, rd)] } ∧ (∀ v, v ≠ u → t.core v = s.core v))
  ∧ ∀ (s : State) (k u line : Nat) (rd : Bool) (m : NetMsg), s.msg k = some m → m.body = .recall u line rd → m.stale = true →
      (m.due ≤ s.msgClk m ∨ s.mayDefer u line = false) → s.armReady u = s → (s.leasedBy u line).isSome = false →
      exec (.recallDeferralExpiry k) s = .next ((s.dropMsg k).serveRecall u line rd)

/-- The tagged requests to a home that have no answer: on their way, queued behind a recall there, deferred, or waiting for its core's handler. -/
def Sys2Proof.Machine.State.openTo (s : State) (home : Nat) : List TagReq :=
  s.inFlight.filterMap (s.tagTo home)
    ++ (s.slices.flatMap (fun e => e.2.deferred) ++ s.cores.flatMap fun e => e.2.owners).filter fun r => s.tagHome r == home

/-- 03 R53, R56 to R58, R66 to R68: tagged requests. A new one at its slice is performed once, remembered, and answered; a duplicate gets the stored
reply and performs nothing; a quiet context's replies are confirmed; a refused request leaves again when it is due; one without a
reply is sent again with its tag, in the place that its SEQ has among the requests of its context; a path that is declared failed has failed
every request that waits on it, for which the instruction that waits raises REMOTE; a cancel frees the entries of
its loads; a reply serves the instruction that waits, or performs the unit of the notice that waits (04 R84; 19 R397), and any other is discarded. The clk
of a requester without a place are the package's (the model's choice, log entry L76), as it is the model's that the entries of contexts which
stood at one place are told apart (L94). -/
def Sys2Proof.Machine.taggedRequestsRun : Prop :=
  (∀ (s : State) (k : Nat) (r : TagReq) (o : Nat) (m : NetMsg), s.brings k m → s.serves m → k < s.nextId → m.body = .tagged r → r.op = .amo o →
    s.mgmt.failedHomes.contains (s.tagHome r) = false → s.tagBusy r = false → r.home = .cached → s.unclaimed m.loc →
    (let h := s.homeOf r.loc
     let dd := (s.slice h).dedup.filter fun e => !s.confirmed r.place r.uid r.ack e
     let v := s.atomicAt r.op (s.canon r.loc) r.n r.v r.c
     dd.length < 1024 → (∀ e ∈ dd, e.holds r = false) →
     ∃ t, exec (.taggedRequest k) s = .next t ∧ t.mem = v.1.mem ∧ t.memPoison = v.1.memPoison
      ∧ t = { s with mem := t.mem, memPoison := t.memPoison, slices := t.slices, nextId := s.nextId + 1, net := t.net }
      ∧ (t.slice h).dedup = dd ++ [⟨r.place, r.uid, r.seq, true, v.2, 0⟩]
      ∧ ∃ n ∈ t.net, n.id = s.nextId ∧ n.body = .taggedRep r v.2 0))
  ∧ (∀ (s : State) (k : Nat) (r : TagReq) (e : Dedup) (m : NetMsg), s.brings k m → s.serves m → k < s.nextId → m.body = .tagged r → r.carries = false →
      s.mgmt.failedHomes.contains (s.tagHome r) = false → s.tagBusy r = false → r.home = .cached → s.unclaimed m.loc →
      ((s.slice (s.homeOf r.loc)).dedup.filter fun e => !s.confirmed r.place r.uid r.ack e).find? (fun e => e.holds r) = some e →
      e.done = true →
      ∃ t, exec (.taggedRequest k) s = .next t ∧ t = { s with slices := t.slices, nextId := s.nextId + 1, net := t.net }
        ∧ ∃ n ∈ t.net, n.id = s.nextId ∧ n.body = .taggedRep r e.v e.status)
  ∧ (∀ (s : State) (p : Place) (h : Nat), (s.ctx p.key).tagAt + 4096 ≤ s.now p.key →
      let keep := fun (e : Dedup) => !s.confirmed p.key (s.ctx p.key).uid ((s.ctx p.key).unanswered.headD (s.ctx p.key).seq) e
      (h < 2 ^ 20 → ∃ t, exec (.bareAcknowledgement p h) s = .next t ∧ t = { s with slices := t.slices }
        ∧ t.slice h = { s.slice h with dedup := (s.slice h).dedup.filter keep } ∧ ∀ g, g ≠ h → t.slice g = s.slice g)
      ∧ ∀ u, h = 2 ^ 20 + u → ∃ t, exec (.bareAcknowledgement p h) s = .next t ∧ t = { s with cores := t.cores }
        ∧ t.core u = { s.core u with dedup := (s.core u).dedup.filter keep } ∧ ∀ g, g ≠ u → t.core g = s.core g)
  ∧ (∀ (s : State) (k : Nat) (m : NetMsg), s.msg k = some m → m.due ≠ 0 → m.due ≤ s.msgClk m → isHeldMsg m.body = false →
      (isRecall m.body && m.stale) = false →
      exec (if isFld m.body then .fldResend k else .refusedResend k) s = .next (s.setMsg { m with due := 0 }))
  ∧ (∀ (s : State) (r : TagReq) (rs : List TagReq),
      (s.openTags.filter fun q => q.uid == r.uid && q.seq.toNat == r.seq.toNat) = r :: rs → (∀ q ∈ rs, q.sent ≤ r.sent) →
      r.sent + (if isPod r.loc = true ∧ podPkg r.loc ≠ s.ownPkg then 65536 else 8192) ≤ s.reqClk r →
      exec (.taggedResendTimeout (r.uid * 65536 + r.seq.toNat)) s
        = .next (({ s with net := s.net.filter (fun m => !m.lostOf r), nextId := s.nextId + 1 } : State).insertMsg
            { id := s.nextId, lane := r.outLane, loc := r.loc, refused := 0, due := 0, lost := false, stale := false,
              body := .tagged { r with sent := s.reqClk r } }))
  ∧ (∀ (s : State) (home : Nat), (s.ctxs.map fun e => e.1).Pairwise (· < ·) →
      ∃ t, exec (.pathDeclaredFailed home) s = .next t ∧ t.mgmt.failedHomes.contains home = true ∧ t.mem = s.mem
        ∧ (∀ m ∈ t.inFlight, s.tagTo home m = none)
        ∧ ∀ r j, r ∈ s.openTo home → s.keyOf r.uid = some j → s.xfer r.uid = none → (s.ctx j).status ≠ .ending → (∀ l, ((s.ctx j).lane l).helper = false) →
            (t.ctx j).remote ≠ [] ∧ r.seq ∉ (t.ctx j).unanswered)
  ∧ (∀ (s : State) (k uid : Nat) (m : NetMsg), s.brings k m → m.body = .cancel uid →
      ∃ t, exec (.fldCancel k) s = .next t ∧ t.mem = s.mem ∧ t.pends = s.pends ∧ (∀ n ∈ t.net, n.id ≠ k)
        ∧ (∀ n ∈ t.inFlight, ∀ r, n.request = some r → s.orphanFld uid r = false)
        ∧ ∀ h r, r ∈ (t.slice h).deferred ↔ r ∈ (s.slice h).deferred ∧ s.orphanFld uid r = false)
  ∧ ∀ (s : State) (k x : Nat) (r : TagReq) (v : Reg) (m : NetMsg), s.brings k m → m.body = .taggedRep r v x →
      (∀ p, r.pend = some p → (s.byUid r.uid).map (fun c => c.unanswered.contains r.seq) = some true →
        exec (.taggedReply k) s = .next (((s.dropMsg k).modUid r.uid
          (fun c => { c with unanswered := c.unanswered.filter fun q => q != r.seq })).pendBytes p 0 (replyBytes r.n v)))
      ∧ ((∀ c, s.byUid r.uid = some c → c.unanswered.contains r.seq = false) →
          (s.xfer r.uid = none → exec (.taggedReply k) s = .next (s.dropMsg k))
          ∧ ∀ w n, k < s.nextId → s.xfer r.uid = some w → w.notice = some n → n.sent = true → BitVec.ofNat 16 n.unit = r.seq →
              exec (.taggedReply k) s = .next ((s.dropMsg k).unitDone r.uid w n.unit false n.pod))

/-- The homes: requests, the end of an ownership, and tagged requests. -/
def Obligations.HomeSlices : Prop := homesServe ∧ ownershipsEnd ∧ taggedRequestsRun

/-- 02 R41 to R44: a free walker takes the oldest request of the next cluster, after the one that it served last, that has one; it joins an active walk of
its page, or its walk starts. The entry of each level is read at its home: a pointer leads to the next level and is kept in the die's
walk cache; a leaf that permits the access is installed in the TLBs of the requester, the cluster and the die; a bad entry gives
every waiting context its fault. Which free walker takes a request (log entry L58), and that a leaf is installed in each of those TLBs (L78), are
the model's choices. -/
def Sys2Proof.Machine.walksRun : Prop :=
  (∀ (s : State) (die walker i : Nat) (w : Walk) (q : List Walk), i < 16 → walker < 64 → walker ∉ s.busyWalkers die →
    (∀ j, j < walker → j ∈ s.busyWalkers die) →
    (let c := fun j => die * 16 + (Tbl.get 0 s.walkRr (die * 64 + walker) + 1 + j) % 16
     (∀ j, j < i → Tbl.get [] s.walkQ (c j) = []) → Tbl.get [] s.walkQ (c i) = w :: q →
     ∃ t, exec (.pageWalk die) s = .next t ∧ t = { s with walkRr := t.walkRr, walkQ := t.walkQ, walks := t.walks }
      ∧ Tbl.get 0 t.walkRr (die * 64 + walker) = c i % 16 ∧ Tbl.get [] t.walkQ (c i) = q
      ∧ (∀ d, d ≠ c i → Tbl.get [] t.walkQ d = Tbl.get [] s.walkQ d)
      ∧ ((∀ x ∈ s.walks, (x.same w.asid w.va && x.die == die) = false ∧ x.id ≠ w.id) →
          s.walkCached w.die w.entryAt w.level = none → t.walks = s.walks ++ [{ w with walker := walker }])
      ∧ ∀ (n : Nat) (x : Walk), s.walks[n]? = some x → (x.same w.asid w.va && x.die == die) = true →
          t.walks[n]? = some (w.waiters.foldl Walk.join x) ∧ t.walks.length = s.walks.length))
  ∧ ∀ (s : State) (k : Nat) (w : Walk), s.walks.find? (fun x => x.id == k) = some w → (s.walks.map (·.id)).Nodup →
      (s.walks.filter fun x => x.die == w.die && x.entryAt / 128 == w.entryAt / 128) = [w] →
      w.dead = false → isHbm s.dies w.table = true →
      (let a := w.entryAt
       s.atHome a = true → s.anyPoison a 8 = false → s.mark (a / 128) = .clean →
       (∀ n, s.readPte w.level w.va w.asid (s.value a 8) = .next n →
          s.walkCached w.die (n + 8 * levelIndex w.va (w.level + 1)) (w.level + 1) = none →
          ∃ t, exec (.tableLineReply k) s = .next t
          ∧ t = { s with fresh := s.fresh + 1, walkCache := t.walkCache,
                         walks := s.walks.map fun x => if x.id == k then { x with table := n, level := x.level + 1 } else x }
          ∧ t.walkCached w.die a w.level = some n)
       ∧ (∀ e x, s.readPte w.level w.va w.asid (s.value a 8) = .leaf e → w.waiters = [x] → e.permits x.acc x.mode x.sum x.mxr = true →
          ∃ t, exec (.tableLineReply k) s = .next t ∧ (∀ y ∈ t.walks, y.id ≠ k)
            ∧ ∀ n, n ∈ x.tlb.toList ++ [clusterTlb x.unit, dieTlb (dieOfUnit x.unit)] →
                (s.usePte a (s.value a 8) x.acc { e with perm := BitVec.ofNat 9 (s.value a 8) }).2 ∈ t.tlb n)
       ∧ (s.readPte w.level w.va w.asid (s.value a 8) = .page → (s.ctxs.map fun e => e.1).Pairwise (· < ·) →
          ∃ t, exec (.tableLineReply k) s = .next t ∧ (∀ x ∈ t.walks, x.id ≠ k) ∧ t.mem = s.mem
            ∧ ∀ x uid j, x ∈ w.waiters → x.who = .ctx uid → s.keyOf uid = some j →
                (⟨0, w.va / 65536, x.acc⟩ : WalkFault) ∈ (t.ctx j).walkFault))

/-- 05 R101, R102, 11 R221: line replies and stores at an L1D. A reply for a line that nothing waits for is installed where its set has room, Valid or
Owned; an acknowledgement takes its part from its count; the oldest store leaves its queue, with the others of its
instruction to the line (10 R211), to a window's bank or into a line that its context has tagged; under a lease it waits. -/
def Sys2Proof.Machine.linesAndStores : Prop :=
  (∀ (s : State) (k u line : Nat) (d : LineBits) (p : BitVec 128) (own : Option Nat) (m : NetMsg), s.brings k m →
    m.body = .lineFill u line d p own → m.stale = false → s.l1Line u line = none → (s.l1Set u line).length < l1Ways u →
    (∀ e ∈ s.pends, ∀ q, e.2 = some q → q.unit = u → ∀ w ∈ q.waits, w.2.2.2 ≠ k) →
    ∃ t, exec (.l1Fill k) s = .next t ∧ t = { s with l1d := t.l1d, net := t.net } ∧ (∀ n ∈ t.net, n.id ≠ k)
      ∧ t.l1Line u line = some ⟨line, if own.isSome then .owned else .valid, d, 0, true, p, own.getD 0, Under.none, false⟩
      ∧ ∀ v x, v ≠ u ∨ x ≠ line → t.l1Line v x = s.l1Line v x)
  ∧ (∀ (s : State) (k uid u line g j : Nat) (rel : Bool) (v : Group) (m : NetMsg), s.brings k m → m.body = .writeAck uid u line rel (some g) →
      s.group g = some v → v.parts ≤ 1 → v.acq = none → s.keyOf v.uid = some j →
      ∃ t, exec (.writeBackAck k) s = .next t ∧ t = { s with ctxs := t.ctxs, groups := t.groups, net := t.net } ∧ t.group g = none
        ∧ (t.ctx j).cnt = ((s.ctx j).uncount v.path).cnt ∧ ∀ i, i ≠ j → t.ctx i = s.ctx i)
  ∧ ∀ (s : State) (u : Nat) (e : SqEnt) (q : List SqEnt), Tbl.get [] s.storeQ u = e :: q →
      (e.home = .window → (∀ f ∈ q, e.joins f = true → f.grp = none) →
        let w := LineStore.of e (e :: q.filter e.joins)
        exec (.storeQueueDrain u) s = .next (({ s with storeQ := Tbl.set [] s.storeQ u (q.filter fun f => !e.joins f) } : State).send
          (laneOut u) (w.line * 128) (.bankWrite e.uid u w.line w.data w.mask w.poison e.thru e.grp)))
      ∧ (∀ l, e.home = .cached → (s.leasedBy u (e.loc / 128)).isSome = false → e.thru = false →
          e.grp = none → (∀ f ∈ q, e.joins f = true → f.grp = none) → s.l1Line u (e.loc / 128) = some l → l.st ≠ .valid → l.tag = s.tagOfStore u e →
          ∃ t, exec (.storeQueueDrain u) s = .next t ∧ t = { s with storeQ := t.storeQ, l1d := t.l1d }
            ∧ Tbl.get [] t.storeQ u = (q.filter fun f => !e.joins f)
            ∧ t.l1Line u (e.loc / 128) = some (l.store (.of e (e :: q.filter e.joins)) l.tag)
            ∧ ∀ x, x ≠ e.loc / 128 → t.l1Line u x = s.l1Line u x)
      ∧ (e.home = .cached → (s.leasedBy u (e.loc / 128)).isSome = true → exec (.storeQueueDrain u) s = .next s)

/-- Posted stores to a line of SRAM: the bytes under the mask and their poison at their places, no other byte changed. -/
def Sys2Proof.Machine.posted (s t : State) (line : Nat) (data : LineBits) (mask poison : BitVec 128) : Prop :=
  t = { s with mem := t.mem, memPoison := t.memPoison, net := t.net }
  ∧ (∀ i, i < 128 → mask.getLsbD i = true →
      t.byte (line * 128 + i) = BitVec.ofNat 8 (lineByte data i) ∧ t.bytePoison (line * 128 + i) = poison.getLsbD i)
  ∧ ∀ b, (∀ i, i < 128 → mask.getLsbD i = true → b ≠ line * 128 + i) → t.byte b = s.byte b ∧ t.bytePoison b = s.bytePoison b

/-- 05 R94, R96, R99: the SRAMs. A posted store writes its bytes; a read gives its bytes to its loads; an atomic of the cluster SRAM is that of 11 R224; a core's
SRAM serves loads and stores once its handler has performed the atomics that came before. -/
def Sys2Proof.Machine.sramsServe : Prop :=
  (∀ (s : State) (k uid u line : Nat) (data : LineBits) (mask poison : BitVec 128) (thru : Bool) (m : NetMsg), s.brings k m →
    (m.body = .bankWrite uid u line data mask poison thru none →
      ∃ t, exec (.bankAccess k) s = .next t ∧ posted s t line data mask poison)
    ∧ (m.body = .coreWrite uid u line data mask poison thru none → (s.core (coreOf (line * 128))).owners = [] →
        ∃ t, exec (.coreSramAccess k) s = .next t ∧ posted s t line data mask poison))
  ∧ (∀ (s : State) (k : Nat) (ps : List ReadPart) (m : NetMsg), s.brings k m → s.mgmt.badBytes = [] →
      (m.body = .read ps .window → exec (.bankAccess k) s
        = .next (ps.foldl (fun t q => t.pendBytes q.pend q.off (t.readAt q.loc q.n .window)) (s.dropMsg k)))
      ∧ (m.body = .read ps .core → (∀ q ∈ ps, (s.core (coreOf q.loc)).owners = []) → exec (.coreSramAccess k) s
        = .next (ps.foldl (fun t q => t.pendBytes q.pend q.off (t.readAt q.loc q.n .core)) (s.dropMsg k))))
  ∧ ∀ (s : State) (k p : Nat) (r : TagReq) (m : NetMsg), s.brings k m → s.mgmt.badBytes = [] → m.body = .bankAtomic r → isHost r.loc = false →
      r.pend = some p →
      exec (.bankAccess k) s = .next ((((s.dropMsg k).atomicAt r.op r.loc r.n r.v r.c).1).pendBytes p 0
        (replyBytes r.n ((s.dropMsg k).atomicAt r.op r.loc r.n r.v r.c).2))

/-- 07 R129, 10 R202: when the last bytes of an integer load arrive, its register takes their little-endian value, sign- or zero-extended, poisoned
where a byte is, and the load is outstanding no more. -/
def Sys2Proof.Machine.loadsDeliver : Prop :=
  ∀ (s : State) (p j rd : Nat) (sg : Bool) (q : Pend) (bs : List (Nat × Bool)),
    s.pend p = some q → q.data = 0 → q.poison = 0 → bs.length = q.n → q.n ≤ 8 →
    q.left = BitVec.ofNat 36 (2 ^ q.n - 1) → 0 < q.n → (∀ b ∈ bs, b.1 < 256) → q.dst = .x rd q.n sg → 0 < rd → rd < 32 →
    s.group q.grp = none → s.keyOf q.uid = some j →
    (s.pendBytes p 0 bs).pend p = none ∧ (s.pendBytes p 0 bs).mem = s.mem
    ∧ (((s.pendBytes p 0 bs).ctx j).lane q.lane).rx rd
        = { v := extendLoad sg q.n (bs.foldr (fun b v => b.1 + 256 * v) 0), p := bs.any fun b => b.2 }
    ∧ ∀ i, i ≠ j → (s.pendBytes p 0 bs).ctx i = s.ctx i

/-- 05 R106, R107, 03 R58, 19 R394: a flush of an entry with no tagged line and no write of its context on its way frees the entry, or gives it to the context that
waits for it, and is answered; the last answer lets the context issue, with no Valid copy of an earlier stay left at its unit (16 R341); a Departed entry gives its lines back one by one and is Free when it
has none and no write is on its way; a link that retrains loses the replies that are on their way over it, and nothing else, and a link
that is held in reset does not retrain. -/
def Sys2Proof.Machine.tagsAndLinks : Prop :=
  (∀ (s : State) (k u idx uid waiter : Nat) (cid : BitVec 48) (e : TagEnt) (m : NetMsg), s.brings k m → k < s.nextId →
    m.body = .tagFlush u idx cid uid waiter → s.tagEnt u idx = some e → e.uid = uid → e.live = false →
    (∀ l ∈ s.l1 u, l.taggedBy idx = false) → (s.dropMsg k).uidWriting u uid = false →
    ∃ t, exec (.tagFlush k) s = .next t
      ∧ (waiter = uid → t = { s with tags := t.tags, nextId := s.nextId + 1, net := t.net } ∧ t.tagEnt u idx = none)
      ∧ (∀ c, waiter ≠ uid → s.byUid waiter = some c →
          t = { s with tags := t.tags, ctxs := t.ctxs, saved := t.saved, nextId := s.nextId + 1, net := t.net }
          ∧ t.tagEnt u idx = some ⟨idx, c.ctxid, waiter, true, none⟩)
      ∧ (∀ x, x ≠ idx → t.tagEnt u x = s.tagEnt u x) ∧ ∃ n ∈ t.net, n.id = s.nextId ∧ n.body = .tagFlushRep waiter)
  ∧ (∀ (s : State) (k uid j : Nat) (m : NetMsg), s.msg k = some m → m.body = .tagFlushRep uid → s.keyOf uid = some j →
      (s.dropMsg k).flushing uid = false →
      ∃ t, exec (.tagFlushReply k) s = .next t ∧ t = { s with ctxs := t.ctxs, net := t.net, l1d := t.l1d } ∧ (∀ n ∈ t.net, n.id ≠ k)
        ∧ (∀ c, c ∈ t.l1 (unitOf j) → c.st ≠ .valid) ∧ (∀ u, u ≠ unitOf j → t.l1 u = s.l1 u)
        ∧ t.ctx j = { s.ctx j with flushWait := false } ∧ ∀ i, i ≠ j → t.ctx i = s.ctx i)
  ∧ (∀ (s : State) (u idx : Nat) (e : TagEnt), s.tagEnt u idx = some e → e.live = false →
      ((∀ l ∈ s.l1 u, l.taggedBy idx = false) → s.uidWriting u e.uid = false →
        ∃ t, exec (.lazyDrain u idx) s = .next t ∧ t = { s with tags := t.tags } ∧ t.tagEnt u idx = none
          ∧ ∀ x, x ≠ idx → t.tagEnt u x = s.tagEnt u x)
      ∧ ∀ l, (s.l1 u).find? (fun l => l.taggedBy idx) = some l → l.st = .dirty →
          s.lineMisses u < (if u % 128 < 64 then 8 else 32) →
          ∃ t, exec (.lazyDrain u idx) s = .next t ∧ t.tags = s.tags
            ∧ t.l1Line u l.line = (if l.fill = true ∧ l.marked = false then some { l with st := .valid, mask := 0, marked := false } else none)
            ∧ ∀ x, x ≠ l.line → t.l1Line u x = s.l1Line u x)
  ∧ ∀ (s : State) (link : Nat), (s.linkInReset link = true → exec (.linkRetrain link) s = .next s)
      ∧ (s.linkInReset link = false → ∃ t, exec (.linkRetrain link) s = .next t ∧ t = { s with net := t.net }
        ∧ t.net.length = s.net.length
        ∧ ∀ (i : Nat) (m : NetMsg), s.net[i]? = some m → ∃ n : NetMsg, t.net[i]? = some n ∧ n = { m with lost := n.lost }
          ∧ (n.lost = true ↔ m.lost = true ∨ ∃ r v x, m.body = .taggedRep r v x ∧ link ∈ s.linksOf r))

/-- Walks, lines, stores, the SRAMs, arriving loads, tags and retraining links. -/
def Obligations.WalksAndReplies : Prop := walksRun ∧ linesAndStores ∧ sramsServe ∧ loadsDeliver ∧ tagsAndLinks

/-! ## Invariants -/

/-- What every step keeps: memory in its canonical form; one context at most for each place, and one lane at most for each number, listed in order;
and no message that is in flight or queued carries an identifier that is still to be given. -/
def Sys2Proof.Machine.State.sound (s : State) : Prop :=
  Memory.wf s.mem = true ∧ (s.ctxs.map fun e => e.1).Pairwise (· < ·)
  ∧ (∀ e ∈ s.ctxs, (e.2.lanes.map fun l => l.1).Pairwise (· < ·)) ∧ (∀ e ∈ s.saved, (e.2.lanes.map fun l => l.1).Pairwise (· < ·))
  ∧ ∀ m ∈ s.inFlight, m.id < s.nextId

/-- Every step keeps the canonical form of memory, whatever else the state holds. -/
def Obligations.StepKeepsMemoryForm : Prop := ∀ s t : State, Memory.wf s.mem = true → step s = .next t → Memory.wf t.mem = true

/-- Every step from a sound state leads to a sound state. -/
def Obligations.StepKeepsSound : Prop := ∀ s t : State, s.sound → step s = .next t → t.sound

/-- After reset the state is sound; no context is resident or saved, no launch, transfer, message, walk or line is there, and the start-up has not
begun (20 R405). That no cache line, queue entry, message or context stands at reset, no line is marked and no reply is remembered is the
model's choice (log entries L2 and L4). -/
def Obligations.ResetState : Prop :=
  State.reset.sound ∧ (∀ k, (State.reset.ctx k).status = .vacant) ∧ (∀ uid, State.reset.areaOf uid = none)
  ∧ (∀ l, State.reset.launch l = none) ∧ (∀ x, State.reset.xfer x = none) ∧ State.reset.net = [] ∧ State.reset.walks = []
  ∧ bootStage State.reset.mgmt = 0 ∧ bootReady State.reset.mgmt = false ∧ bootFails State.reset.mgmt = 0
  ∧ (∀ u l, State.reset.l1Line u l = none) ∧ ∀ h l, State.reset.mark l = .clean ∧ (State.reset.slice h).dedup = []
end

