-- ==== Sys2Proof/Laws/State.lean ====
section
/-! SUPPORT. One lemma per field per update of the state: what an update writes, and that it leaves every other field. -/
namespace Sys2Proof.Machine

/-! ## `State.setCtx` -/

@[simp] theorem State.setCtx_cur (s : State) (k : Nat) (c : Ctx) : (s.setCtx k c).cur = s.cur := rfl
@[simp] theorem State.setCtx_agenda (s : State) (k : Nat) (c : Ctx) : (s.setCtx k c).agenda = s.agenda := rfl
@[simp] theorem State.setCtx_clk (s : State) (k : Nat) (c : Ctx) : (s.setCtx k c).clk = s.clk := rfl
@[simp] theorem State.setCtx_fresh (s : State) (k : Nat) (c : Ctx) : (s.setCtx k c).fresh = s.fresh := rfl
@[simp] theorem State.setCtx_nextId (s : State) (k : Nat) (c : Ctx) : (s.setCtx k c).nextId = s.nextId := rfl
@[simp] theorem State.setCtx_dies (s : State) (k : Nat) (c : Ctx) : (s.setCtx k c).dies = s.dies := rfl
@[simp] theorem State.setCtx_idCount (s : State) (k : Nat) (c : Ctx) : (s.setCtx k c).idCount = s.idCount := rfl
@[simp] theorem State.setCtx_launchNo (s : State) (k : Nat) (c : Ctx) : (s.setCtx k c).launchNo = s.launchNo := rfl
@[simp] theorem State.setCtx_mem (s : State) (k : Nat) (c : Ctx) : (s.setCtx k c).mem = s.mem := rfl
@[simp] theorem State.setCtx_memPoison (s : State) (k : Nat) (c : Ctx) : (s.setCtx k c).memPoison = s.memPoison := rfl
@[simp] theorem State.setCtx_fullBits (s : State) (k : Nat) (c : Ctx) : (s.setCtx k c).fullBits = s.fullBits := rfl
@[simp] theorem State.setCtx_marks (s : State) (k : Nat) (c : Ctx) : (s.setCtx k c).marks = s.marks := rfl
@[simp] theorem State.setCtx_ctxs (s : State) (k : Nat) (c : Ctx) : (s.setCtx k c).ctxs = Tbl.set Ctx.vacant s.ctxs k c := rfl
@[simp] theorem State.setCtx_saved (s : State) (k : Nat) (c : Ctx) : (s.setCtx k c).saved = s.saved := rfl
@[simp] theorem State.setCtx_trapCsrs (s : State) (k : Nat) (c : Ctx) : (s.setCtx k c).trapCsrs = s.trapCsrs := rfl
@[simp] theorem State.setCtx_areaWait (s : State) (k : Nat) (c : Ctx) : (s.setCtx k c).areaWait = s.areaWait := rfl
@[simp] theorem State.setCtx_l1d (s : State) (k : Nat) (c : Ctx) : (s.setCtx k c).l1d = s.l1d := rfl
@[simp] theorem State.setCtx_l1i (s : State) (k : Nat) (c : Ctx) : (s.setCtx k c).l1i = s.l1i := rfl
@[simp] theorem State.setCtx_tags (s : State) (k : Nat) (c : Ctx) : (s.setCtx k c).tags = s.tags := rfl
@[simp] theorem State.setCtx_storeQ (s : State) (k : Nat) (c : Ctx) : (s.setCtx k c).storeQ = s.storeQ := rfl
@[simp] theorem State.setCtx_tlbs (s : State) (k : Nat) (c : Ctx) : (s.setCtx k c).tlbs = s.tlbs := rfl
@[simp] theorem State.setCtx_walkCache (s : State) (k : Nat) (c : Ctx) : (s.setCtx k c).walkCache = s.walkCache := rfl
@[simp] theorem State.setCtx_walkQ (s : State) (k : Nat) (c : Ctx) : (s.setCtx k c).walkQ = s.walkQ := rfl
@[simp] theorem State.setCtx_walkRr (s : State) (k : Nat) (c : Ctx) : (s.setCtx k c).walkRr = s.walkRr := rfl
@[simp] theorem State.setCtx_walks (s : State) (k : Nat) (c : Ctx) : (s.setCtx k c).walks = s.walks := rfl
@[simp] theorem State.setCtx_walkFaults (s : State) (k : Nat) (c : Ctx) : (s.setCtx k c).walkFaults = s.walkFaults := rfl
@[simp] theorem State.setCtx_pends (s : State) (k : Nat) (c : Ctx) : (s.setCtx k c).pends = s.pends := rfl
@[simp] theorem State.setCtx_groups (s : State) (k : Nat) (c : Ctx) : (s.setCtx k c).groups = s.groups := rfl
@[simp] theorem State.setCtx_net (s : State) (k : Nat) (c : Ctx) : (s.setCtx k c).net = s.net := rfl
@[simp] theorem State.setCtx_slices (s : State) (k : Nat) (c : Ctx) : (s.setCtx k c).slices = s.slices := rfl
@[simp] theorem State.setCtx_dieRegs (s : State) (k : Nat) (c : Ctx) : (s.setCtx k c).dieRegs = s.dieRegs := rfl
@[simp] theorem State.setCtx_clusters (s : State) (k : Nat) (c : Ctx) : (s.setCtx k c).clusters = s.clusters := rfl
@[simp] theorem State.setCtx_cores (s : State) (k : Nat) (c : Ctx) : (s.setCtx k c).cores = s.cores := rfl
@[simp] theorem State.setCtx_engines (s : State) (k : Nat) (c : Ctx) : (s.setCtx k c).engines = s.engines := rfl
@[simp] theorem State.setCtx_drays (s : State) (k : Nat) (c : Ctx) : (s.setCtx k c).drays = s.drays := rfl
@[simp] theorem State.setCtx_xfers (s : State) (k : Nat) (c : Ctx) : (s.setCtx k c).xfers = s.xfers := rfl
@[simp] theorem State.setCtx_queues (s : State) (k : Nat) (c : Ctx) : (s.setCtx k c).queues = s.queues := rfl
@[simp] theorem State.setCtx_launches (s : State) (k : Nat) (c : Ctx) : (s.setCtx k c).launches = s.launches := rfl
@[simp] theorem State.setCtx_queueRr (s : State) (k : Nat) (c : Ctx) : (s.setCtx k c).queueRr = s.queueRr := rfl
@[simp] theorem State.setCtx_islands (s : State) (k : Nat) (c : Ctx) : (s.setCtx k c).islands = s.islands := rfl
@[simp] theorem State.setCtx_port (s : State) (k : Nat) (c : Ctx) : (s.setCtx k c).port = s.port := rfl
@[simp] theorem State.setCtx_mgmt (s : State) (k : Nat) (c : Ctx) : (s.setCtx k c).mgmt = s.mgmt := rfl

/-! ## `State.setSaved` -/

@[simp] theorem State.setSaved_cur (s : State) (k : Nat) (c : Ctx) : (s.setSaved k c).cur = s.cur := rfl
@[simp] theorem State.setSaved_agenda (s : State) (k : Nat) (c : Ctx) : (s.setSaved k c).agenda = s.agenda := rfl
@[simp] theorem State.setSaved_clk (s : State) (k : Nat) (c : Ctx) : (s.setSaved k c).clk = s.clk := rfl
@[simp] theorem State.setSaved_fresh (s : State) (k : Nat) (c : Ctx) : (s.setSaved k c).fresh = s.fresh := rfl
@[simp] theorem State.setSaved_nextId (s : State) (k : Nat) (c : Ctx) : (s.setSaved k c).nextId = s.nextId := rfl
@[simp] theorem State.setSaved_dies (s : State) (k : Nat) (c : Ctx) : (s.setSaved k c).dies = s.dies := rfl
@[simp] theorem State.setSaved_idCount (s : State) (k : Nat) (c : Ctx) : (s.setSaved k c).idCount = s.idCount := rfl
@[simp] theorem State.setSaved_launchNo (s : State) (k : Nat) (c : Ctx) : (s.setSaved k c).launchNo = s.launchNo := rfl
@[simp] theorem State.setSaved_mem (s : State) (k : Nat) (c : Ctx) : (s.setSaved k c).mem = s.mem := rfl
@[simp] theorem State.setSaved_memPoison (s : State) (k : Nat) (c : Ctx) : (s.setSaved k c).memPoison = s.memPoison := rfl
@[simp] theorem State.setSaved_fullBits (s : State) (k : Nat) (c : Ctx) : (s.setSaved k c).fullBits = s.fullBits := rfl
@[simp] theorem State.setSaved_marks (s : State) (k : Nat) (c : Ctx) : (s.setSaved k c).marks = s.marks := rfl
@[simp] theorem State.setSaved_ctxs (s : State) (k : Nat) (c : Ctx) : (s.setSaved k c).ctxs = s.ctxs := rfl
@[simp] theorem State.setSaved_saved (s : State) (k : Nat) (c : Ctx) : (s.setSaved k c).saved = Tbl.set Ctx.vacant s.saved k c := rfl
@[simp] theorem State.setSaved_trapCsrs (s : State) (k : Nat) (c : Ctx) : (s.setSaved k c).trapCsrs = s.trapCsrs := rfl
@[simp] theorem State.setSaved_areaWait (s : State) (k : Nat) (c : Ctx) : (s.setSaved k c).areaWait = s.areaWait := rfl
@[simp] theorem State.setSaved_l1d (s : State) (k : Nat) (c : Ctx) : (s.setSaved k c).l1d = s.l1d := rfl
@[simp] theorem State.setSaved_l1i (s : State) (k : Nat) (c : Ctx) : (s.setSaved k c).l1i = s.l1i := rfl
@[simp] theorem State.setSaved_tags (s : State) (k : Nat) (c : Ctx) : (s.setSaved k c).tags = s.tags := rfl
@[simp] theorem State.setSaved_storeQ (s : State) (k : Nat) (c : Ctx) : (s.setSaved k c).storeQ = s.storeQ := rfl
@[simp] theorem State.setSaved_tlbs (s : State) (k : Nat) (c : Ctx) : (s.setSaved k c).tlbs = s.tlbs := rfl
@[simp] theorem State.setSaved_walkCache (s : State) (k : Nat) (c : Ctx) : (s.setSaved k c).walkCache = s.walkCache := rfl
@[simp] theorem State.setSaved_walkQ (s : State) (k : Nat) (c : Ctx) : (s.setSaved k c).walkQ = s.walkQ := rfl
@[simp] theorem State.setSaved_walkRr (s : State) (k : Nat) (c : Ctx) : (s.setSaved k c).walkRr = s.walkRr := rfl
@[simp] theorem State.setSaved_walks (s : State) (k : Nat) (c : Ctx) : (s.setSaved k c).walks = s.walks := rfl
@[simp] theorem State.setSaved_walkFaults (s : State) (k : Nat) (c : Ctx) : (s.setSaved k c).walkFaults = s.walkFaults := rfl
@[simp] theorem State.setSaved_pends (s : State) (k : Nat) (c : Ctx) : (s.setSaved k c).pends = s.pends := rfl
@[simp] theorem State.setSaved_groups (s : State) (k : Nat) (c : Ctx) : (s.setSaved k c).groups = s.groups := rfl
@[simp] theorem State.setSaved_net (s : State) (k : Nat) (c : Ctx) : (s.setSaved k c).net = s.net := rfl
@[simp] theorem State.setSaved_slices (s : State) (k : Nat) (c : Ctx) : (s.setSaved k c).slices = s.slices := rfl
@[simp] theorem State.setSaved_dieRegs (s : State) (k : Nat) (c : Ctx) : (s.setSaved k c).dieRegs = s.dieRegs := rfl
@[simp] theorem State.setSaved_clusters (s : State) (k : Nat) (c : Ctx) : (s.setSaved k c).clusters = s.clusters := rfl
@[simp] theorem State.setSaved_cores (s : State) (k : Nat) (c : Ctx) : (s.setSaved k c).cores = s.cores := rfl
@[simp] theorem State.setSaved_engines (s : State) (k : Nat) (c : Ctx) : (s.setSaved k c).engines = s.engines := rfl
@[simp] theorem State.setSaved_drays (s : State) (k : Nat) (c : Ctx) : (s.setSaved k c).drays = s.drays := rfl
@[simp] theorem State.setSaved_xfers (s : State) (k : Nat) (c : Ctx) : (s.setSaved k c).xfers = s.xfers := rfl
@[simp] theorem State.setSaved_queues (s : State) (k : Nat) (c : Ctx) : (s.setSaved k c).queues = s.queues := rfl
@[simp] theorem State.setSaved_launches (s : State) (k : Nat) (c : Ctx) : (s.setSaved k c).launches = s.launches := rfl
@[simp] theorem State.setSaved_queueRr (s : State) (k : Nat) (c : Ctx) : (s.setSaved k c).queueRr = s.queueRr := rfl
@[simp] theorem State.setSaved_islands (s : State) (k : Nat) (c : Ctx) : (s.setSaved k c).islands = s.islands := rfl
@[simp] theorem State.setSaved_port (s : State) (k : Nat) (c : Ctx) : (s.setSaved k c).port = s.port := rfl
@[simp] theorem State.setSaved_mgmt (s : State) (k : Nat) (c : Ctx) : (s.setSaved k c).mgmt = s.mgmt := rfl

/-! ## `State.send` -/

@[simp] theorem State.send_cur (s : State) (l a : Nat) (b : Body) : (s.send l a b).cur = s.cur := rfl
@[simp] theorem State.send_agenda (s : State) (l a : Nat) (b : Body) : (s.send l a b).agenda = s.agenda := rfl
@[simp] theorem State.send_clk (s : State) (l a : Nat) (b : Body) : (s.send l a b).clk = s.clk := rfl
@[simp] theorem State.send_fresh (s : State) (l a : Nat) (b : Body) : (s.send l a b).fresh = s.fresh := rfl
@[simp] theorem State.send_nextId (s : State) (l a : Nat) (b : Body) : (s.send l a b).nextId = s.nextId + 1 := rfl
@[simp] theorem State.send_dies (s : State) (l a : Nat) (b : Body) : (s.send l a b).dies = s.dies := rfl
@[simp] theorem State.send_idCount (s : State) (l a : Nat) (b : Body) : (s.send l a b).idCount = s.idCount := rfl
@[simp] theorem State.send_launchNo (s : State) (l a : Nat) (b : Body) : (s.send l a b).launchNo = s.launchNo := rfl
@[simp] theorem State.send_mem (s : State) (l a : Nat) (b : Body) : (s.send l a b).mem = s.mem := rfl
@[simp] theorem State.send_memPoison (s : State) (l a : Nat) (b : Body) : (s.send l a b).memPoison = s.memPoison := rfl
@[simp] theorem State.send_fullBits (s : State) (l a : Nat) (b : Body) : (s.send l a b).fullBits = s.fullBits := rfl
@[simp] theorem State.send_marks (s : State) (l a : Nat) (b : Body) : (s.send l a b).marks = s.marks := rfl
@[simp] theorem State.send_ctxs (s : State) (l a : Nat) (b : Body) : (s.send l a b).ctxs = s.ctxs := rfl
@[simp] theorem State.send_saved (s : State) (l a : Nat) (b : Body) : (s.send l a b).saved = s.saved := rfl
@[simp] theorem State.send_trapCsrs (s : State) (l a : Nat) (b : Body) : (s.send l a b).trapCsrs = s.trapCsrs := rfl
@[simp] theorem State.send_areaWait (s : State) (l a : Nat) (b : Body) : (s.send l a b).areaWait = s.areaWait := rfl
@[simp] theorem State.send_l1d (s : State) (l a : Nat) (b : Body) : (s.send l a b).l1d = s.l1d := rfl
@[simp] theorem State.send_l1i (s : State) (l a : Nat) (b : Body) : (s.send l a b).l1i = s.l1i := rfl
@[simp] theorem State.send_tags (s : State) (l a : Nat) (b : Body) : (s.send l a b).tags = s.tags := rfl
@[simp] theorem State.send_storeQ (s : State) (l a : Nat) (b : Body) : (s.send l a b).storeQ = s.storeQ := rfl
@[simp] theorem State.send_tlbs (s : State) (l a : Nat) (b : Body) : (s.send l a b).tlbs = s.tlbs := rfl
@[simp] theorem State.send_walkCache (s : State) (l a : Nat) (b : Body) : (s.send l a b).walkCache = s.walkCache := rfl
@[simp] theorem State.send_walkQ (s : State) (l a : Nat) (b : Body) : (s.send l a b).walkQ = s.walkQ := rfl
@[simp] theorem State.send_walkRr (s : State) (l a : Nat) (b : Body) : (s.send l a b).walkRr = s.walkRr := rfl
@[simp] theorem State.send_walks (s : State) (l a : Nat) (b : Body) : (s.send l a b).walks = s.walks := rfl
@[simp] theorem State.send_walkFaults (s : State) (l a : Nat) (b : Body) : (s.send l a b).walkFaults = s.walkFaults := rfl
@[simp] theorem State.send_pends (s : State) (l a : Nat) (b : Body) : (s.send l a b).pends = s.pends := rfl
@[simp] theorem State.send_groups (s : State) (l a : Nat) (b : Body) : (s.send l a b).groups = s.groups := rfl
@[simp] theorem State.send_net (s : State) (l a : Nat) (b : Body) : (s.send l a b).net = s.net ++ [NetMsg.mk s.nextId l a 0 0 false false b] := rfl
@[simp] theorem State.send_slices (s : State) (l a : Nat) (b : Body) : (s.send l a b).slices = s.slices := rfl
@[simp] theorem State.send_dieRegs (s : State) (l a : Nat) (b : Body) : (s.send l a b).dieRegs = s.dieRegs := rfl
@[simp] theorem State.send_clusters (s : State) (l a : Nat) (b : Body) : (s.send l a b).clusters = s.clusters := rfl
@[simp] theorem State.send_cores (s : State) (l a : Nat) (b : Body) : (s.send l a b).cores = s.cores := rfl
@[simp] theorem State.send_engines (s : State) (l a : Nat) (b : Body) : (s.send l a b).engines = s.engines := rfl
@[simp] theorem State.send_drays (s : State) (l a : Nat) (b : Body) : (s.send l a b).drays = s.drays := rfl
@[simp] theorem State.send_xfers (s : State) (l a : Nat) (b : Body) : (s.send l a b).xfers = s.xfers := rfl
@[simp] theorem State.send_queues (s : State) (l a : Nat) (b : Body) : (s.send l a b).queues = s.queues := rfl
@[simp] theorem State.send_launches (s : State) (l a : Nat) (b : Body) : (s.send l a b).launches = s.launches := rfl
@[simp] theorem State.send_queueRr (s : State) (l a : Nat) (b : Body) : (s.send l a b).queueRr = s.queueRr := rfl
@[simp] theorem State.send_islands (s : State) (l a : Nat) (b : Body) : (s.send l a b).islands = s.islands := rfl
@[simp] theorem State.send_port (s : State) (l a : Nat) (b : Body) : (s.send l a b).port = s.port := rfl
@[simp] theorem State.send_mgmt (s : State) (l a : Nat) (b : Body) : (s.send l a b).mgmt = s.mgmt := rfl

/-! ## `State.dropMsg` -/

@[simp] theorem State.dropMsg_cur (s : State) (n : Nat) : (s.dropMsg n).cur = s.cur := rfl
@[simp] theorem State.dropMsg_agenda (s : State) (n : Nat) : (s.dropMsg n).agenda = s.agenda := rfl
@[simp] theorem State.dropMsg_clk (s : State) (n : Nat) : (s.dropMsg n).clk = s.clk := rfl
@[simp] theorem State.dropMsg_fresh (s : State) (n : Nat) : (s.dropMsg n).fresh = s.fresh := rfl
@[simp] theorem State.dropMsg_nextId (s : State) (n : Nat) : (s.dropMsg n).nextId = s.nextId := rfl
@[simp] theorem State.dropMsg_dies (s : State) (n : Nat) : (s.dropMsg n).dies = s.dies := rfl
@[simp] theorem State.dropMsg_idCount (s : State) (n : Nat) : (s.dropMsg n).idCount = s.idCount := rfl
@[simp] theorem State.dropMsg_launchNo (s : State) (n : Nat) : (s.dropMsg n).launchNo = s.launchNo := rfl
@[simp] theorem State.dropMsg_mem (s : State) (n : Nat) : (s.dropMsg n).mem = s.mem := rfl
@[simp] theorem State.dropMsg_memPoison (s : State) (n : Nat) : (s.dropMsg n).memPoison = s.memPoison := rfl
@[simp] theorem State.dropMsg_fullBits (s : State) (n : Nat) : (s.dropMsg n).fullBits = s.fullBits := rfl
@[simp] theorem State.dropMsg_marks (s : State) (n : Nat) : (s.dropMsg n).marks = s.marks := rfl
@[simp] theorem State.dropMsg_ctxs (s : State) (n : Nat) : (s.dropMsg n).ctxs = s.ctxs := rfl
@[simp] theorem State.dropMsg_saved (s : State) (n : Nat) : (s.dropMsg n).saved = s.saved := rfl
@[simp] theorem State.dropMsg_trapCsrs (s : State) (n : Nat) : (s.dropMsg n).trapCsrs = s.trapCsrs := rfl
@[simp] theorem State.dropMsg_areaWait (s : State) (n : Nat) : (s.dropMsg n).areaWait = s.areaWait := rfl
@[simp] theorem State.dropMsg_l1d (s : State) (n : Nat) : (s.dropMsg n).l1d = s.l1d := rfl
@[simp] theorem State.dropMsg_l1i (s : State) (n : Nat) : (s.dropMsg n).l1i = s.l1i := rfl
@[simp] theorem State.dropMsg_tags (s : State) (n : Nat) : (s.dropMsg n).tags = s.tags := rfl
@[simp] theorem State.dropMsg_storeQ (s : State) (n : Nat) : (s.dropMsg n).storeQ = s.storeQ := rfl
@[simp] theorem State.dropMsg_tlbs (s : State) (n : Nat) : (s.dropMsg n).tlbs = s.tlbs := rfl
@[simp] theorem State.dropMsg_walkCache (s : State) (n : Nat) : (s.dropMsg n).walkCache = s.walkCache := rfl
@[simp] theorem State.dropMsg_walkQ (s : State) (n : Nat) : (s.dropMsg n).walkQ = s.walkQ := rfl
@[simp] theorem State.dropMsg_walkRr (s : State) (n : Nat) : (s.dropMsg n).walkRr = s.walkRr := rfl
@[simp] theorem State.dropMsg_walks (s : State) (n : Nat) : (s.dropMsg n).walks = s.walks := rfl
@[simp] theorem State.dropMsg_walkFaults (s : State) (n : Nat) : (s.dropMsg n).walkFaults = s.walkFaults := rfl
@[simp] theorem State.dropMsg_pends (s : State) (n : Nat) : (s.dropMsg n).pends = s.pends := rfl
@[simp] theorem State.dropMsg_groups (s : State) (n : Nat) : (s.dropMsg n).groups = s.groups := rfl
@[simp] theorem State.dropMsg_net (s : State) (n : Nat) : (s.dropMsg n).net = s.net.filter fun m => m.id != n := rfl
@[simp] theorem State.dropMsg_slices (s : State) (n : Nat) : (s.dropMsg n).slices = s.slices := rfl
@[simp] theorem State.dropMsg_dieRegs (s : State) (n : Nat) : (s.dropMsg n).dieRegs = s.dieRegs := rfl
@[simp] theorem State.dropMsg_clusters (s : State) (n : Nat) : (s.dropMsg n).clusters = s.clusters := rfl
@[simp] theorem State.dropMsg_cores (s : State) (n : Nat) : (s.dropMsg n).cores = s.cores := rfl
@[simp] theorem State.dropMsg_engines (s : State) (n : Nat) : (s.dropMsg n).engines = s.engines := rfl
@[simp] theorem State.dropMsg_drays (s : State) (n : Nat) : (s.dropMsg n).drays = s.drays := rfl
@[simp] theorem State.dropMsg_xfers (s : State) (n : Nat) : (s.dropMsg n).xfers = s.xfers := rfl
@[simp] theorem State.dropMsg_queues (s : State) (n : Nat) : (s.dropMsg n).queues = s.queues := rfl
@[simp] theorem State.dropMsg_launches (s : State) (n : Nat) : (s.dropMsg n).launches = s.launches := rfl
@[simp] theorem State.dropMsg_queueRr (s : State) (n : Nat) : (s.dropMsg n).queueRr = s.queueRr := rfl
@[simp] theorem State.dropMsg_islands (s : State) (n : Nat) : (s.dropMsg n).islands = s.islands := rfl
@[simp] theorem State.dropMsg_port (s : State) (n : Nat) : (s.dropMsg n).port = s.port := rfl
@[simp] theorem State.dropMsg_mgmt (s : State) (n : Nat) : (s.dropMsg n).mgmt = s.mgmt := rfl

/-! ## `State.setGroup` -/

@[simp] theorem State.setGroup_cur (s : State) (g : Nat) (v : Option Group) : (s.setGroup g v).cur = s.cur := rfl
@[simp] theorem State.setGroup_agenda (s : State) (g : Nat) (v : Option Group) : (s.setGroup g v).agenda = s.agenda := rfl
@[simp] theorem State.setGroup_clk (s : State) (g : Nat) (v : Option Group) : (s.setGroup g v).clk = s.clk := rfl
@[simp] theorem State.setGroup_fresh (s : State) (g : Nat) (v : Option Group) : (s.setGroup g v).fresh = s.fresh := rfl
@[simp] theorem State.setGroup_nextId (s : State) (g : Nat) (v : Option Group) : (s.setGroup g v).nextId = s.nextId := rfl
@[simp] theorem State.setGroup_dies (s : State) (g : Nat) (v : Option Group) : (s.setGroup g v).dies = s.dies := rfl
@[simp] theorem State.setGroup_idCount (s : State) (g : Nat) (v : Option Group) : (s.setGroup g v).idCount = s.idCount := rfl
@[simp] theorem State.setGroup_launchNo (s : State) (g : Nat) (v : Option Group) : (s.setGroup g v).launchNo = s.launchNo := rfl
@[simp] theorem State.setGroup_mem (s : State) (g : Nat) (v : Option Group) : (s.setGroup g v).mem = s.mem := rfl
@[simp] theorem State.setGroup_memPoison (s : State) (g : Nat) (v : Option Group) : (s.setGroup g v).memPoison = s.memPoison := rfl
@[simp] theorem State.setGroup_fullBits (s : State) (g : Nat) (v : Option Group) : (s.setGroup g v).fullBits = s.fullBits := rfl
@[simp] theorem State.setGroup_marks (s : State) (g : Nat) (v : Option Group) : (s.setGroup g v).marks = s.marks := rfl
@[simp] theorem State.setGroup_ctxs (s : State) (g : Nat) (v : Option Group) : (s.setGroup g v).ctxs = s.ctxs := rfl
@[simp] theorem State.setGroup_saved (s : State) (g : Nat) (v : Option Group) : (s.setGroup g v).saved = s.saved := rfl
@[simp] theorem State.setGroup_trapCsrs (s : State) (g : Nat) (v : Option Group) : (s.setGroup g v).trapCsrs = s.trapCsrs := rfl
@[simp] theorem State.setGroup_areaWait (s : State) (g : Nat) (v : Option Group) : (s.setGroup g v).areaWait = s.areaWait := rfl
@[simp] theorem State.setGroup_l1d (s : State) (g : Nat) (v : Option Group) : (s.setGroup g v).l1d = s.l1d := rfl
@[simp] theorem State.setGroup_l1i (s : State) (g : Nat) (v : Option Group) : (s.setGroup g v).l1i = s.l1i := rfl
@[simp] theorem State.setGroup_tags (s : State) (g : Nat) (v : Option Group) : (s.setGroup g v).tags = s.tags := rfl
@[simp] theorem State.setGroup_storeQ (s : State) (g : Nat) (v : Option Group) : (s.setGroup g v).storeQ = s.storeQ := rfl
@[simp] theorem State.setGroup_tlbs (s : State) (g : Nat) (v : Option Group) : (s.setGroup g v).tlbs = s.tlbs := rfl
@[simp] theorem State.setGroup_walkCache (s : State) (g : Nat) (v : Option Group) : (s.setGroup g v).walkCache = s.walkCache := rfl
@[simp] theorem State.setGroup_walkQ (s : State) (g : Nat) (v : Option Group) : (s.setGroup g v).walkQ = s.walkQ := rfl
@[simp] theorem State.setGroup_walkRr (s : State) (g : Nat) (v : Option Group) : (s.setGroup g v).walkRr = s.walkRr := rfl
@[simp] theorem State.setGroup_walks (s : State) (g : Nat) (v : Option Group) : (s.setGroup g v).walks = s.walks := rfl
@[simp] theorem State.setGroup_walkFaults (s : State) (g : Nat) (v : Option Group) : (s.setGroup g v).walkFaults = s.walkFaults := rfl
@[simp] theorem State.setGroup_pends (s : State) (g : Nat) (v : Option Group) : (s.setGroup g v).pends = s.pends := rfl
@[simp] theorem State.setGroup_groups (s : State) (g : Nat) (v : Option Group) : (s.setGroup g v).groups = Tbl.set none s.groups g v := rfl
@[simp] theorem State.setGroup_net (s : State) (g : Nat) (v : Option Group) : (s.setGroup g v).net = s.net := rfl
@[simp] theorem State.setGroup_slices (s : State) (g : Nat) (v : Option Group) : (s.setGroup g v).slices = s.slices := rfl
@[simp] theorem State.setGroup_dieRegs (s : State) (g : Nat) (v : Option Group) : (s.setGroup g v).dieRegs = s.dieRegs := rfl
@[simp] theorem State.setGroup_clusters (s : State) (g : Nat) (v : Option Group) : (s.setGroup g v).clusters = s.clusters := rfl
@[simp] theorem State.setGroup_cores (s : State) (g : Nat) (v : Option Group) : (s.setGroup g v).cores = s.cores := rfl
@[simp] theorem State.setGroup_engines (s : State) (g : Nat) (v : Option Group) : (s.setGroup g v).engines = s.engines := rfl
@[simp] theorem State.setGroup_drays (s : State) (g : Nat) (v : Option Group) : (s.setGroup g v).drays = s.drays := rfl
@[simp] theorem State.setGroup_xfers (s : State) (g : Nat) (v : Option Group) : (s.setGroup g v).xfers = s.xfers := rfl
@[simp] theorem State.setGroup_queues (s : State) (g : Nat) (v : Option Group) : (s.setGroup g v).queues = s.queues := rfl
@[simp] theorem State.setGroup_launches (s : State) (g : Nat) (v : Option Group) : (s.setGroup g v).launches = s.launches := rfl
@[simp] theorem State.setGroup_queueRr (s : State) (g : Nat) (v : Option Group) : (s.setGroup g v).queueRr = s.queueRr := rfl
@[simp] theorem State.setGroup_islands (s : State) (g : Nat) (v : Option Group) : (s.setGroup g v).islands = s.islands := rfl
@[simp] theorem State.setGroup_port (s : State) (g : Nat) (v : Option Group) : (s.setGroup g v).port = s.port := rfl
@[simp] theorem State.setGroup_mgmt (s : State) (g : Nat) (v : Option Group) : (s.setGroup g v).mgmt = s.mgmt := rfl

/-! ## `State.setPend` -/

@[simp] theorem State.setPend_cur (s : State) (p : Nat) (v : Option Pend) : (s.setPend p v).cur = s.cur := rfl
@[simp] theorem State.setPend_agenda (s : State) (p : Nat) (v : Option Pend) : (s.setPend p v).agenda = s.agenda := rfl
@[simp] theorem State.setPend_clk (s : State) (p : Nat) (v : Option Pend) : (s.setPend p v).clk = s.clk := rfl
@[simp] theorem State.setPend_fresh (s : State) (p : Nat) (v : Option Pend) : (s.setPend p v).fresh = s.fresh := rfl
@[simp] theorem State.setPend_nextId (s : State) (p : Nat) (v : Option Pend) : (s.setPend p v).nextId = s.nextId := rfl
@[simp] theorem State.setPend_dies (s : State) (p : Nat) (v : Option Pend) : (s.setPend p v).dies = s.dies := rfl
@[simp] theorem State.setPend_idCount (s : State) (p : Nat) (v : Option Pend) : (s.setPend p v).idCount = s.idCount := rfl
@[simp] theorem State.setPend_launchNo (s : State) (p : Nat) (v : Option Pend) : (s.setPend p v).launchNo = s.launchNo := rfl
@[simp] theorem State.setPend_mem (s : State) (p : Nat) (v : Option Pend) : (s.setPend p v).mem = s.mem := rfl
@[simp] theorem State.setPend_memPoison (s : State) (p : Nat) (v : Option Pend) : (s.setPend p v).memPoison = s.memPoison := rfl
@[simp] theorem State.setPend_fullBits (s : State) (p : Nat) (v : Option Pend) : (s.setPend p v).fullBits = s.fullBits := rfl
@[simp] theorem State.setPend_marks (s : State) (p : Nat) (v : Option Pend) : (s.setPend p v).marks = s.marks := rfl
@[simp] theorem State.setPend_ctxs (s : State) (p : Nat) (v : Option Pend) : (s.setPend p v).ctxs = s.ctxs := rfl
@[simp] theorem State.setPend_saved (s : State) (p : Nat) (v : Option Pend) : (s.setPend p v).saved = s.saved := rfl
@[simp] theorem State.setPend_trapCsrs (s : State) (p : Nat) (v : Option Pend) : (s.setPend p v).trapCsrs = s.trapCsrs := rfl
@[simp] theorem State.setPend_areaWait (s : State) (p : Nat) (v : Option Pend) : (s.setPend p v).areaWait = s.areaWait := rfl
@[simp] theorem State.setPend_l1d (s : State) (p : Nat) (v : Option Pend) : (s.setPend p v).l1d = s.l1d := rfl
@[simp] theorem State.setPend_l1i (s : State) (p : Nat) (v : Option Pend) : (s.setPend p v).l1i = s.l1i := rfl
@[simp] theorem State.setPend_tags (s : State) (p : Nat) (v : Option Pend) : (s.setPend p v).tags = s.tags := rfl
@[simp] theorem State.setPend_storeQ (s : State) (p : Nat) (v : Option Pend) : (s.setPend p v).storeQ = s.storeQ := rfl
@[simp] theorem State.setPend_tlbs (s : State) (p : Nat) (v : Option Pend) : (s.setPend p v).tlbs = s.tlbs := rfl
@[simp] theorem State.setPend_walkCache (s : State) (p : Nat) (v : Option Pend) : (s.setPend p v).walkCache = s.walkCache := rfl
@[simp] theorem State.setPend_walkQ (s : State) (p : Nat) (v : Option Pend) : (s.setPend p v).walkQ = s.walkQ := rfl
@[simp] theorem State.setPend_walkRr (s : State) (p : Nat) (v : Option Pend) : (s.setPend p v).walkRr = s.walkRr := rfl
@[simp] theorem State.setPend_walks (s : State) (p : Nat) (v : Option Pend) : (s.setPend p v).walks = s.walks := rfl
@[simp] theorem State.setPend_walkFaults (s : State) (p : Nat) (v : Option Pend) : (s.setPend p v).walkFaults = s.walkFaults := rfl
@[simp] theorem State.setPend_pends (s : State) (p : Nat) (v : Option Pend) : (s.setPend p v).pends = Tbl.set none s.pends p v := rfl
@[simp] theorem State.setPend_groups (s : State) (p : Nat) (v : Option Pend) : (s.setPend p v).groups = s.groups := rfl
@[simp] theorem State.setPend_net (s : State) (p : Nat) (v : Option Pend) : (s.setPend p v).net = s.net := rfl
@[simp] theorem State.setPend_slices (s : State) (p : Nat) (v : Option Pend) : (s.setPend p v).slices = s.slices := rfl
@[simp] theorem State.setPend_dieRegs (s : State) (p : Nat) (v : Option Pend) : (s.setPend p v).dieRegs = s.dieRegs := rfl
@[simp] theorem State.setPend_clusters (s : State) (p : Nat) (v : Option Pend) : (s.setPend p v).clusters = s.clusters := rfl
@[simp] theorem State.setPend_cores (s : State) (p : Nat) (v : Option Pend) : (s.setPend p v).cores = s.cores := rfl
@[simp] theorem State.setPend_engines (s : State) (p : Nat) (v : Option Pend) : (s.setPend p v).engines = s.engines := rfl
@[simp] theorem State.setPend_drays (s : State) (p : Nat) (v : Option Pend) : (s.setPend p v).drays = s.drays := rfl
@[simp] theorem State.setPend_xfers (s : State) (p : Nat) (v : Option Pend) : (s.setPend p v).xfers = s.xfers := rfl
@[simp] theorem State.setPend_queues (s : State) (p : Nat) (v : Option Pend) : (s.setPend p v).queues = s.queues := rfl
@[simp] theorem State.setPend_launches (s : State) (p : Nat) (v : Option Pend) : (s.setPend p v).launches = s.launches := rfl
@[simp] theorem State.setPend_queueRr (s : State) (p : Nat) (v : Option Pend) : (s.setPend p v).queueRr = s.queueRr := rfl
@[simp] theorem State.setPend_islands (s : State) (p : Nat) (v : Option Pend) : (s.setPend p v).islands = s.islands := rfl
@[simp] theorem State.setPend_port (s : State) (p : Nat) (v : Option Pend) : (s.setPend p v).port = s.port := rfl
@[simp] theorem State.setPend_mgmt (s : State) (p : Nat) (v : Option Pend) : (s.setPend p v).mgmt = s.mgmt := rfl

/-! ## `State.putByte` -/

@[simp] theorem State.putByte_cur (s : State) (a : Nat) (v : Byte) (p : Bool) : (s.putByte a v p).cur = s.cur := rfl
@[simp] theorem State.putByte_agenda (s : State) (a : Nat) (v : Byte) (p : Bool) : (s.putByte a v p).agenda = s.agenda := rfl
@[simp] theorem State.putByte_clk (s : State) (a : Nat) (v : Byte) (p : Bool) : (s.putByte a v p).clk = s.clk := rfl
@[simp] theorem State.putByte_fresh (s : State) (a : Nat) (v : Byte) (p : Bool) : (s.putByte a v p).fresh = s.fresh := rfl
@[simp] theorem State.putByte_nextId (s : State) (a : Nat) (v : Byte) (p : Bool) : (s.putByte a v p).nextId = s.nextId := rfl
@[simp] theorem State.putByte_dies (s : State) (a : Nat) (v : Byte) (p : Bool) : (s.putByte a v p).dies = s.dies := rfl
@[simp] theorem State.putByte_idCount (s : State) (a : Nat) (v : Byte) (p : Bool) : (s.putByte a v p).idCount = s.idCount := rfl
@[simp] theorem State.putByte_launchNo (s : State) (a : Nat) (v : Byte) (p : Bool) : (s.putByte a v p).launchNo = s.launchNo := rfl
@[simp] theorem State.putByte_mem (s : State) (a : Nat) (v : Byte) (p : Bool) : (s.putByte a v p).mem = Memory.write s.mem a v := rfl
@[simp] theorem State.putByte_memPoison (s : State) (a : Nat) (v : Byte) (p : Bool) : (s.putByte a v p).memPoison = Tbl.set false s.memPoison a p := rfl
@[simp] theorem State.putByte_fullBits (s : State) (a : Nat) (v : Byte) (p : Bool) : (s.putByte a v p).fullBits = s.fullBits := rfl
@[simp] theorem State.putByte_marks (s : State) (a : Nat) (v : Byte) (p : Bool) : (s.putByte a v p).marks = s.marks := rfl
@[simp] theorem State.putByte_ctxs (s : State) (a : Nat) (v : Byte) (p : Bool) : (s.putByte a v p).ctxs = s.ctxs := rfl
@[simp] theorem State.putByte_saved (s : State) (a : Nat) (v : Byte) (p : Bool) : (s.putByte a v p).saved = s.saved := rfl
@[simp] theorem State.putByte_trapCsrs (s : State) (a : Nat) (v : Byte) (p : Bool) : (s.putByte a v p).trapCsrs = s.trapCsrs := rfl
@[simp] theorem State.putByte_areaWait (s : State) (a : Nat) (v : Byte) (p : Bool) : (s.putByte a v p).areaWait = s.areaWait := rfl
@[simp] theorem State.putByte_l1d (s : State) (a : Nat) (v : Byte) (p : Bool) : (s.putByte a v p).l1d = s.l1d := rfl
@[simp] theorem State.putByte_l1i (s : State) (a : Nat) (v : Byte) (p : Bool) : (s.putByte a v p).l1i = s.l1i := rfl
@[simp] theorem State.putByte_tags (s : State) (a : Nat) (v : Byte) (p : Bool) : (s.putByte a v p).tags = s.tags := rfl
@[simp] theorem State.putByte_storeQ (s : State) (a : Nat) (v : Byte) (p : Bool) : (s.putByte a v p).storeQ = s.storeQ := rfl
@[simp] theorem State.putByte_tlbs (s : State) (a : Nat) (v : Byte) (p : Bool) : (s.putByte a v p).tlbs = s.tlbs := rfl
@[simp] theorem State.putByte_walkCache (s : State) (a : Nat) (v : Byte) (p : Bool) : (s.putByte a v p).walkCache = s.walkCache := rfl
@[simp] theorem State.putByte_walkQ (s : State) (a : Nat) (v : Byte) (p : Bool) : (s.putByte a v p).walkQ = s.walkQ := rfl
@[simp] theorem State.putByte_walkRr (s : State) (a : Nat) (v : Byte) (p : Bool) : (s.putByte a v p).walkRr = s.walkRr := rfl
@[simp] theorem State.putByte_walks (s : State) (a : Nat) (v : Byte) (p : Bool) : (s.putByte a v p).walks = s.walks := rfl
@[simp] theorem State.putByte_walkFaults (s : State) (a : Nat) (v : Byte) (p : Bool) : (s.putByte a v p).walkFaults = s.walkFaults := rfl
@[simp] theorem State.putByte_pends (s : State) (a : Nat) (v : Byte) (p : Bool) : (s.putByte a v p).pends = s.pends := rfl
@[simp] theorem State.putByte_groups (s : State) (a : Nat) (v : Byte) (p : Bool) : (s.putByte a v p).groups = s.groups := rfl
@[simp] theorem State.putByte_net (s : State) (a : Nat) (v : Byte) (p : Bool) : (s.putByte a v p).net = s.net := rfl
@[simp] theorem State.putByte_slices (s : State) (a : Nat) (v : Byte) (p : Bool) : (s.putByte a v p).slices = s.slices := rfl
@[simp] theorem State.putByte_dieRegs (s : State) (a : Nat) (v : Byte) (p : Bool) : (s.putByte a v p).dieRegs = s.dieRegs := rfl
@[simp] theorem State.putByte_clusters (s : State) (a : Nat) (v : Byte) (p : Bool) : (s.putByte a v p).clusters = s.clusters := rfl
@[simp] theorem State.putByte_cores (s : State) (a : Nat) (v : Byte) (p : Bool) : (s.putByte a v p).cores = s.cores := rfl
@[simp] theorem State.putByte_engines (s : State) (a : Nat) (v : Byte) (p : Bool) : (s.putByte a v p).engines = s.engines := rfl
@[simp] theorem State.putByte_drays (s : State) (a : Nat) (v : Byte) (p : Bool) : (s.putByte a v p).drays = s.drays := rfl
@[simp] theorem State.putByte_xfers (s : State) (a : Nat) (v : Byte) (p : Bool) : (s.putByte a v p).xfers = s.xfers := rfl
@[simp] theorem State.putByte_queues (s : State) (a : Nat) (v : Byte) (p : Bool) : (s.putByte a v p).queues = s.queues := rfl
@[simp] theorem State.putByte_launches (s : State) (a : Nat) (v : Byte) (p : Bool) : (s.putByte a v p).launches = s.launches := rfl
@[simp] theorem State.putByte_queueRr (s : State) (a : Nat) (v : Byte) (p : Bool) : (s.putByte a v p).queueRr = s.queueRr := rfl
@[simp] theorem State.putByte_islands (s : State) (a : Nat) (v : Byte) (p : Bool) : (s.putByte a v p).islands = s.islands := rfl
@[simp] theorem State.putByte_port (s : State) (a : Nat) (v : Byte) (p : Bool) : (s.putByte a v p).port = s.port := rfl
@[simp] theorem State.putByte_mgmt (s : State) (a : Nat) (v : Byte) (p : Bool) : (s.putByte a v p).mgmt = s.mgmt := rfl

/-! ## `State.clearBytes` -/

@[simp] theorem State.clearBytes_cur (s : State) (a n : Nat) : (s.clearBytes a n).cur = s.cur := rfl
@[simp] theorem State.clearBytes_agenda (s : State) (a n : Nat) : (s.clearBytes a n).agenda = s.agenda := rfl
@[simp] theorem State.clearBytes_clk (s : State) (a n : Nat) : (s.clearBytes a n).clk = s.clk := rfl
@[simp] theorem State.clearBytes_fresh (s : State) (a n : Nat) : (s.clearBytes a n).fresh = s.fresh := rfl
@[simp] theorem State.clearBytes_nextId (s : State) (a n : Nat) : (s.clearBytes a n).nextId = s.nextId := rfl
@[simp] theorem State.clearBytes_dies (s : State) (a n : Nat) : (s.clearBytes a n).dies = s.dies := rfl
@[simp] theorem State.clearBytes_idCount (s : State) (a n : Nat) : (s.clearBytes a n).idCount = s.idCount := rfl
@[simp] theorem State.clearBytes_launchNo (s : State) (a n : Nat) : (s.clearBytes a n).launchNo = s.launchNo := rfl
@[simp] theorem State.clearBytes_mem (s : State) (a n : Nat) : (s.clearBytes a n).mem = s.mem.filter fun e => e.1 < a || a + n ≤ e.1 := rfl
@[simp] theorem State.clearBytes_memPoison (s : State) (a n : Nat) : (s.clearBytes a n).memPoison = s.memPoison.filter fun e => e.1 < a || a + n ≤ e.1 := rfl
@[simp] theorem State.clearBytes_fullBits (s : State) (a n : Nat) : (s.clearBytes a n).fullBits = s.fullBits := rfl
@[simp] theorem State.clearBytes_marks (s : State) (a n : Nat) : (s.clearBytes a n).marks = s.marks := rfl
@[simp] theorem State.clearBytes_ctxs (s : State) (a n : Nat) : (s.clearBytes a n).ctxs = s.ctxs := rfl
@[simp] theorem State.clearBytes_saved (s : State) (a n : Nat) : (s.clearBytes a n).saved = s.saved := rfl
@[simp] theorem State.clearBytes_trapCsrs (s : State) (a n : Nat) : (s.clearBytes a n).trapCsrs = s.trapCsrs := rfl
@[simp] theorem State.clearBytes_areaWait (s : State) (a n : Nat) : (s.clearBytes a n).areaWait = s.areaWait := rfl
@[simp] theorem State.clearBytes_l1d (s : State) (a n : Nat) : (s.clearBytes a n).l1d = s.l1d := rfl
@[simp] theorem State.clearBytes_l1i (s : State) (a n : Nat) : (s.clearBytes a n).l1i = s.l1i := rfl
@[simp] theorem State.clearBytes_tags (s : State) (a n : Nat) : (s.clearBytes a n).tags = s.tags := rfl
@[simp] theorem State.clearBytes_storeQ (s : State) (a n : Nat) : (s.clearBytes a n).storeQ = s.storeQ := rfl
@[simp] theorem State.clearBytes_tlbs (s : State) (a n : Nat) : (s.clearBytes a n).tlbs = s.tlbs := rfl
@[simp] theorem State.clearBytes_walkCache (s : State) (a n : Nat) : (s.clearBytes a n).walkCache = s.walkCache := rfl
@[simp] theorem State.clearBytes_walkQ (s : State) (a n : Nat) : (s.clearBytes a n).walkQ = s.walkQ := rfl
@[simp] theorem State.clearBytes_walkRr (s : State) (a n : Nat) : (s.clearBytes a n).walkRr = s.walkRr := rfl
@[simp] theorem State.clearBytes_walks (s : State) (a n : Nat) : (s.clearBytes a n).walks = s.walks := rfl
@[simp] theorem State.clearBytes_walkFaults (s : State) (a n : Nat) : (s.clearBytes a n).walkFaults = s.walkFaults := rfl
@[simp] theorem State.clearBytes_pends (s : State) (a n : Nat) : (s.clearBytes a n).pends = s.pends := rfl
@[simp] theorem State.clearBytes_groups (s : State) (a n : Nat) : (s.clearBytes a n).groups = s.groups := rfl
@[simp] theorem State.clearBytes_net (s : State) (a n : Nat) : (s.clearBytes a n).net = s.net := rfl
@[simp] theorem State.clearBytes_slices (s : State) (a n : Nat) : (s.clearBytes a n).slices = s.slices := rfl
@[simp] theorem State.clearBytes_dieRegs (s : State) (a n : Nat) : (s.clearBytes a n).dieRegs = s.dieRegs := rfl
@[simp] theorem State.clearBytes_clusters (s : State) (a n : Nat) : (s.clearBytes a n).clusters = s.clusters := rfl
@[simp] theorem State.clearBytes_cores (s : State) (a n : Nat) : (s.clearBytes a n).cores = s.cores := rfl
@[simp] theorem State.clearBytes_engines (s : State) (a n : Nat) : (s.clearBytes a n).engines = s.engines := rfl
@[simp] theorem State.clearBytes_drays (s : State) (a n : Nat) : (s.clearBytes a n).drays = s.drays := rfl
@[simp] theorem State.clearBytes_xfers (s : State) (a n : Nat) : (s.clearBytes a n).xfers = s.xfers := rfl
@[simp] theorem State.clearBytes_queues (s : State) (a n : Nat) : (s.clearBytes a n).queues = s.queues := rfl
@[simp] theorem State.clearBytes_launches (s : State) (a n : Nat) : (s.clearBytes a n).launches = s.launches := rfl
@[simp] theorem State.clearBytes_queueRr (s : State) (a n : Nat) : (s.clearBytes a n).queueRr = s.queueRr := rfl
@[simp] theorem State.clearBytes_islands (s : State) (a n : Nat) : (s.clearBytes a n).islands = s.islands := rfl
@[simp] theorem State.clearBytes_port (s : State) (a n : Nat) : (s.clearBytes a n).port = s.port := rfl
@[simp] theorem State.clearBytes_mgmt (s : State) (a n : Nat) : (s.clearBytes a n).mgmt = s.mgmt := rfl

/-! ## `State.setMark` -/

@[simp] theorem State.setMark_cur (s : State) (n : Nat) (m : Mark) : (s.setMark n m).cur = s.cur := rfl
@[simp] theorem State.setMark_agenda (s : State) (n : Nat) (m : Mark) : (s.setMark n m).agenda = s.agenda := rfl
@[simp] theorem State.setMark_clk (s : State) (n : Nat) (m : Mark) : (s.setMark n m).clk = s.clk := rfl
@[simp] theorem State.setMark_fresh (s : State) (n : Nat) (m : Mark) : (s.setMark n m).fresh = s.fresh := rfl
@[simp] theorem State.setMark_nextId (s : State) (n : Nat) (m : Mark) : (s.setMark n m).nextId = s.nextId := rfl
@[simp] theorem State.setMark_dies (s : State) (n : Nat) (m : Mark) : (s.setMark n m).dies = s.dies := rfl
@[simp] theorem State.setMark_idCount (s : State) (n : Nat) (m : Mark) : (s.setMark n m).idCount = s.idCount := rfl
@[simp] theorem State.setMark_launchNo (s : State) (n : Nat) (m : Mark) : (s.setMark n m).launchNo = s.launchNo := rfl
@[simp] theorem State.setMark_mem (s : State) (n : Nat) (m : Mark) : (s.setMark n m).mem = s.mem := rfl
@[simp] theorem State.setMark_memPoison (s : State) (n : Nat) (m : Mark) : (s.setMark n m).memPoison = s.memPoison := rfl
@[simp] theorem State.setMark_fullBits (s : State) (n : Nat) (m : Mark) : (s.setMark n m).fullBits = s.fullBits := rfl
@[simp] theorem State.setMark_marks (s : State) (n : Nat) (m : Mark) : (s.setMark n m).marks = Tbl.set .clean s.marks n m := rfl
@[simp] theorem State.setMark_ctxs (s : State) (n : Nat) (m : Mark) : (s.setMark n m).ctxs = s.ctxs := rfl
@[simp] theorem State.setMark_saved (s : State) (n : Nat) (m : Mark) : (s.setMark n m).saved = s.saved := rfl
@[simp] theorem State.setMark_trapCsrs (s : State) (n : Nat) (m : Mark) : (s.setMark n m).trapCsrs = s.trapCsrs := rfl
@[simp] theorem State.setMark_areaWait (s : State) (n : Nat) (m : Mark) : (s.setMark n m).areaWait = s.areaWait := rfl
@[simp] theorem State.setMark_l1d (s : State) (n : Nat) (m : Mark) : (s.setMark n m).l1d = s.l1d := rfl
@[simp] theorem State.setMark_l1i (s : State) (n : Nat) (m : Mark) : (s.setMark n m).l1i = s.l1i := rfl
@[simp] theorem State.setMark_tags (s : State) (n : Nat) (m : Mark) : (s.setMark n m).tags = s.tags := rfl
@[simp] theorem State.setMark_storeQ (s : State) (n : Nat) (m : Mark) : (s.setMark n m).storeQ = s.storeQ := rfl
@[simp] theorem State.setMark_tlbs (s : State) (n : Nat) (m : Mark) : (s.setMark n m).tlbs = s.tlbs := rfl
@[simp] theorem State.setMark_walkCache (s : State) (n : Nat) (m : Mark) : (s.setMark n m).walkCache = s.walkCache := rfl
@[simp] theorem State.setMark_walkQ (s : State) (n : Nat) (m : Mark) : (s.setMark n m).walkQ = s.walkQ := rfl
@[simp] theorem State.setMark_walkRr (s : State) (n : Nat) (m : Mark) : (s.setMark n m).walkRr = s.walkRr := rfl
@[simp] theorem State.setMark_walks (s : State) (n : Nat) (m : Mark) : (s.setMark n m).walks = s.walks := rfl
@[simp] theorem State.setMark_walkFaults (s : State) (n : Nat) (m : Mark) : (s.setMark n m).walkFaults = s.walkFaults := rfl
@[simp] theorem State.setMark_pends (s : State) (n : Nat) (m : Mark) : (s.setMark n m).pends = s.pends := rfl
@[simp] theorem State.setMark_groups (s : State) (n : Nat) (m : Mark) : (s.setMark n m).groups = s.groups := rfl
@[simp] theorem State.setMark_net (s : State) (n : Nat) (m : Mark) : (s.setMark n m).net = s.net := rfl
@[simp] theorem State.setMark_slices (s : State) (n : Nat) (m : Mark) : (s.setMark n m).slices = s.slices := rfl
@[simp] theorem State.setMark_dieRegs (s : State) (n : Nat) (m : Mark) : (s.setMark n m).dieRegs = s.dieRegs := rfl
@[simp] theorem State.setMark_clusters (s : State) (n : Nat) (m : Mark) : (s.setMark n m).clusters = s.clusters := rfl
@[simp] theorem State.setMark_cores (s : State) (n : Nat) (m : Mark) : (s.setMark n m).cores = s.cores := rfl
@[simp] theorem State.setMark_engines (s : State) (n : Nat) (m : Mark) : (s.setMark n m).engines = s.engines := rfl
@[simp] theorem State.setMark_drays (s : State) (n : Nat) (m : Mark) : (s.setMark n m).drays = s.drays := rfl
@[simp] theorem State.setMark_xfers (s : State) (n : Nat) (m : Mark) : (s.setMark n m).xfers = s.xfers := rfl
@[simp] theorem State.setMark_queues (s : State) (n : Nat) (m : Mark) : (s.setMark n m).queues = s.queues := rfl
@[simp] theorem State.setMark_launches (s : State) (n : Nat) (m : Mark) : (s.setMark n m).launches = s.launches := rfl
@[simp] theorem State.setMark_queueRr (s : State) (n : Nat) (m : Mark) : (s.setMark n m).queueRr = s.queueRr := rfl
@[simp] theorem State.setMark_islands (s : State) (n : Nat) (m : Mark) : (s.setMark n m).islands = s.islands := rfl
@[simp] theorem State.setMark_port (s : State) (n : Nat) (m : Mark) : (s.setMark n m).port = s.port := rfl
@[simp] theorem State.setMark_mgmt (s : State) (n : Nat) (m : Mark) : (s.setMark n m).mgmt = s.mgmt := rfl

/-! ## `State.setSlice` -/

@[simp] theorem State.setSlice_cur (s : State) (h : Nat) (v : Slice) : (s.setSlice h v).cur = s.cur := rfl
@[simp] theorem State.setSlice_agenda (s : State) (h : Nat) (v : Slice) : (s.setSlice h v).agenda = s.agenda := rfl
@[simp] theorem State.setSlice_clk (s : State) (h : Nat) (v : Slice) : (s.setSlice h v).clk = s.clk := rfl
@[simp] theorem State.setSlice_fresh (s : State) (h : Nat) (v : Slice) : (s.setSlice h v).fresh = s.fresh := rfl
@[simp] theorem State.setSlice_nextId (s : State) (h : Nat) (v : Slice) : (s.setSlice h v).nextId = s.nextId := rfl
@[simp] theorem State.setSlice_dies (s : State) (h : Nat) (v : Slice) : (s.setSlice h v).dies = s.dies := rfl
@[simp] theorem State.setSlice_idCount (s : State) (h : Nat) (v : Slice) : (s.setSlice h v).idCount = s.idCount := rfl
@[simp] theorem State.setSlice_launchNo (s : State) (h : Nat) (v : Slice) : (s.setSlice h v).launchNo = s.launchNo := rfl
@[simp] theorem State.setSlice_mem (s : State) (h : Nat) (v : Slice) : (s.setSlice h v).mem = s.mem := rfl
@[simp] theorem State.setSlice_memPoison (s : State) (h : Nat) (v : Slice) : (s.setSlice h v).memPoison = s.memPoison := rfl
@[simp] theorem State.setSlice_fullBits (s : State) (h : Nat) (v : Slice) : (s.setSlice h v).fullBits = s.fullBits := rfl
@[simp] theorem State.setSlice_marks (s : State) (h : Nat) (v : Slice) : (s.setSlice h v).marks = s.marks := rfl
@[simp] theorem State.setSlice_ctxs (s : State) (h : Nat) (v : Slice) : (s.setSlice h v).ctxs = s.ctxs := rfl
@[simp] theorem State.setSlice_saved (s : State) (h : Nat) (v : Slice) : (s.setSlice h v).saved = s.saved := rfl
@[simp] theorem State.setSlice_trapCsrs (s : State) (h : Nat) (v : Slice) : (s.setSlice h v).trapCsrs = s.trapCsrs := rfl
@[simp] theorem State.setSlice_areaWait (s : State) (h : Nat) (v : Slice) : (s.setSlice h v).areaWait = s.areaWait := rfl
@[simp] theorem State.setSlice_l1d (s : State) (h : Nat) (v : Slice) : (s.setSlice h v).l1d = s.l1d := rfl
@[simp] theorem State.setSlice_l1i (s : State) (h : Nat) (v : Slice) : (s.setSlice h v).l1i = s.l1i := rfl
@[simp] theorem State.setSlice_tags (s : State) (h : Nat) (v : Slice) : (s.setSlice h v).tags = s.tags := rfl
@[simp] theorem State.setSlice_storeQ (s : State) (h : Nat) (v : Slice) : (s.setSlice h v).storeQ = s.storeQ := rfl
@[simp] theorem State.setSlice_tlbs (s : State) (h : Nat) (v : Slice) : (s.setSlice h v).tlbs = s.tlbs := rfl
@[simp] theorem State.setSlice_walkCache (s : State) (h : Nat) (v : Slice) : (s.setSlice h v).walkCache = s.walkCache := rfl
@[simp] theorem State.setSlice_walkQ (s : State) (h : Nat) (v : Slice) : (s.setSlice h v).walkQ = s.walkQ := rfl
@[simp] theorem State.setSlice_walkRr (s : State) (h : Nat) (v : Slice) : (s.setSlice h v).walkRr = s.walkRr := rfl
@[simp] theorem State.setSlice_walks (s : State) (h : Nat) (v : Slice) : (s.setSlice h v).walks = s.walks := rfl
@[simp] theorem State.setSlice_walkFaults (s : State) (h : Nat) (v : Slice) : (s.setSlice h v).walkFaults = s.walkFaults := rfl
@[simp] theorem State.setSlice_pends (s : State) (h : Nat) (v : Slice) : (s.setSlice h v).pends = s.pends := rfl
@[simp] theorem State.setSlice_groups (s : State) (h : Nat) (v : Slice) : (s.setSlice h v).groups = s.groups := rfl
@[simp] theorem State.setSlice_net (s : State) (h : Nat) (v : Slice) : (s.setSlice h v).net = s.net := rfl
@[simp] theorem State.setSlice_slices (s : State) (h : Nat) (v : Slice) : (s.setSlice h v).slices = Tbl.set Slice.reset s.slices h v := rfl
@[simp] theorem State.setSlice_dieRegs (s : State) (h : Nat) (v : Slice) : (s.setSlice h v).dieRegs = s.dieRegs := rfl
@[simp] theorem State.setSlice_clusters (s : State) (h : Nat) (v : Slice) : (s.setSlice h v).clusters = s.clusters := rfl
@[simp] theorem State.setSlice_cores (s : State) (h : Nat) (v : Slice) : (s.setSlice h v).cores = s.cores := rfl
@[simp] theorem State.setSlice_engines (s : State) (h : Nat) (v : Slice) : (s.setSlice h v).engines = s.engines := rfl
@[simp] theorem State.setSlice_drays (s : State) (h : Nat) (v : Slice) : (s.setSlice h v).drays = s.drays := rfl
@[simp] theorem State.setSlice_xfers (s : State) (h : Nat) (v : Slice) : (s.setSlice h v).xfers = s.xfers := rfl
@[simp] theorem State.setSlice_queues (s : State) (h : Nat) (v : Slice) : (s.setSlice h v).queues = s.queues := rfl
@[simp] theorem State.setSlice_launches (s : State) (h : Nat) (v : Slice) : (s.setSlice h v).launches = s.launches := rfl
@[simp] theorem State.setSlice_queueRr (s : State) (h : Nat) (v : Slice) : (s.setSlice h v).queueRr = s.queueRr := rfl
@[simp] theorem State.setSlice_islands (s : State) (h : Nat) (v : Slice) : (s.setSlice h v).islands = s.islands := rfl
@[simp] theorem State.setSlice_port (s : State) (h : Nat) (v : Slice) : (s.setSlice h v).port = s.port := rfl
@[simp] theorem State.setSlice_mgmt (s : State) (h : Nat) (v : Slice) : (s.setSlice h v).mgmt = s.mgmt := rfl

/-! ## `State.setCluster` -/

@[simp] theorem State.setCluster_cur (s : State) (c : Nat) (v : Cluster) : (s.setCluster c v).cur = s.cur := rfl
@[simp] theorem State.setCluster_agenda (s : State) (c : Nat) (v : Cluster) : (s.setCluster c v).agenda = s.agenda := rfl
@[simp] theorem State.setCluster_clk (s : State) (c : Nat) (v : Cluster) : (s.setCluster c v).clk = s.clk := rfl
@[simp] theorem State.setCluster_fresh (s : State) (c : Nat) (v : Cluster) : (s.setCluster c v).fresh = s.fresh := rfl
@[simp] theorem State.setCluster_nextId (s : State) (c : Nat) (v : Cluster) : (s.setCluster c v).nextId = s.nextId := rfl
@[simp] theorem State.setCluster_dies (s : State) (c : Nat) (v : Cluster) : (s.setCluster c v).dies = s.dies := rfl
@[simp] theorem State.setCluster_idCount (s : State) (c : Nat) (v : Cluster) : (s.setCluster c v).idCount = s.idCount := rfl
@[simp] theorem State.setCluster_launchNo (s : State) (c : Nat) (v : Cluster) : (s.setCluster c v).launchNo = s.launchNo := rfl
@[simp] theorem State.setCluster_mem (s : State) (c : Nat) (v : Cluster) : (s.setCluster c v).mem = s.mem := rfl
@[simp] theorem State.setCluster_memPoison (s : State) (c : Nat) (v : Cluster) : (s.setCluster c v).memPoison = s.memPoison := rfl
@[simp] theorem State.setCluster_fullBits (s : State) (c : Nat) (v : Cluster) : (s.setCluster c v).fullBits = s.fullBits := rfl
@[simp] theorem State.setCluster_marks (s : State) (c : Nat) (v : Cluster) : (s.setCluster c v).marks = s.marks := rfl
@[simp] theorem State.setCluster_ctxs (s : State) (c : Nat) (v : Cluster) : (s.setCluster c v).ctxs = s.ctxs := rfl
@[simp] theorem State.setCluster_saved (s : State) (c : Nat) (v : Cluster) : (s.setCluster c v).saved = s.saved := rfl
@[simp] theorem State.setCluster_trapCsrs (s : State) (c : Nat) (v : Cluster) : (s.setCluster c v).trapCsrs = s.trapCsrs := rfl
@[simp] theorem State.setCluster_areaWait (s : State) (c : Nat) (v : Cluster) : (s.setCluster c v).areaWait = s.areaWait := rfl
@[simp] theorem State.setCluster_l1d (s : State) (c : Nat) (v : Cluster) : (s.setCluster c v).l1d = s.l1d := rfl
@[simp] theorem State.setCluster_l1i (s : State) (c : Nat) (v : Cluster) : (s.setCluster c v).l1i = s.l1i := rfl
@[simp] theorem State.setCluster_tags (s : State) (c : Nat) (v : Cluster) : (s.setCluster c v).tags = s.tags := rfl
@[simp] theorem State.setCluster_storeQ (s : State) (c : Nat) (v : Cluster) : (s.setCluster c v).storeQ = s.storeQ := rfl
@[simp] theorem State.setCluster_tlbs (s : State) (c : Nat) (v : Cluster) : (s.setCluster c v).tlbs = s.tlbs := rfl
@[simp] theorem State.setCluster_walkCache (s : State) (c : Nat) (v : Cluster) : (s.setCluster c v).walkCache = s.walkCache := rfl
@[simp] theorem State.setCluster_walkQ (s : State) (c : Nat) (v : Cluster) : (s.setCluster c v).walkQ = s.walkQ := rfl
@[simp] theorem State.setCluster_walkRr (s : State) (c : Nat) (v : Cluster) : (s.setCluster c v).walkRr = s.walkRr := rfl
@[simp] theorem State.setCluster_walks (s : State) (c : Nat) (v : Cluster) : (s.setCluster c v).walks = s.walks := rfl
@[simp] theorem State.setCluster_walkFaults (s : State) (c : Nat) (v : Cluster) : (s.setCluster c v).walkFaults = s.walkFaults := rfl
@[simp] theorem State.setCluster_pends (s : State) (c : Nat) (v : Cluster) : (s.setCluster c v).pends = s.pends := rfl
@[simp] theorem State.setCluster_groups (s : State) (c : Nat) (v : Cluster) : (s.setCluster c v).groups = s.groups := rfl
@[simp] theorem State.setCluster_net (s : State) (c : Nat) (v : Cluster) : (s.setCluster c v).net = s.net := rfl
@[simp] theorem State.setCluster_slices (s : State) (c : Nat) (v : Cluster) : (s.setCluster c v).slices = s.slices := rfl
@[simp] theorem State.setCluster_dieRegs (s : State) (c : Nat) (v : Cluster) : (s.setCluster c v).dieRegs = s.dieRegs := rfl
@[simp] theorem State.setCluster_clusters (s : State) (c : Nat) (v : Cluster) : (s.setCluster c v).clusters = Tbl.set Cluster.reset s.clusters c v := rfl
@[simp] theorem State.setCluster_cores (s : State) (c : Nat) (v : Cluster) : (s.setCluster c v).cores = s.cores := rfl
@[simp] theorem State.setCluster_engines (s : State) (c : Nat) (v : Cluster) : (s.setCluster c v).engines = s.engines := rfl
@[simp] theorem State.setCluster_drays (s : State) (c : Nat) (v : Cluster) : (s.setCluster c v).drays = s.drays := rfl
@[simp] theorem State.setCluster_xfers (s : State) (c : Nat) (v : Cluster) : (s.setCluster c v).xfers = s.xfers := rfl
@[simp] theorem State.setCluster_queues (s : State) (c : Nat) (v : Cluster) : (s.setCluster c v).queues = s.queues := rfl
@[simp] theorem State.setCluster_launches (s : State) (c : Nat) (v : Cluster) : (s.setCluster c v).launches = s.launches := rfl
@[simp] theorem State.setCluster_queueRr (s : State) (c : Nat) (v : Cluster) : (s.setCluster c v).queueRr = s.queueRr := rfl
@[simp] theorem State.setCluster_islands (s : State) (c : Nat) (v : Cluster) : (s.setCluster c v).islands = s.islands := rfl
@[simp] theorem State.setCluster_port (s : State) (c : Nat) (v : Cluster) : (s.setCluster c v).port = s.port := rfl
@[simp] theorem State.setCluster_mgmt (s : State) (c : Nat) (v : Cluster) : (s.setCluster c v).mgmt = s.mgmt := rfl

/-! ## `State.setCore` -/

@[simp] theorem State.setCore_cur (s : State) (u : Nat) (v : Core) : (s.setCore u v).cur = s.cur := rfl
@[simp] theorem State.setCore_agenda (s : State) (u : Nat) (v : Core) : (s.setCore u v).agenda = s.agenda := rfl
@[simp] theorem State.setCore_clk (s : State) (u : Nat) (v : Core) : (s.setCore u v).clk = s.clk := rfl
@[simp] theorem State.setCore_fresh (s : State) (u : Nat) (v : Core) : (s.setCore u v).fresh = s.fresh := rfl
@[simp] theorem State.setCore_nextId (s : State) (u : Nat) (v : Core) : (s.setCore u v).nextId = s.nextId := rfl
@[simp] theorem State.setCore_dies (s : State) (u : Nat) (v : Core) : (s.setCore u v).dies = s.dies := rfl
@[simp] theorem State.setCore_idCount (s : State) (u : Nat) (v : Core) : (s.setCore u v).idCount = s.idCount := rfl
@[simp] theorem State.setCore_launchNo (s : State) (u : Nat) (v : Core) : (s.setCore u v).launchNo = s.launchNo := rfl
@[simp] theorem State.setCore_mem (s : State) (u : Nat) (v : Core) : (s.setCore u v).mem = s.mem := rfl
@[simp] theorem State.setCore_memPoison (s : State) (u : Nat) (v : Core) : (s.setCore u v).memPoison = s.memPoison := rfl
@[simp] theorem State.setCore_fullBits (s : State) (u : Nat) (v : Core) : (s.setCore u v).fullBits = s.fullBits := rfl
@[simp] theorem State.setCore_marks (s : State) (u : Nat) (v : Core) : (s.setCore u v).marks = s.marks := rfl
@[simp] theorem State.setCore_ctxs (s : State) (u : Nat) (v : Core) : (s.setCore u v).ctxs = s.ctxs := rfl
@[simp] theorem State.setCore_saved (s : State) (u : Nat) (v : Core) : (s.setCore u v).saved = s.saved := rfl
@[simp] theorem State.setCore_trapCsrs (s : State) (u : Nat) (v : Core) : (s.setCore u v).trapCsrs = s.trapCsrs := rfl
@[simp] theorem State.setCore_areaWait (s : State) (u : Nat) (v : Core) : (s.setCore u v).areaWait = s.areaWait := rfl
@[simp] theorem State.setCore_l1d (s : State) (u : Nat) (v : Core) : (s.setCore u v).l1d = s.l1d := rfl
@[simp] theorem State.setCore_l1i (s : State) (u : Nat) (v : Core) : (s.setCore u v).l1i = s.l1i := rfl
@[simp] theorem State.setCore_tags (s : State) (u : Nat) (v : Core) : (s.setCore u v).tags = s.tags := rfl
@[simp] theorem State.setCore_storeQ (s : State) (u : Nat) (v : Core) : (s.setCore u v).storeQ = s.storeQ := rfl
@[simp] theorem State.setCore_tlbs (s : State) (u : Nat) (v : Core) : (s.setCore u v).tlbs = s.tlbs := rfl
@[simp] theorem State.setCore_walkCache (s : State) (u : Nat) (v : Core) : (s.setCore u v).walkCache = s.walkCache := rfl
@[simp] theorem State.setCore_walkQ (s : State) (u : Nat) (v : Core) : (s.setCore u v).walkQ = s.walkQ := rfl
@[simp] theorem State.setCore_walkRr (s : State) (u : Nat) (v : Core) : (s.setCore u v).walkRr = s.walkRr := rfl
@[simp] theorem State.setCore_walks (s : State) (u : Nat) (v : Core) : (s.setCore u v).walks = s.walks := rfl
@[simp] theorem State.setCore_walkFaults (s : State) (u : Nat) (v : Core) : (s.setCore u v).walkFaults = s.walkFaults := rfl
@[simp] theorem State.setCore_pends (s : State) (u : Nat) (v : Core) : (s.setCore u v).pends = s.pends := rfl
@[simp] theorem State.setCore_groups (s : State) (u : Nat) (v : Core) : (s.setCore u v).groups = s.groups := rfl
@[simp] theorem State.setCore_net (s : State) (u : Nat) (v : Core) : (s.setCore u v).net = s.net := rfl
@[simp] theorem State.setCore_slices (s : State) (u : Nat) (v : Core) : (s.setCore u v).slices = s.slices := rfl
@[simp] theorem State.setCore_dieRegs (s : State) (u : Nat) (v : Core) : (s.setCore u v).dieRegs = s.dieRegs := rfl
@[simp] theorem State.setCore_clusters (s : State) (u : Nat) (v : Core) : (s.setCore u v).clusters = s.clusters := rfl
@[simp] theorem State.setCore_cores (s : State) (u : Nat) (v : Core) : (s.setCore u v).cores = Tbl.set Core.reset s.cores u v := rfl
@[simp] theorem State.setCore_engines (s : State) (u : Nat) (v : Core) : (s.setCore u v).engines = s.engines := rfl
@[simp] theorem State.setCore_drays (s : State) (u : Nat) (v : Core) : (s.setCore u v).drays = s.drays := rfl
@[simp] theorem State.setCore_xfers (s : State) (u : Nat) (v : Core) : (s.setCore u v).xfers = s.xfers := rfl
@[simp] theorem State.setCore_queues (s : State) (u : Nat) (v : Core) : (s.setCore u v).queues = s.queues := rfl
@[simp] theorem State.setCore_launches (s : State) (u : Nat) (v : Core) : (s.setCore u v).launches = s.launches := rfl
@[simp] theorem State.setCore_queueRr (s : State) (u : Nat) (v : Core) : (s.setCore u v).queueRr = s.queueRr := rfl
@[simp] theorem State.setCore_islands (s : State) (u : Nat) (v : Core) : (s.setCore u v).islands = s.islands := rfl
@[simp] theorem State.setCore_port (s : State) (u : Nat) (v : Core) : (s.setCore u v).port = s.port := rfl
@[simp] theorem State.setCore_mgmt (s : State) (u : Nat) (v : Core) : (s.setCore u v).mgmt = s.mgmt := rfl

/-! ## `State.setEngine` -/

@[simp] theorem State.setEngine_cur (s : State) (u : Nat) (v : Engine) : (s.setEngine u v).cur = s.cur := rfl
@[simp] theorem State.setEngine_agenda (s : State) (u : Nat) (v : Engine) : (s.setEngine u v).agenda = s.agenda := rfl
@[simp] theorem State.setEngine_clk (s : State) (u : Nat) (v : Engine) : (s.setEngine u v).clk = s.clk := rfl
@[simp] theorem State.setEngine_fresh (s : State) (u : Nat) (v : Engine) : (s.setEngine u v).fresh = s.fresh := rfl
@[simp] theorem State.setEngine_nextId (s : State) (u : Nat) (v : Engine) : (s.setEngine u v).nextId = s.nextId := rfl
@[simp] theorem State.setEngine_dies (s : State) (u : Nat) (v : Engine) : (s.setEngine u v).dies = s.dies := rfl
@[simp] theorem State.setEngine_idCount (s : State) (u : Nat) (v : Engine) : (s.setEngine u v).idCount = s.idCount := rfl
@[simp] theorem State.setEngine_launchNo (s : State) (u : Nat) (v : Engine) : (s.setEngine u v).launchNo = s.launchNo := rfl
@[simp] theorem State.setEngine_mem (s : State) (u : Nat) (v : Engine) : (s.setEngine u v).mem = s.mem := rfl
@[simp] theorem State.setEngine_memPoison (s : State) (u : Nat) (v : Engine) : (s.setEngine u v).memPoison = s.memPoison := rfl
@[simp] theorem State.setEngine_fullBits (s : State) (u : Nat) (v : Engine) : (s.setEngine u v).fullBits = s.fullBits := rfl
@[simp] theorem State.setEngine_marks (s : State) (u : Nat) (v : Engine) : (s.setEngine u v).marks = s.marks := rfl
@[simp] theorem State.setEngine_ctxs (s : State) (u : Nat) (v : Engine) : (s.setEngine u v).ctxs = s.ctxs := rfl
@[simp] theorem State.setEngine_saved (s : State) (u : Nat) (v : Engine) : (s.setEngine u v).saved = s.saved := rfl
@[simp] theorem State.setEngine_trapCsrs (s : State) (u : Nat) (v : Engine) : (s.setEngine u v).trapCsrs = s.trapCsrs := rfl
@[simp] theorem State.setEngine_areaWait (s : State) (u : Nat) (v : Engine) : (s.setEngine u v).areaWait = s.areaWait := rfl
@[simp] theorem State.setEngine_l1d (s : State) (u : Nat) (v : Engine) : (s.setEngine u v).l1d = s.l1d := rfl
@[simp] theorem State.setEngine_l1i (s : State) (u : Nat) (v : Engine) : (s.setEngine u v).l1i = s.l1i := rfl
@[simp] theorem State.setEngine_tags (s : State) (u : Nat) (v : Engine) : (s.setEngine u v).tags = s.tags := rfl
@[simp] theorem State.setEngine_storeQ (s : State) (u : Nat) (v : Engine) : (s.setEngine u v).storeQ = s.storeQ := rfl
@[simp] theorem State.setEngine_tlbs (s : State) (u : Nat) (v : Engine) : (s.setEngine u v).tlbs = s.tlbs := rfl
@[simp] theorem State.setEngine_walkCache (s : State) (u : Nat) (v : Engine) : (s.setEngine u v).walkCache = s.walkCache := rfl
@[simp] theorem State.setEngine_walkQ (s : State) (u : Nat) (v : Engine) : (s.setEngine u v).walkQ = s.walkQ := rfl
@[simp] theorem State.setEngine_walkRr (s : State) (u : Nat) (v : Engine) : (s.setEngine u v).walkRr = s.walkRr := rfl
@[simp] theorem State.setEngine_walks (s : State) (u : Nat) (v : Engine) : (s.setEngine u v).walks = s.walks := rfl
@[simp] theorem State.setEngine_walkFaults (s : State) (u : Nat) (v : Engine) : (s.setEngine u v).walkFaults = s.walkFaults := rfl
@[simp] theorem State.setEngine_pends (s : State) (u : Nat) (v : Engine) : (s.setEngine u v).pends = s.pends := rfl
@[simp] theorem State.setEngine_groups (s : State) (u : Nat) (v : Engine) : (s.setEngine u v).groups = s.groups := rfl
@[simp] theorem State.setEngine_net (s : State) (u : Nat) (v : Engine) : (s.setEngine u v).net = s.net := rfl
@[simp] theorem State.setEngine_slices (s : State) (u : Nat) (v : Engine) : (s.setEngine u v).slices = s.slices := rfl
@[simp] theorem State.setEngine_dieRegs (s : State) (u : Nat) (v : Engine) : (s.setEngine u v).dieRegs = s.dieRegs := rfl
@[simp] theorem State.setEngine_clusters (s : State) (u : Nat) (v : Engine) : (s.setEngine u v).clusters = s.clusters := rfl
@[simp] theorem State.setEngine_cores (s : State) (u : Nat) (v : Engine) : (s.setEngine u v).cores = s.cores := rfl
@[simp] theorem State.setEngine_engines (s : State) (u : Nat) (v : Engine) : (s.setEngine u v).engines = Tbl.set Engine.reset s.engines u v := rfl
@[simp] theorem State.setEngine_drays (s : State) (u : Nat) (v : Engine) : (s.setEngine u v).drays = s.drays := rfl
@[simp] theorem State.setEngine_xfers (s : State) (u : Nat) (v : Engine) : (s.setEngine u v).xfers = s.xfers := rfl
@[simp] theorem State.setEngine_queues (s : State) (u : Nat) (v : Engine) : (s.setEngine u v).queues = s.queues := rfl
@[simp] theorem State.setEngine_launches (s : State) (u : Nat) (v : Engine) : (s.setEngine u v).launches = s.launches := rfl
@[simp] theorem State.setEngine_queueRr (s : State) (u : Nat) (v : Engine) : (s.setEngine u v).queueRr = s.queueRr := rfl
@[simp] theorem State.setEngine_islands (s : State) (u : Nat) (v : Engine) : (s.setEngine u v).islands = s.islands := rfl
@[simp] theorem State.setEngine_port (s : State) (u : Nat) (v : Engine) : (s.setEngine u v).port = s.port := rfl
@[simp] theorem State.setEngine_mgmt (s : State) (u : Nat) (v : Engine) : (s.setEngine u v).mgmt = s.mgmt := rfl

/-! ## `State.setXfer` -/

@[simp] theorem State.setXfer_cur (s : State) (x : Nat) (v : Option Xfer) : (s.setXfer x v).cur = s.cur := rfl
@[simp] theorem State.setXfer_agenda (s : State) (x : Nat) (v : Option Xfer) : (s.setXfer x v).agenda = s.agenda := rfl
@[simp] theorem State.setXfer_clk (s : State) (x : Nat) (v : Option Xfer) : (s.setXfer x v).clk = s.clk := rfl
@[simp] theorem State.setXfer_fresh (s : State) (x : Nat) (v : Option Xfer) : (s.setXfer x v).fresh = s.fresh := rfl
@[simp] theorem State.setXfer_nextId (s : State) (x : Nat) (v : Option Xfer) : (s.setXfer x v).nextId = s.nextId := rfl
@[simp] theorem State.setXfer_dies (s : State) (x : Nat) (v : Option Xfer) : (s.setXfer x v).dies = s.dies := rfl
@[simp] theorem State.setXfer_idCount (s : State) (x : Nat) (v : Option Xfer) : (s.setXfer x v).idCount = s.idCount := rfl
@[simp] theorem State.setXfer_launchNo (s : State) (x : Nat) (v : Option Xfer) : (s.setXfer x v).launchNo = s.launchNo := rfl
@[simp] theorem State.setXfer_mem (s : State) (x : Nat) (v : Option Xfer) : (s.setXfer x v).mem = s.mem := rfl
@[simp] theorem State.setXfer_memPoison (s : State) (x : Nat) (v : Option Xfer) : (s.setXfer x v).memPoison = s.memPoison := rfl
@[simp] theorem State.setXfer_fullBits (s : State) (x : Nat) (v : Option Xfer) : (s.setXfer x v).fullBits = s.fullBits := rfl
@[simp] theorem State.setXfer_marks (s : State) (x : Nat) (v : Option Xfer) : (s.setXfer x v).marks = s.marks := rfl
@[simp] theorem State.setXfer_ctxs (s : State) (x : Nat) (v : Option Xfer) : (s.setXfer x v).ctxs = s.ctxs := rfl
@[simp] theorem State.setXfer_saved (s : State) (x : Nat) (v : Option Xfer) : (s.setXfer x v).saved = s.saved := rfl
@[simp] theorem State.setXfer_trapCsrs (s : State) (x : Nat) (v : Option Xfer) : (s.setXfer x v).trapCsrs = s.trapCsrs := rfl
@[simp] theorem State.setXfer_areaWait (s : State) (x : Nat) (v : Option Xfer) : (s.setXfer x v).areaWait = s.areaWait := rfl
@[simp] theorem State.setXfer_l1d (s : State) (x : Nat) (v : Option Xfer) : (s.setXfer x v).l1d = s.l1d := rfl
@[simp] theorem State.setXfer_l1i (s : State) (x : Nat) (v : Option Xfer) : (s.setXfer x v).l1i = s.l1i := rfl
@[simp] theorem State.setXfer_tags (s : State) (x : Nat) (v : Option Xfer) : (s.setXfer x v).tags = s.tags := rfl
@[simp] theorem State.setXfer_storeQ (s : State) (x : Nat) (v : Option Xfer) : (s.setXfer x v).storeQ = s.storeQ := rfl
@[simp] theorem State.setXfer_tlbs (s : State) (x : Nat) (v : Option Xfer) : (s.setXfer x v).tlbs = s.tlbs := rfl
@[simp] theorem State.setXfer_walkCache (s : State) (x : Nat) (v : Option Xfer) : (s.setXfer x v).walkCache = s.walkCache := rfl
@[simp] theorem State.setXfer_walkQ (s : State) (x : Nat) (v : Option Xfer) : (s.setXfer x v).walkQ = s.walkQ := rfl
@[simp] theorem State.setXfer_walkRr (s : State) (x : Nat) (v : Option Xfer) : (s.setXfer x v).walkRr = s.walkRr := rfl
@[simp] theorem State.setXfer_walks (s : State) (x : Nat) (v : Option Xfer) : (s.setXfer x v).walks = s.walks := rfl
@[simp] theorem State.setXfer_walkFaults (s : State) (x : Nat) (v : Option Xfer) : (s.setXfer x v).walkFaults = s.walkFaults := rfl
@[simp] theorem State.setXfer_pends (s : State) (x : Nat) (v : Option Xfer) : (s.setXfer x v).pends = s.pends := rfl
@[simp] theorem State.setXfer_groups (s : State) (x : Nat) (v : Option Xfer) : (s.setXfer x v).groups = s.groups := rfl
@[simp] theorem State.setXfer_net (s : State) (x : Nat) (v : Option Xfer) : (s.setXfer x v).net = s.net := rfl
@[simp] theorem State.setXfer_slices (s : State) (x : Nat) (v : Option Xfer) : (s.setXfer x v).slices = s.slices := rfl
@[simp] theorem State.setXfer_dieRegs (s : State) (x : Nat) (v : Option Xfer) : (s.setXfer x v).dieRegs = s.dieRegs := rfl
@[simp] theorem State.setXfer_clusters (s : State) (x : Nat) (v : Option Xfer) : (s.setXfer x v).clusters = s.clusters := rfl
@[simp] theorem State.setXfer_cores (s : State) (x : Nat) (v : Option Xfer) : (s.setXfer x v).cores = s.cores := rfl
@[simp] theorem State.setXfer_engines (s : State) (x : Nat) (v : Option Xfer) : (s.setXfer x v).engines = s.engines := rfl
@[simp] theorem State.setXfer_drays (s : State) (x : Nat) (v : Option Xfer) : (s.setXfer x v).drays = s.drays := rfl
@[simp] theorem State.setXfer_xfers (s : State) (x : Nat) (v : Option Xfer) : (s.setXfer x v).xfers = Tbl.set none s.xfers x v := rfl
@[simp] theorem State.setXfer_queues (s : State) (x : Nat) (v : Option Xfer) : (s.setXfer x v).queues = s.queues := rfl
@[simp] theorem State.setXfer_launches (s : State) (x : Nat) (v : Option Xfer) : (s.setXfer x v).launches = s.launches := rfl
@[simp] theorem State.setXfer_queueRr (s : State) (x : Nat) (v : Option Xfer) : (s.setXfer x v).queueRr = s.queueRr := rfl
@[simp] theorem State.setXfer_islands (s : State) (x : Nat) (v : Option Xfer) : (s.setXfer x v).islands = s.islands := rfl
@[simp] theorem State.setXfer_port (s : State) (x : Nat) (v : Option Xfer) : (s.setXfer x v).port = s.port := rfl
@[simp] theorem State.setXfer_mgmt (s : State) (x : Nat) (v : Option Xfer) : (s.setXfer x v).mgmt = s.mgmt := rfl

/-! ## `State.setDray` -/

@[simp] theorem State.setDray_cur (s : State) (d : Nat) (v : Dray) : (s.setDray d v).cur = s.cur := rfl
@[simp] theorem State.setDray_agenda (s : State) (d : Nat) (v : Dray) : (s.setDray d v).agenda = s.agenda := rfl
@[simp] theorem State.setDray_clk (s : State) (d : Nat) (v : Dray) : (s.setDray d v).clk = s.clk := rfl
@[simp] theorem State.setDray_fresh (s : State) (d : Nat) (v : Dray) : (s.setDray d v).fresh = s.fresh := rfl
@[simp] theorem State.setDray_nextId (s : State) (d : Nat) (v : Dray) : (s.setDray d v).nextId = s.nextId := rfl
@[simp] theorem State.setDray_dies (s : State) (d : Nat) (v : Dray) : (s.setDray d v).dies = s.dies := rfl
@[simp] theorem State.setDray_idCount (s : State) (d : Nat) (v : Dray) : (s.setDray d v).idCount = s.idCount := rfl
@[simp] theorem State.setDray_launchNo (s : State) (d : Nat) (v : Dray) : (s.setDray d v).launchNo = s.launchNo := rfl
@[simp] theorem State.setDray_mem (s : State) (d : Nat) (v : Dray) : (s.setDray d v).mem = s.mem := rfl
@[simp] theorem State.setDray_memPoison (s : State) (d : Nat) (v : Dray) : (s.setDray d v).memPoison = s.memPoison := rfl
@[simp] theorem State.setDray_fullBits (s : State) (d : Nat) (v : Dray) : (s.setDray d v).fullBits = s.fullBits := rfl
@[simp] theorem State.setDray_marks (s : State) (d : Nat) (v : Dray) : (s.setDray d v).marks = s.marks := rfl
@[simp] theorem State.setDray_ctxs (s : State) (d : Nat) (v : Dray) : (s.setDray d v).ctxs = s.ctxs := rfl
@[simp] theorem State.setDray_saved (s : State) (d : Nat) (v : Dray) : (s.setDray d v).saved = s.saved := rfl
@[simp] theorem State.setDray_trapCsrs (s : State) (d : Nat) (v : Dray) : (s.setDray d v).trapCsrs = s.trapCsrs := rfl
@[simp] theorem State.setDray_areaWait (s : State) (d : Nat) (v : Dray) : (s.setDray d v).areaWait = s.areaWait := rfl
@[simp] theorem State.setDray_l1d (s : State) (d : Nat) (v : Dray) : (s.setDray d v).l1d = s.l1d := rfl
@[simp] theorem State.setDray_l1i (s : State) (d : Nat) (v : Dray) : (s.setDray d v).l1i = s.l1i := rfl
@[simp] theorem State.setDray_tags (s : State) (d : Nat) (v : Dray) : (s.setDray d v).tags = s.tags := rfl
@[simp] theorem State.setDray_storeQ (s : State) (d : Nat) (v : Dray) : (s.setDray d v).storeQ = s.storeQ := rfl
@[simp] theorem State.setDray_tlbs (s : State) (d : Nat) (v : Dray) : (s.setDray d v).tlbs = s.tlbs := rfl
@[simp] theorem State.setDray_walkCache (s : State) (d : Nat) (v : Dray) : (s.setDray d v).walkCache = s.walkCache := rfl
@[simp] theorem State.setDray_walkQ (s : State) (d : Nat) (v : Dray) : (s.setDray d v).walkQ = s.walkQ := rfl
@[simp] theorem State.setDray_walkRr (s : State) (d : Nat) (v : Dray) : (s.setDray d v).walkRr = s.walkRr := rfl
@[simp] theorem State.setDray_walks (s : State) (d : Nat) (v : Dray) : (s.setDray d v).walks = s.walks := rfl
@[simp] theorem State.setDray_walkFaults (s : State) (d : Nat) (v : Dray) : (s.setDray d v).walkFaults = s.walkFaults := rfl
@[simp] theorem State.setDray_pends (s : State) (d : Nat) (v : Dray) : (s.setDray d v).pends = s.pends := rfl
@[simp] theorem State.setDray_groups (s : State) (d : Nat) (v : Dray) : (s.setDray d v).groups = s.groups := rfl
@[simp] theorem State.setDray_net (s : State) (d : Nat) (v : Dray) : (s.setDray d v).net = s.net := rfl
@[simp] theorem State.setDray_slices (s : State) (d : Nat) (v : Dray) : (s.setDray d v).slices = s.slices := rfl
@[simp] theorem State.setDray_dieRegs (s : State) (d : Nat) (v : Dray) : (s.setDray d v).dieRegs = s.dieRegs := rfl
@[simp] theorem State.setDray_clusters (s : State) (d : Nat) (v : Dray) : (s.setDray d v).clusters = s.clusters := rfl
@[simp] theorem State.setDray_cores (s : State) (d : Nat) (v : Dray) : (s.setDray d v).cores = s.cores := rfl
@[simp] theorem State.setDray_engines (s : State) (d : Nat) (v : Dray) : (s.setDray d v).engines = s.engines := rfl
@[simp] theorem State.setDray_drays (s : State) (d : Nat) (v : Dray) : (s.setDray d v).drays = Tbl.set Dray.reset s.drays d v := rfl
@[simp] theorem State.setDray_xfers (s : State) (d : Nat) (v : Dray) : (s.setDray d v).xfers = s.xfers := rfl
@[simp] theorem State.setDray_queues (s : State) (d : Nat) (v : Dray) : (s.setDray d v).queues = s.queues := rfl
@[simp] theorem State.setDray_launches (s : State) (d : Nat) (v : Dray) : (s.setDray d v).launches = s.launches := rfl
@[simp] theorem State.setDray_queueRr (s : State) (d : Nat) (v : Dray) : (s.setDray d v).queueRr = s.queueRr := rfl
@[simp] theorem State.setDray_islands (s : State) (d : Nat) (v : Dray) : (s.setDray d v).islands = s.islands := rfl
@[simp] theorem State.setDray_port (s : State) (d : Nat) (v : Dray) : (s.setDray d v).port = s.port := rfl
@[simp] theorem State.setDray_mgmt (s : State) (d : Nat) (v : Dray) : (s.setDray d v).mgmt = s.mgmt := rfl

/-! ## `State.setLaunch` -/

@[simp] theorem State.setLaunch_cur (s : State) (l : Nat) (v : Option Launch) : (s.setLaunch l v).cur = s.cur := rfl
@[simp] theorem State.setLaunch_agenda (s : State) (l : Nat) (v : Option Launch) : (s.setLaunch l v).agenda = s.agenda := rfl
@[simp] theorem State.setLaunch_clk (s : State) (l : Nat) (v : Option Launch) : (s.setLaunch l v).clk = s.clk := rfl
@[simp] theorem State.setLaunch_fresh (s : State) (l : Nat) (v : Option Launch) : (s.setLaunch l v).fresh = s.fresh := rfl
@[simp] theorem State.setLaunch_nextId (s : State) (l : Nat) (v : Option Launch) : (s.setLaunch l v).nextId = s.nextId := rfl
@[simp] theorem State.setLaunch_dies (s : State) (l : Nat) (v : Option Launch) : (s.setLaunch l v).dies = s.dies := rfl
@[simp] theorem State.setLaunch_idCount (s : State) (l : Nat) (v : Option Launch) : (s.setLaunch l v).idCount = s.idCount := rfl
@[simp] theorem State.setLaunch_launchNo (s : State) (l : Nat) (v : Option Launch) : (s.setLaunch l v).launchNo = s.launchNo := rfl
@[simp] theorem State.setLaunch_mem (s : State) (l : Nat) (v : Option Launch) : (s.setLaunch l v).mem = s.mem := rfl
@[simp] theorem State.setLaunch_memPoison (s : State) (l : Nat) (v : Option Launch) : (s.setLaunch l v).memPoison = s.memPoison := rfl
@[simp] theorem State.setLaunch_fullBits (s : State) (l : Nat) (v : Option Launch) : (s.setLaunch l v).fullBits = s.fullBits := rfl
@[simp] theorem State.setLaunch_marks (s : State) (l : Nat) (v : Option Launch) : (s.setLaunch l v).marks = s.marks := rfl
@[simp] theorem State.setLaunch_ctxs (s : State) (l : Nat) (v : Option Launch) : (s.setLaunch l v).ctxs = s.ctxs := rfl
@[simp] theorem State.setLaunch_saved (s : State) (l : Nat) (v : Option Launch) : (s.setLaunch l v).saved = s.saved := rfl
@[simp] theorem State.setLaunch_trapCsrs (s : State) (l : Nat) (v : Option Launch) : (s.setLaunch l v).trapCsrs = s.trapCsrs := rfl
@[simp] theorem State.setLaunch_areaWait (s : State) (l : Nat) (v : Option Launch) : (s.setLaunch l v).areaWait = s.areaWait := rfl
@[simp] theorem State.setLaunch_l1d (s : State) (l : Nat) (v : Option Launch) : (s.setLaunch l v).l1d = s.l1d := rfl
@[simp] theorem State.setLaunch_l1i (s : State) (l : Nat) (v : Option Launch) : (s.setLaunch l v).l1i = s.l1i := rfl
@[simp] theorem State.setLaunch_tags (s : State) (l : Nat) (v : Option Launch) : (s.setLaunch l v).tags = s.tags := rfl
@[simp] theorem State.setLaunch_storeQ (s : State) (l : Nat) (v : Option Launch) : (s.setLaunch l v).storeQ = s.storeQ := rfl
@[simp] theorem State.setLaunch_tlbs (s : State) (l : Nat) (v : Option Launch) : (s.setLaunch l v).tlbs = s.tlbs := rfl
@[simp] theorem State.setLaunch_walkCache (s : State) (l : Nat) (v : Option Launch) : (s.setLaunch l v).walkCache = s.walkCache := rfl
@[simp] theorem State.setLaunch_walkQ (s : State) (l : Nat) (v : Option Launch) : (s.setLaunch l v).walkQ = s.walkQ := rfl
@[simp] theorem State.setLaunch_walkRr (s : State) (l : Nat) (v : Option Launch) : (s.setLaunch l v).walkRr = s.walkRr := rfl
@[simp] theorem State.setLaunch_walks (s : State) (l : Nat) (v : Option Launch) : (s.setLaunch l v).walks = s.walks := rfl
@[simp] theorem State.setLaunch_walkFaults (s : State) (l : Nat) (v : Option Launch) : (s.setLaunch l v).walkFaults = s.walkFaults := rfl
@[simp] theorem State.setLaunch_pends (s : State) (l : Nat) (v : Option Launch) : (s.setLaunch l v).pends = s.pends := rfl
@[simp] theorem State.setLaunch_groups (s : State) (l : Nat) (v : Option Launch) : (s.setLaunch l v).groups = s.groups := rfl
@[simp] theorem State.setLaunch_net (s : State) (l : Nat) (v : Option Launch) : (s.setLaunch l v).net = s.net := rfl
@[simp] theorem State.setLaunch_slices (s : State) (l : Nat) (v : Option Launch) : (s.setLaunch l v).slices = s.slices := rfl
@[simp] theorem State.setLaunch_dieRegs (s : State) (l : Nat) (v : Option Launch) : (s.setLaunch l v).dieRegs = s.dieRegs := rfl
@[simp] theorem State.setLaunch_clusters (s : State) (l : Nat) (v : Option Launch) : (s.setLaunch l v).clusters = s.clusters := rfl
@[simp] theorem State.setLaunch_cores (s : State) (l : Nat) (v : Option Launch) : (s.setLaunch l v).cores = s.cores := rfl
@[simp] theorem State.setLaunch_engines (s : State) (l : Nat) (v : Option Launch) : (s.setLaunch l v).engines = s.engines := rfl
@[simp] theorem State.setLaunch_drays (s : State) (l : Nat) (v : Option Launch) : (s.setLaunch l v).drays = s.drays := rfl
@[simp] theorem State.setLaunch_xfers (s : State) (l : Nat) (v : Option Launch) : (s.setLaunch l v).xfers = s.xfers := rfl
@[simp] theorem State.setLaunch_queues (s : State) (l : Nat) (v : Option Launch) : (s.setLaunch l v).queues = s.queues := rfl
@[simp] theorem State.setLaunch_launches (s : State) (l : Nat) (v : Option Launch) : (s.setLaunch l v).launches = Tbl.set none s.launches l v := rfl
@[simp] theorem State.setLaunch_queueRr (s : State) (l : Nat) (v : Option Launch) : (s.setLaunch l v).queueRr = s.queueRr := rfl
@[simp] theorem State.setLaunch_islands (s : State) (l : Nat) (v : Option Launch) : (s.setLaunch l v).islands = s.islands := rfl
@[simp] theorem State.setLaunch_port (s : State) (l : Nat) (v : Option Launch) : (s.setLaunch l v).port = s.port := rfl
@[simp] theorem State.setLaunch_mgmt (s : State) (l : Nat) (v : Option Launch) : (s.setLaunch l v).mgmt = s.mgmt := rfl

/-! ## `State.setQueue` -/

@[simp] theorem State.setQueue_cur (s : State) (q : Nat) (v : CmdQueue) : (s.setQueue q v).cur = s.cur := rfl
@[simp] theorem State.setQueue_agenda (s : State) (q : Nat) (v : CmdQueue) : (s.setQueue q v).agenda = s.agenda := rfl
@[simp] theorem State.setQueue_clk (s : State) (q : Nat) (v : CmdQueue) : (s.setQueue q v).clk = s.clk := rfl
@[simp] theorem State.setQueue_fresh (s : State) (q : Nat) (v : CmdQueue) : (s.setQueue q v).fresh = s.fresh := rfl
@[simp] theorem State.setQueue_nextId (s : State) (q : Nat) (v : CmdQueue) : (s.setQueue q v).nextId = s.nextId := rfl
@[simp] theorem State.setQueue_dies (s : State) (q : Nat) (v : CmdQueue) : (s.setQueue q v).dies = s.dies := rfl
@[simp] theorem State.setQueue_idCount (s : State) (q : Nat) (v : CmdQueue) : (s.setQueue q v).idCount = s.idCount := rfl
@[simp] theorem State.setQueue_launchNo (s : State) (q : Nat) (v : CmdQueue) : (s.setQueue q v).launchNo = s.launchNo := rfl
@[simp] theorem State.setQueue_mem (s : State) (q : Nat) (v : CmdQueue) : (s.setQueue q v).mem = s.mem := rfl
@[simp] theorem State.setQueue_memPoison (s : State) (q : Nat) (v : CmdQueue) : (s.setQueue q v).memPoison = s.memPoison := rfl
@[simp] theorem State.setQueue_fullBits (s : State) (q : Nat) (v : CmdQueue) : (s.setQueue q v).fullBits = s.fullBits := rfl
@[simp] theorem State.setQueue_marks (s : State) (q : Nat) (v : CmdQueue) : (s.setQueue q v).marks = s.marks := rfl
@[simp] theorem State.setQueue_ctxs (s : State) (q : Nat) (v : CmdQueue) : (s.setQueue q v).ctxs = s.ctxs := rfl
@[simp] theorem State.setQueue_saved (s : State) (q : Nat) (v : CmdQueue) : (s.setQueue q v).saved = s.saved := rfl
@[simp] theorem State.setQueue_trapCsrs (s : State) (q : Nat) (v : CmdQueue) : (s.setQueue q v).trapCsrs = s.trapCsrs := rfl
@[simp] theorem State.setQueue_areaWait (s : State) (q : Nat) (v : CmdQueue) : (s.setQueue q v).areaWait = s.areaWait := rfl
@[simp] theorem State.setQueue_l1d (s : State) (q : Nat) (v : CmdQueue) : (s.setQueue q v).l1d = s.l1d := rfl
@[simp] theorem State.setQueue_l1i (s : State) (q : Nat) (v : CmdQueue) : (s.setQueue q v).l1i = s.l1i := rfl
@[simp] theorem State.setQueue_tags (s : State) (q : Nat) (v : CmdQueue) : (s.setQueue q v).tags = s.tags := rfl
@[simp] theorem State.setQueue_storeQ (s : State) (q : Nat) (v : CmdQueue) : (s.setQueue q v).storeQ = s.storeQ := rfl
@[simp] theorem State.setQueue_tlbs (s : State) (q : Nat) (v : CmdQueue) : (s.setQueue q v).tlbs = s.tlbs := rfl
@[simp] theorem State.setQueue_walkCache (s : State) (q : Nat) (v : CmdQueue) : (s.setQueue q v).walkCache = s.walkCache := rfl
@[simp] theorem State.setQueue_walkQ (s : State) (q : Nat) (v : CmdQueue) : (s.setQueue q v).walkQ = s.walkQ := rfl
@[simp] theorem State.setQueue_walkRr (s : State) (q : Nat) (v : CmdQueue) : (s.setQueue q v).walkRr = s.walkRr := rfl
@[simp] theorem State.setQueue_walks (s : State) (q : Nat) (v : CmdQueue) : (s.setQueue q v).walks = s.walks := rfl
@[simp] theorem State.setQueue_walkFaults (s : State) (q : Nat) (v : CmdQueue) : (s.setQueue q v).walkFaults = s.walkFaults := rfl
@[simp] theorem State.setQueue_pends (s : State) (q : Nat) (v : CmdQueue) : (s.setQueue q v).pends = s.pends := rfl
@[simp] theorem State.setQueue_groups (s : State) (q : Nat) (v : CmdQueue) : (s.setQueue q v).groups = s.groups := rfl
@[simp] theorem State.setQueue_net (s : State) (q : Nat) (v : CmdQueue) : (s.setQueue q v).net = s.net := rfl
@[simp] theorem State.setQueue_slices (s : State) (q : Nat) (v : CmdQueue) : (s.setQueue q v).slices = s.slices := rfl
@[simp] theorem State.setQueue_dieRegs (s : State) (q : Nat) (v : CmdQueue) : (s.setQueue q v).dieRegs = s.dieRegs := rfl
@[simp] theorem State.setQueue_clusters (s : State) (q : Nat) (v : CmdQueue) : (s.setQueue q v).clusters = s.clusters := rfl
@[simp] theorem State.setQueue_cores (s : State) (q : Nat) (v : CmdQueue) : (s.setQueue q v).cores = s.cores := rfl
@[simp] theorem State.setQueue_engines (s : State) (q : Nat) (v : CmdQueue) : (s.setQueue q v).engines = s.engines := rfl
@[simp] theorem State.setQueue_drays (s : State) (q : Nat) (v : CmdQueue) : (s.setQueue q v).drays = s.drays := rfl
@[simp] theorem State.setQueue_xfers (s : State) (q : Nat) (v : CmdQueue) : (s.setQueue q v).xfers = s.xfers := rfl
@[simp] theorem State.setQueue_queues (s : State) (q : Nat) (v : CmdQueue) : (s.setQueue q v).queues = Tbl.set CmdQueue.reset s.queues q v := rfl
@[simp] theorem State.setQueue_launches (s : State) (q : Nat) (v : CmdQueue) : (s.setQueue q v).launches = s.launches := rfl
@[simp] theorem State.setQueue_queueRr (s : State) (q : Nat) (v : CmdQueue) : (s.setQueue q v).queueRr = s.queueRr := rfl
@[simp] theorem State.setQueue_islands (s : State) (q : Nat) (v : CmdQueue) : (s.setQueue q v).islands = s.islands := rfl
@[simp] theorem State.setQueue_port (s : State) (q : Nat) (v : CmdQueue) : (s.setQueue q v).port = s.port := rfl
@[simp] theorem State.setQueue_mgmt (s : State) (q : Nat) (v : CmdQueue) : (s.setQueue q v).mgmt = s.mgmt := rfl

/-! ## `State.setIsland` -/

@[simp] theorem State.setIsland_cur (s : State) (i : Nat) (v : Island) : (s.setIsland i v).cur = s.cur := rfl
@[simp] theorem State.setIsland_agenda (s : State) (i : Nat) (v : Island) : (s.setIsland i v).agenda = s.agenda := rfl
@[simp] theorem State.setIsland_clk (s : State) (i : Nat) (v : Island) : (s.setIsland i v).clk = s.clk := rfl
@[simp] theorem State.setIsland_fresh (s : State) (i : Nat) (v : Island) : (s.setIsland i v).fresh = s.fresh := rfl
@[simp] theorem State.setIsland_nextId (s : State) (i : Nat) (v : Island) : (s.setIsland i v).nextId = s.nextId := rfl
@[simp] theorem State.setIsland_dies (s : State) (i : Nat) (v : Island) : (s.setIsland i v).dies = s.dies := rfl
@[simp] theorem State.setIsland_idCount (s : State) (i : Nat) (v : Island) : (s.setIsland i v).idCount = s.idCount := rfl
@[simp] theorem State.setIsland_launchNo (s : State) (i : Nat) (v : Island) : (s.setIsland i v).launchNo = s.launchNo := rfl
@[simp] theorem State.setIsland_mem (s : State) (i : Nat) (v : Island) : (s.setIsland i v).mem = s.mem := rfl
@[simp] theorem State.setIsland_memPoison (s : State) (i : Nat) (v : Island) : (s.setIsland i v).memPoison = s.memPoison := rfl
@[simp] theorem State.setIsland_fullBits (s : State) (i : Nat) (v : Island) : (s.setIsland i v).fullBits = s.fullBits := rfl
@[simp] theorem State.setIsland_marks (s : State) (i : Nat) (v : Island) : (s.setIsland i v).marks = s.marks := rfl
@[simp] theorem State.setIsland_ctxs (s : State) (i : Nat) (v : Island) : (s.setIsland i v).ctxs = s.ctxs := rfl
@[simp] theorem State.setIsland_saved (s : State) (i : Nat) (v : Island) : (s.setIsland i v).saved = s.saved := rfl
@[simp] theorem State.setIsland_trapCsrs (s : State) (i : Nat) (v : Island) : (s.setIsland i v).trapCsrs = s.trapCsrs := rfl
@[simp] theorem State.setIsland_areaWait (s : State) (i : Nat) (v : Island) : (s.setIsland i v).areaWait = s.areaWait := rfl
@[simp] theorem State.setIsland_l1d (s : State) (i : Nat) (v : Island) : (s.setIsland i v).l1d = s.l1d := rfl
@[simp] theorem State.setIsland_l1i (s : State) (i : Nat) (v : Island) : (s.setIsland i v).l1i = s.l1i := rfl
@[simp] theorem State.setIsland_tags (s : State) (i : Nat) (v : Island) : (s.setIsland i v).tags = s.tags := rfl
@[simp] theorem State.setIsland_storeQ (s : State) (i : Nat) (v : Island) : (s.setIsland i v).storeQ = s.storeQ := rfl
@[simp] theorem State.setIsland_tlbs (s : State) (i : Nat) (v : Island) : (s.setIsland i v).tlbs = s.tlbs := rfl
@[simp] theorem State.setIsland_walkCache (s : State) (i : Nat) (v : Island) : (s.setIsland i v).walkCache = s.walkCache := rfl
@[simp] theorem State.setIsland_walkQ (s : State) (i : Nat) (v : Island) : (s.setIsland i v).walkQ = s.walkQ := rfl
@[simp] theorem State.setIsland_walkRr (s : State) (i : Nat) (v : Island) : (s.setIsland i v).walkRr = s.walkRr := rfl
@[simp] theorem State.setIsland_walks (s : State) (i : Nat) (v : Island) : (s.setIsland i v).walks = s.walks := rfl
@[simp] theorem State.setIsland_walkFaults (s : State) (i : Nat) (v : Island) : (s.setIsland i v).walkFaults = s.walkFaults := rfl
@[simp] theorem State.setIsland_pends (s : State) (i : Nat) (v : Island) : (s.setIsland i v).pends = s.pends := rfl
@[simp] theorem State.setIsland_groups (s : State) (i : Nat) (v : Island) : (s.setIsland i v).groups = s.groups := rfl
@[simp] theorem State.setIsland_net (s : State) (i : Nat) (v : Island) : (s.setIsland i v).net = s.net := rfl
@[simp] theorem State.setIsland_slices (s : State) (i : Nat) (v : Island) : (s.setIsland i v).slices = s.slices := rfl
@[simp] theorem State.setIsland_dieRegs (s : State) (i : Nat) (v : Island) : (s.setIsland i v).dieRegs = s.dieRegs := rfl
@[simp] theorem State.setIsland_clusters (s : State) (i : Nat) (v : Island) : (s.setIsland i v).clusters = s.clusters := rfl
@[simp] theorem State.setIsland_cores (s : State) (i : Nat) (v : Island) : (s.setIsland i v).cores = s.cores := rfl
@[simp] theorem State.setIsland_engines (s : State) (i : Nat) (v : Island) : (s.setIsland i v).engines = s.engines := rfl
@[simp] theorem State.setIsland_drays (s : State) (i : Nat) (v : Island) : (s.setIsland i v).drays = s.drays := rfl
@[simp] theorem State.setIsland_xfers (s : State) (i : Nat) (v : Island) : (s.setIsland i v).xfers = s.xfers := rfl
@[simp] theorem State.setIsland_queues (s : State) (i : Nat) (v : Island) : (s.setIsland i v).queues = s.queues := rfl
@[simp] theorem State.setIsland_launches (s : State) (i : Nat) (v : Island) : (s.setIsland i v).launches = s.launches := rfl
@[simp] theorem State.setIsland_queueRr (s : State) (i : Nat) (v : Island) : (s.setIsland i v).queueRr = s.queueRr := rfl
@[simp] theorem State.setIsland_islands (s : State) (i : Nat) (v : Island) : (s.setIsland i v).islands = Tbl.set Island.reset s.islands i v := rfl
@[simp] theorem State.setIsland_port (s : State) (i : Nat) (v : Island) : (s.setIsland i v).port = s.port := rfl
@[simp] theorem State.setIsland_mgmt (s : State) (i : Nat) (v : Island) : (s.setIsland i v).mgmt = s.mgmt := rfl

/-! ## `State.setL1` -/

@[simp] theorem State.setL1_cur (s : State) (u : Nat) (ls : List L1Line) : (s.setL1 u ls).cur = s.cur := rfl
@[simp] theorem State.setL1_agenda (s : State) (u : Nat) (ls : List L1Line) : (s.setL1 u ls).agenda = s.agenda := rfl
@[simp] theorem State.setL1_clk (s : State) (u : Nat) (ls : List L1Line) : (s.setL1 u ls).clk = s.clk := rfl
@[simp] theorem State.setL1_fresh (s : State) (u : Nat) (ls : List L1Line) : (s.setL1 u ls).fresh = s.fresh := rfl
@[simp] theorem State.setL1_nextId (s : State) (u : Nat) (ls : List L1Line) : (s.setL1 u ls).nextId = s.nextId := rfl
@[simp] theorem State.setL1_dies (s : State) (u : Nat) (ls : List L1Line) : (s.setL1 u ls).dies = s.dies := rfl
@[simp] theorem State.setL1_idCount (s : State) (u : Nat) (ls : List L1Line) : (s.setL1 u ls).idCount = s.idCount := rfl
@[simp] theorem State.setL1_launchNo (s : State) (u : Nat) (ls : List L1Line) : (s.setL1 u ls).launchNo = s.launchNo := rfl
@[simp] theorem State.setL1_mem (s : State) (u : Nat) (ls : List L1Line) : (s.setL1 u ls).mem = s.mem := rfl
@[simp] theorem State.setL1_memPoison (s : State) (u : Nat) (ls : List L1Line) : (s.setL1 u ls).memPoison = s.memPoison := rfl
@[simp] theorem State.setL1_fullBits (s : State) (u : Nat) (ls : List L1Line) : (s.setL1 u ls).fullBits = s.fullBits := rfl
@[simp] theorem State.setL1_marks (s : State) (u : Nat) (ls : List L1Line) : (s.setL1 u ls).marks = s.marks := rfl
@[simp] theorem State.setL1_ctxs (s : State) (u : Nat) (ls : List L1Line) : (s.setL1 u ls).ctxs = s.ctxs := rfl
@[simp] theorem State.setL1_saved (s : State) (u : Nat) (ls : List L1Line) : (s.setL1 u ls).saved = s.saved := rfl
@[simp] theorem State.setL1_trapCsrs (s : State) (u : Nat) (ls : List L1Line) : (s.setL1 u ls).trapCsrs = s.trapCsrs := rfl
@[simp] theorem State.setL1_areaWait (s : State) (u : Nat) (ls : List L1Line) : (s.setL1 u ls).areaWait = s.areaWait := rfl
@[simp] theorem State.setL1_l1d (s : State) (u : Nat) (ls : List L1Line) : (s.setL1 u ls).l1d = Tbl.set [] s.l1d u ls := rfl
@[simp] theorem State.setL1_l1i (s : State) (u : Nat) (ls : List L1Line) : (s.setL1 u ls).l1i = s.l1i := rfl
@[simp] theorem State.setL1_tags (s : State) (u : Nat) (ls : List L1Line) : (s.setL1 u ls).tags = s.tags := rfl
@[simp] theorem State.setL1_storeQ (s : State) (u : Nat) (ls : List L1Line) : (s.setL1 u ls).storeQ = s.storeQ := rfl
@[simp] theorem State.setL1_tlbs (s : State) (u : Nat) (ls : List L1Line) : (s.setL1 u ls).tlbs = s.tlbs := rfl
@[simp] theorem State.setL1_walkCache (s : State) (u : Nat) (ls : List L1Line) : (s.setL1 u ls).walkCache = s.walkCache := rfl
@[simp] theorem State.setL1_walkQ (s : State) (u : Nat) (ls : List L1Line) : (s.setL1 u ls).walkQ = s.walkQ := rfl
@[simp] theorem State.setL1_walkRr (s : State) (u : Nat) (ls : List L1Line) : (s.setL1 u ls).walkRr = s.walkRr := rfl
@[simp] theorem State.setL1_walks (s : State) (u : Nat) (ls : List L1Line) : (s.setL1 u ls).walks = s.walks := rfl
@[simp] theorem State.setL1_walkFaults (s : State) (u : Nat) (ls : List L1Line) : (s.setL1 u ls).walkFaults = s.walkFaults := rfl
@[simp] theorem State.setL1_pends (s : State) (u : Nat) (ls : List L1Line) : (s.setL1 u ls).pends = s.pends := rfl
@[simp] theorem State.setL1_groups (s : State) (u : Nat) (ls : List L1Line) : (s.setL1 u ls).groups = s.groups := rfl
@[simp] theorem State.setL1_net (s : State) (u : Nat) (ls : List L1Line) : (s.setL1 u ls).net = s.net := rfl
@[simp] theorem State.setL1_slices (s : State) (u : Nat) (ls : List L1Line) : (s.setL1 u ls).slices = s.slices := rfl
@[simp] theorem State.setL1_dieRegs (s : State) (u : Nat) (ls : List L1Line) : (s.setL1 u ls).dieRegs = s.dieRegs := rfl
@[simp] theorem State.setL1_clusters (s : State) (u : Nat) (ls : List L1Line) : (s.setL1 u ls).clusters = s.clusters := rfl
@[simp] theorem State.setL1_cores (s : State) (u : Nat) (ls : List L1Line) : (s.setL1 u ls).cores = s.cores := rfl
@[simp] theorem State.setL1_engines (s : State) (u : Nat) (ls : List L1Line) : (s.setL1 u ls).engines = s.engines := rfl
@[simp] theorem State.setL1_drays (s : State) (u : Nat) (ls : List L1Line) : (s.setL1 u ls).drays = s.drays := rfl
@[simp] theorem State.setL1_xfers (s : State) (u : Nat) (ls : List L1Line) : (s.setL1 u ls).xfers = s.xfers := rfl
@[simp] theorem State.setL1_queues (s : State) (u : Nat) (ls : List L1Line) : (s.setL1 u ls).queues = s.queues := rfl
@[simp] theorem State.setL1_launches (s : State) (u : Nat) (ls : List L1Line) : (s.setL1 u ls).launches = s.launches := rfl
@[simp] theorem State.setL1_queueRr (s : State) (u : Nat) (ls : List L1Line) : (s.setL1 u ls).queueRr = s.queueRr := rfl
@[simp] theorem State.setL1_islands (s : State) (u : Nat) (ls : List L1Line) : (s.setL1 u ls).islands = s.islands := rfl
@[simp] theorem State.setL1_port (s : State) (u : Nat) (ls : List L1Line) : (s.setL1 u ls).port = s.port := rfl
@[simp] theorem State.setL1_mgmt (s : State) (u : Nat) (ls : List L1Line) : (s.setL1 u ls).mgmt = s.mgmt := rfl

/-! ## `State.setTags` -/

@[simp] theorem State.setTags_cur (s : State) (u : Nat) (t : List TagEnt) : (s.setTags u t).cur = s.cur := rfl
@[simp] theorem State.setTags_agenda (s : State) (u : Nat) (t : List TagEnt) : (s.setTags u t).agenda = s.agenda := rfl
@[simp] theorem State.setTags_clk (s : State) (u : Nat) (t : List TagEnt) : (s.setTags u t).clk = s.clk := rfl
@[simp] theorem State.setTags_fresh (s : State) (u : Nat) (t : List TagEnt) : (s.setTags u t).fresh = s.fresh := rfl
@[simp] theorem State.setTags_nextId (s : State) (u : Nat) (t : List TagEnt) : (s.setTags u t).nextId = s.nextId := rfl
@[simp] theorem State.setTags_dies (s : State) (u : Nat) (t : List TagEnt) : (s.setTags u t).dies = s.dies := rfl
@[simp] theorem State.setTags_idCount (s : State) (u : Nat) (t : List TagEnt) : (s.setTags u t).idCount = s.idCount := rfl
@[simp] theorem State.setTags_launchNo (s : State) (u : Nat) (t : List TagEnt) : (s.setTags u t).launchNo = s.launchNo := rfl
@[simp] theorem State.setTags_mem (s : State) (u : Nat) (t : List TagEnt) : (s.setTags u t).mem = s.mem := rfl
@[simp] theorem State.setTags_memPoison (s : State) (u : Nat) (t : List TagEnt) : (s.setTags u t).memPoison = s.memPoison := rfl
@[simp] theorem State.setTags_fullBits (s : State) (u : Nat) (t : List TagEnt) : (s.setTags u t).fullBits = s.fullBits := rfl
@[simp] theorem State.setTags_marks (s : State) (u : Nat) (t : List TagEnt) : (s.setTags u t).marks = s.marks := rfl
@[simp] theorem State.setTags_ctxs (s : State) (u : Nat) (t : List TagEnt) : (s.setTags u t).ctxs = s.ctxs := rfl
@[simp] theorem State.setTags_saved (s : State) (u : Nat) (t : List TagEnt) : (s.setTags u t).saved = s.saved := rfl
@[simp] theorem State.setTags_trapCsrs (s : State) (u : Nat) (t : List TagEnt) : (s.setTags u t).trapCsrs = s.trapCsrs := rfl
@[simp] theorem State.setTags_areaWait (s : State) (u : Nat) (t : List TagEnt) : (s.setTags u t).areaWait = s.areaWait := rfl
@[simp] theorem State.setTags_l1d (s : State) (u : Nat) (t : List TagEnt) : (s.setTags u t).l1d = s.l1d := rfl
@[simp] theorem State.setTags_l1i (s : State) (u : Nat) (t : List TagEnt) : (s.setTags u t).l1i = s.l1i := rfl
@[simp] theorem State.setTags_tags (s : State) (u : Nat) (t : List TagEnt) : (s.setTags u t).tags = Tbl.set [] s.tags u t := rfl
@[simp] theorem State.setTags_storeQ (s : State) (u : Nat) (t : List TagEnt) : (s.setTags u t).storeQ = s.storeQ := rfl
@[simp] theorem State.setTags_tlbs (s : State) (u : Nat) (t : List TagEnt) : (s.setTags u t).tlbs = s.tlbs := rfl
@[simp] theorem State.setTags_walkCache (s : State) (u : Nat) (t : List TagEnt) : (s.setTags u t).walkCache = s.walkCache := rfl
@[simp] theorem State.setTags_walkQ (s : State) (u : Nat) (t : List TagEnt) : (s.setTags u t).walkQ = s.walkQ := rfl
@[simp] theorem State.setTags_walkRr (s : State) (u : Nat) (t : List TagEnt) : (s.setTags u t).walkRr = s.walkRr := rfl
@[simp] theorem State.setTags_walks (s : State) (u : Nat) (t : List TagEnt) : (s.setTags u t).walks = s.walks := rfl
@[simp] theorem State.setTags_walkFaults (s : State) (u : Nat) (t : List TagEnt) : (s.setTags u t).walkFaults = s.walkFaults := rfl
@[simp] theorem State.setTags_pends (s : State) (u : Nat) (t : List TagEnt) : (s.setTags u t).pends = s.pends := rfl
@[simp] theorem State.setTags_groups (s : State) (u : Nat) (t : List TagEnt) : (s.setTags u t).groups = s.groups := rfl
@[simp] theorem State.setTags_net (s : State) (u : Nat) (t : List TagEnt) : (s.setTags u t).net = s.net := rfl
@[simp] theorem State.setTags_slices (s : State) (u : Nat) (t : List TagEnt) : (s.setTags u t).slices = s.slices := rfl
@[simp] theorem State.setTags_dieRegs (s : State) (u : Nat) (t : List TagEnt) : (s.setTags u t).dieRegs = s.dieRegs := rfl
@[simp] theorem State.setTags_clusters (s : State) (u : Nat) (t : List TagEnt) : (s.setTags u t).clusters = s.clusters := rfl
@[simp] theorem State.setTags_cores (s : State) (u : Nat) (t : List TagEnt) : (s.setTags u t).cores = s.cores := rfl
@[simp] theorem State.setTags_engines (s : State) (u : Nat) (t : List TagEnt) : (s.setTags u t).engines = s.engines := rfl
@[simp] theorem State.setTags_drays (s : State) (u : Nat) (t : List TagEnt) : (s.setTags u t).drays = s.drays := rfl
@[simp] theorem State.setTags_xfers (s : State) (u : Nat) (t : List TagEnt) : (s.setTags u t).xfers = s.xfers := rfl
@[simp] theorem State.setTags_queues (s : State) (u : Nat) (t : List TagEnt) : (s.setTags u t).queues = s.queues := rfl
@[simp] theorem State.setTags_launches (s : State) (u : Nat) (t : List TagEnt) : (s.setTags u t).launches = s.launches := rfl
@[simp] theorem State.setTags_queueRr (s : State) (u : Nat) (t : List TagEnt) : (s.setTags u t).queueRr = s.queueRr := rfl
@[simp] theorem State.setTags_islands (s : State) (u : Nat) (t : List TagEnt) : (s.setTags u t).islands = s.islands := rfl
@[simp] theorem State.setTags_port (s : State) (u : Nat) (t : List TagEnt) : (s.setTags u t).port = s.port := rfl
@[simp] theorem State.setTags_mgmt (s : State) (u : Nat) (t : List TagEnt) : (s.setTags u t).mgmt = s.mgmt := rfl

/-! ## `State.modCtx` -/

@[simp] theorem State.modCtx_cur (s : State) (k : Nat) (f : Ctx → Ctx) : (s.modCtx k f).cur = s.cur := rfl
@[simp] theorem State.modCtx_agenda (s : State) (k : Nat) (f : Ctx → Ctx) : (s.modCtx k f).agenda = s.agenda := rfl
@[simp] theorem State.modCtx_clk (s : State) (k : Nat) (f : Ctx → Ctx) : (s.modCtx k f).clk = s.clk := rfl
@[simp] theorem State.modCtx_fresh (s : State) (k : Nat) (f : Ctx → Ctx) : (s.modCtx k f).fresh = s.fresh := rfl
@[simp] theorem State.modCtx_nextId (s : State) (k : Nat) (f : Ctx → Ctx) : (s.modCtx k f).nextId = s.nextId := rfl
@[simp] theorem State.modCtx_dies (s : State) (k : Nat) (f : Ctx → Ctx) : (s.modCtx k f).dies = s.dies := rfl
@[simp] theorem State.modCtx_idCount (s : State) (k : Nat) (f : Ctx → Ctx) : (s.modCtx k f).idCount = s.idCount := rfl
@[simp] theorem State.modCtx_launchNo (s : State) (k : Nat) (f : Ctx → Ctx) : (s.modCtx k f).launchNo = s.launchNo := rfl
@[simp] theorem State.modCtx_mem (s : State) (k : Nat) (f : Ctx → Ctx) : (s.modCtx k f).mem = s.mem := rfl
@[simp] theorem State.modCtx_memPoison (s : State) (k : Nat) (f : Ctx → Ctx) : (s.modCtx k f).memPoison = s.memPoison := rfl
@[simp] theorem State.modCtx_fullBits (s : State) (k : Nat) (f : Ctx → Ctx) : (s.modCtx k f).fullBits = s.fullBits := rfl
@[simp] theorem State.modCtx_marks (s : State) (k : Nat) (f : Ctx → Ctx) : (s.modCtx k f).marks = s.marks := rfl
@[simp] theorem State.modCtx_ctxs (s : State) (k : Nat) (f : Ctx → Ctx) : (s.modCtx k f).ctxs = Tbl.set Ctx.vacant s.ctxs k (f (s.ctx k)) := rfl
@[simp] theorem State.modCtx_saved (s : State) (k : Nat) (f : Ctx → Ctx) : (s.modCtx k f).saved = s.saved := rfl
@[simp] theorem State.modCtx_trapCsrs (s : State) (k : Nat) (f : Ctx → Ctx) : (s.modCtx k f).trapCsrs = s.trapCsrs := rfl
@[simp] theorem State.modCtx_areaWait (s : State) (k : Nat) (f : Ctx → Ctx) : (s.modCtx k f).areaWait = s.areaWait := rfl
@[simp] theorem State.modCtx_l1d (s : State) (k : Nat) (f : Ctx → Ctx) : (s.modCtx k f).l1d = s.l1d := rfl
@[simp] theorem State.modCtx_l1i (s : State) (k : Nat) (f : Ctx → Ctx) : (s.modCtx k f).l1i = s.l1i := rfl
@[simp] theorem State.modCtx_tags (s : State) (k : Nat) (f : Ctx → Ctx) : (s.modCtx k f).tags = s.tags := rfl
@[simp] theorem State.modCtx_storeQ (s : State) (k : Nat) (f : Ctx → Ctx) : (s.modCtx k f).storeQ = s.storeQ := rfl
@[simp] theorem State.modCtx_tlbs (s : State) (k : Nat) (f : Ctx → Ctx) : (s.modCtx k f).tlbs = s.tlbs := rfl
@[simp] theorem State.modCtx_walkCache (s : State) (k : Nat) (f : Ctx → Ctx) : (s.modCtx k f).walkCache = s.walkCache := rfl
@[simp] theorem State.modCtx_walkQ (s : State) (k : Nat) (f : Ctx → Ctx) : (s.modCtx k f).walkQ = s.walkQ := rfl
@[simp] theorem State.modCtx_walkRr (s : State) (k : Nat) (f : Ctx → Ctx) : (s.modCtx k f).walkRr = s.walkRr := rfl
@[simp] theorem State.modCtx_walks (s : State) (k : Nat) (f : Ctx → Ctx) : (s.modCtx k f).walks = s.walks := rfl
@[simp] theorem State.modCtx_walkFaults (s : State) (k : Nat) (f : Ctx → Ctx) : (s.modCtx k f).walkFaults = s.walkFaults := rfl
@[simp] theorem State.modCtx_pends (s : State) (k : Nat) (f : Ctx → Ctx) : (s.modCtx k f).pends = s.pends := rfl
@[simp] theorem State.modCtx_groups (s : State) (k : Nat) (f : Ctx → Ctx) : (s.modCtx k f).groups = s.groups := rfl
@[simp] theorem State.modCtx_net (s : State) (k : Nat) (f : Ctx → Ctx) : (s.modCtx k f).net = s.net := rfl
@[simp] theorem State.modCtx_slices (s : State) (k : Nat) (f : Ctx → Ctx) : (s.modCtx k f).slices = s.slices := rfl
@[simp] theorem State.modCtx_dieRegs (s : State) (k : Nat) (f : Ctx → Ctx) : (s.modCtx k f).dieRegs = s.dieRegs := rfl
@[simp] theorem State.modCtx_clusters (s : State) (k : Nat) (f : Ctx → Ctx) : (s.modCtx k f).clusters = s.clusters := rfl
@[simp] theorem State.modCtx_cores (s : State) (k : Nat) (f : Ctx → Ctx) : (s.modCtx k f).cores = s.cores := rfl
@[simp] theorem State.modCtx_engines (s : State) (k : Nat) (f : Ctx → Ctx) : (s.modCtx k f).engines = s.engines := rfl
@[simp] theorem State.modCtx_drays (s : State) (k : Nat) (f : Ctx → Ctx) : (s.modCtx k f).drays = s.drays := rfl
@[simp] theorem State.modCtx_xfers (s : State) (k : Nat) (f : Ctx → Ctx) : (s.modCtx k f).xfers = s.xfers := rfl
@[simp] theorem State.modCtx_queues (s : State) (k : Nat) (f : Ctx → Ctx) : (s.modCtx k f).queues = s.queues := rfl
@[simp] theorem State.modCtx_launches (s : State) (k : Nat) (f : Ctx → Ctx) : (s.modCtx k f).launches = s.launches := rfl
@[simp] theorem State.modCtx_queueRr (s : State) (k : Nat) (f : Ctx → Ctx) : (s.modCtx k f).queueRr = s.queueRr := rfl
@[simp] theorem State.modCtx_islands (s : State) (k : Nat) (f : Ctx → Ctx) : (s.modCtx k f).islands = s.islands := rfl
@[simp] theorem State.modCtx_port (s : State) (k : Nat) (f : Ctx → Ctx) : (s.modCtx k f).port = s.port := rfl
@[simp] theorem State.modCtx_mgmt (s : State) (k : Nat) (f : Ctx → Ctx) : (s.modCtx k f).mgmt = s.mgmt := rfl

/-! ## `State.retire` -/

@[simp] theorem State.retire_cur (s : State) (k : Nat) (ls : List Nat) : (s.retire k ls).cur = s.cur := rfl
@[simp] theorem State.retire_agenda (s : State) (k : Nat) (ls : List Nat) : (s.retire k ls).agenda = s.agenda := rfl
@[simp] theorem State.retire_clk (s : State) (k : Nat) (ls : List Nat) : (s.retire k ls).clk = s.clk := rfl
@[simp] theorem State.retire_fresh (s : State) (k : Nat) (ls : List Nat) : (s.retire k ls).fresh = s.fresh := rfl
@[simp] theorem State.retire_nextId (s : State) (k : Nat) (ls : List Nat) : (s.retire k ls).nextId = s.nextId := rfl
@[simp] theorem State.retire_dies (s : State) (k : Nat) (ls : List Nat) : (s.retire k ls).dies = s.dies := rfl
@[simp] theorem State.retire_idCount (s : State) (k : Nat) (ls : List Nat) : (s.retire k ls).idCount = s.idCount := rfl
@[simp] theorem State.retire_launchNo (s : State) (k : Nat) (ls : List Nat) : (s.retire k ls).launchNo = s.launchNo := rfl
@[simp] theorem State.retire_mem (s : State) (k : Nat) (ls : List Nat) : (s.retire k ls).mem = s.mem := rfl
@[simp] theorem State.retire_memPoison (s : State) (k : Nat) (ls : List Nat) : (s.retire k ls).memPoison = s.memPoison := rfl
@[simp] theorem State.retire_fullBits (s : State) (k : Nat) (ls : List Nat) : (s.retire k ls).fullBits = s.fullBits := rfl
@[simp] theorem State.retire_marks (s : State) (k : Nat) (ls : List Nat) : (s.retire k ls).marks = s.marks := rfl
@[simp] theorem State.retire_ctxs (s : State) (k : Nat) (ls : List Nat) : (s.retire k ls).ctxs = Tbl.set Ctx.vacant s.ctxs k ((s.ctx k).retire ls) := rfl
@[simp] theorem State.retire_saved (s : State) (k : Nat) (ls : List Nat) : (s.retire k ls).saved = s.saved := rfl
@[simp] theorem State.retire_trapCsrs (s : State) (k : Nat) (ls : List Nat) : (s.retire k ls).trapCsrs = s.trapCsrs := rfl
@[simp] theorem State.retire_areaWait (s : State) (k : Nat) (ls : List Nat) : (s.retire k ls).areaWait = s.areaWait := rfl
@[simp] theorem State.retire_l1d (s : State) (k : Nat) (ls : List Nat) : (s.retire k ls).l1d = s.l1d := rfl
@[simp] theorem State.retire_l1i (s : State) (k : Nat) (ls : List Nat) : (s.retire k ls).l1i = s.l1i := rfl
@[simp] theorem State.retire_tags (s : State) (k : Nat) (ls : List Nat) : (s.retire k ls).tags = s.tags := rfl
@[simp] theorem State.retire_storeQ (s : State) (k : Nat) (ls : List Nat) : (s.retire k ls).storeQ = s.storeQ := rfl
@[simp] theorem State.retire_tlbs (s : State) (k : Nat) (ls : List Nat) : (s.retire k ls).tlbs = s.tlbs := rfl
@[simp] theorem State.retire_walkCache (s : State) (k : Nat) (ls : List Nat) : (s.retire k ls).walkCache = s.walkCache := rfl
@[simp] theorem State.retire_walkQ (s : State) (k : Nat) (ls : List Nat) : (s.retire k ls).walkQ = s.walkQ := rfl
@[simp] theorem State.retire_walkRr (s : State) (k : Nat) (ls : List Nat) : (s.retire k ls).walkRr = s.walkRr := rfl
@[simp] theorem State.retire_walks (s : State) (k : Nat) (ls : List Nat) : (s.retire k ls).walks = s.walks := rfl
@[simp] theorem State.retire_walkFaults (s : State) (k : Nat) (ls : List Nat) : (s.retire k ls).walkFaults = s.walkFaults := rfl
@[simp] theorem State.retire_pends (s : State) (k : Nat) (ls : List Nat) : (s.retire k ls).pends = s.pends := rfl
@[simp] theorem State.retire_groups (s : State) (k : Nat) (ls : List Nat) : (s.retire k ls).groups = s.groups := rfl
@[simp] theorem State.retire_net (s : State) (k : Nat) (ls : List Nat) : (s.retire k ls).net = s.net := rfl
@[simp] theorem State.retire_slices (s : State) (k : Nat) (ls : List Nat) : (s.retire k ls).slices = s.slices := rfl
@[simp] theorem State.retire_dieRegs (s : State) (k : Nat) (ls : List Nat) : (s.retire k ls).dieRegs = s.dieRegs := rfl
@[simp] theorem State.retire_clusters (s : State) (k : Nat) (ls : List Nat) : (s.retire k ls).clusters = s.clusters := rfl
@[simp] theorem State.retire_cores (s : State) (k : Nat) (ls : List Nat) : (s.retire k ls).cores = s.cores := rfl
@[simp] theorem State.retire_engines (s : State) (k : Nat) (ls : List Nat) : (s.retire k ls).engines = s.engines := rfl
@[simp] theorem State.retire_drays (s : State) (k : Nat) (ls : List Nat) : (s.retire k ls).drays = s.drays := rfl
@[simp] theorem State.retire_xfers (s : State) (k : Nat) (ls : List Nat) : (s.retire k ls).xfers = s.xfers := rfl
@[simp] theorem State.retire_queues (s : State) (k : Nat) (ls : List Nat) : (s.retire k ls).queues = s.queues := rfl
@[simp] theorem State.retire_launches (s : State) (k : Nat) (ls : List Nat) : (s.retire k ls).launches = s.launches := rfl
@[simp] theorem State.retire_queueRr (s : State) (k : Nat) (ls : List Nat) : (s.retire k ls).queueRr = s.queueRr := rfl
@[simp] theorem State.retire_islands (s : State) (k : Nat) (ls : List Nat) : (s.retire k ls).islands = s.islands := rfl
@[simp] theorem State.retire_port (s : State) (k : Nat) (ls : List Nat) : (s.retire k ls).port = s.port := rfl
@[simp] theorem State.retire_mgmt (s : State) (k : Nat) (ls : List Nat) : (s.retire k ls).mgmt = s.mgmt := rfl

/-! ## Lanes of a context -/

@[simp] theorem Ctx.setLane_status (c : Ctx) (l : Nat) (v : Lane) : (c.setLane l v).status = c.status := rfl
@[simp] theorem Ctx.setLane_uid (c : Ctx) (l : Nat) (v : Lane) : (c.setLane l v).uid = c.uid := rfl
@[simp] theorem Ctx.setLane_lanes (c : Ctx) (l : Nat) (v : Lane) : (c.setLane l v).lanes = Tbl.set Lane.idle c.lanes l v := rfl
@[simp] theorem Ctx.setLane_w (c : Ctx) (l : Nat) (v : Lane) : (c.setLane l v).w = c.w := rfl
@[simp] theorem Ctx.setLane_mode (c : Ctx) (l : Nat) (v : Lane) : (c.setLane l v).mode = c.mode := rfl
@[simp] theorem Ctx.setLane_csr (c : Ctx) (l : Nat) (v : Lane) : (c.setLane l v).csr = c.csr := rfl
@[simp] theorem Ctx.setLane_cnt (c : Ctx) (l : Nat) (v : Lane) : (c.setLane l v).cnt = c.cnt := rfl
@[simp] theorem Ctx.setLane_copy (c : Ctx) (l : Nat) (v : Lane) : (c.setLane l v).copy = c.copy := rfl
@[simp] theorem Ctx.setLane_cpSel (c : Ctx) (l : Nat) (v : Lane) : (c.setLane l v).cpSel = c.cpSel := rfl
@[simp] theorem Ctx.setLane_nextXid (c : Ctx) (l : Nat) (v : Lane) : (c.setLane l v).nextXid = c.nextXid := rfl
@[simp] theorem Ctx.setLane_recent (c : Ctx) (l : Nat) (v : Lane) : (c.setLane l v).recent = c.recent := rfl
@[simp] theorem Ctx.setLane_chans (c : Ctx) (l : Nat) (v : Lane) : (c.setLane l v).chans = c.chans := rfl
@[simp] theorem Ctx.setLane_lease (c : Ctx) (l : Nat) (v : Lane) : (c.setLane l v).lease = c.lease := rfl
@[simp] theorem Ctx.setLane_lrc (c : Ctx) (l : Nat) (v : Lane) : (c.setLane l v).lrc = c.lrc := rfl
@[simp] theorem Ctx.setLane_seq (c : Ctx) (l : Nat) (v : Lane) : (c.setLane l v).seq = c.seq := rfl
@[simp] theorem Ctx.setLane_unanswered (c : Ctx) (l : Nat) (v : Lane) : (c.setLane l v).unanswered = c.unanswered := rfl
@[simp] theorem Ctx.setLane_tagAt (c : Ctx) (l : Nat) (v : Lane) : (c.setLane l v).tagAt = c.tagAt := rfl
@[simp] theorem Ctx.setLane_ctxid (c : Ctx) (l : Nat) (v : Lane) : (c.setLane l v).ctxid = c.ctxid := rfl
@[simp] theorem Ctx.setLane_launch (c : Ctx) (l : Nat) (v : Lane) : (c.setLane l v).launch = c.launch := rfl
@[simp] theorem Ctx.setLane_launchNo (c : Ctx) (l : Nat) (v : Lane) : (c.setLane l v).launchNo = c.launchNo := rfl
@[simp] theorem Ctx.setLane_rank (c : Ctx) (l : Nat) (v : Lane) : (c.setLane l v).rank = c.rank := rfl
@[simp] theorem Ctx.setLane_light (c : Ctx) (l : Nat) (v : Lane) : (c.setLane l v).light = c.light := rfl
@[simp] theorem Ctx.setLane_crew (c : Ctx) (l : Nat) (v : Lane) : (c.setLane l v).crew = c.crew := rfl
@[simp] theorem Ctx.setLane_waveIdx (c : Ctx) (l : Nat) (v : Lane) : (c.setLane l v).waveIdx = c.waveIdx := rfl
@[simp] theorem Ctx.setLane_waves (c : Ctx) (l : Nat) (v : Lane) : (c.setLane l v).waves = c.waves := rfl
@[simp] theorem Ctx.setLane_prio (c : Ctx) (l : Nat) (v : Lane) : (c.setLane l v).prio = c.prio := rfl
@[simp] theorem Ctx.setLane_ganged (c : Ctx) (l : Nat) (v : Lane) : (c.setLane l v).ganged = c.ganged := rfl
@[simp] theorem Ctx.setLane_half (c : Ctx) (l : Nat) (v : Lane) : (c.setLane l v).half = c.half := rfl
@[simp] theorem Ctx.setLane_gath (c : Ctx) (l : Nat) (v : Lane) : (c.setLane l v).gath = c.gath := rfl
@[simp] theorem Ctx.setLane_allocBase (c : Ctx) (l : Nat) (v : Lane) : (c.setLane l v).allocBase = c.allocBase := rfl
@[simp] theorem Ctx.setLane_allocSize (c : Ctx) (l : Nat) (v : Lane) : (c.setLane l v).allocSize = c.allocSize := rfl
@[simp] theorem Ctx.setLane_task (c : Ctx) (l : Nat) (v : Lane) : (c.setLane l v).task = c.task := rfl
@[simp] theorem Ctx.setLane_aborted (c : Ctx) (l : Nat) (v : Lane) : (c.setLane l v).aborted = c.aborted := rfl
@[simp] theorem Ctx.setLane_inUser (c : Ctx) (l : Nat) (v : Lane) : (c.setLane l v).inUser = c.inUser := rfl
@[simp] theorem Ctx.setLane_uPend (c : Ctx) (l : Nat) (v : Lane) : (c.setLane l v).uPend = c.uPend := rfl
@[simp] theorem Ctx.setLane_faultQ (c : Ctx) (l : Nat) (v : Lane) : (c.setLane l v).faultQ = c.faultQ := rfl
@[simp] theorem Ctx.setLane_faultNext (c : Ctx) (l : Nat) (v : Lane) : (c.setLane l v).faultNext = c.faultNext := rfl
@[simp] theorem Ctx.setLane_faultLost (c : Ctx) (l : Nat) (v : Lane) : (c.setLane l v).faultLost = c.faultLost := rfl
@[simp] theorem Ctx.setLane_pendDw (c : Ctx) (l : Nat) (v : Lane) : (c.setLane l v).pendDw = c.pendDw := rfl
@[simp] theorem Ctx.setLane_pendPx (c : Ctx) (l : Nat) (v : Lane) : (c.setLane l v).pendPx = c.pendPx := rfl
@[simp] theorem Ctx.setLane_spin (c : Ctx) (l : Nat) (v : Lane) : (c.setLane l v).spin = c.spin := rfl
@[simp] theorem Ctx.setLane_demoted (c : Ctx) (l : Nat) (v : Lane) : (c.setLane l v).demoted = c.demoted := rfl
@[simp] theorem Ctx.setLane_yieldTil (c : Ctx) (l : Nat) (v : Lane) : (c.setLane l v).yieldTil = c.yieldTil := rfl
@[simp] theorem Ctx.setLane_dog (c : Ctx) (l : Nat) (v : Lane) : (c.setLane l v).dog = c.dog := rfl
@[simp] theorem Ctx.setLane_preempt (c : Ctx) (l : Nat) (v : Lane) : (c.setLane l v).preempt = c.preempt := rfl
@[simp] theorem Ctx.setLane_preTaken (c : Ctx) (l : Nat) (v : Lane) : (c.setLane l v).preTaken = c.preTaken := rfl
@[simp] theorem Ctx.setLane_wfi (c : Ctx) (l : Nat) (v : Lane) : (c.setLane l v).wfi = c.wfi := rfl
@[simp] theorem Ctx.setLane_mcPend (c : Ctx) (l : Nat) (v : Lane) : (c.setLane l v).mcPend = c.mcPend := rfl
@[simp] theorem Ctx.setLane_mcBusy (c : Ctx) (l : Nat) (v : Lane) : (c.setLane l v).mcBusy = c.mcBusy := rfl
@[simp] theorem Ctx.setLane_mcTwice (c : Ctx) (l : Nat) (v : Lane) : (c.setLane l v).mcTwice = c.mcTwice := rfl
@[simp] theorem Ctx.setLane_absent (c : Ctx) (l : Nat) (v : Lane) : (c.setLane l v).absent = c.absent := rfl
@[simp] theorem Ctx.setLane_area (c : Ctx) (l : Nat) (v : Lane) : (c.setLane l v).area = c.area := rfl
@[simp] theorem Ctx.setLane_tagUnit (c : Ctx) (l : Nat) (v : Lane) : (c.setLane l v).tagUnit = c.tagUnit := rfl
@[simp] theorem Ctx.setLane_tagEnt (c : Ctx) (l : Nat) (v : Lane) : (c.setLane l v).tagEnt = c.tagEnt := rfl
@[simp] theorem Ctx.setLane_flushWait (c : Ctx) (l : Nat) (v : Lane) : (c.setLane l v).flushWait = c.flushWait := rfl
@[simp] theorem Ctx.setLane_crossed (c : Ctx) (l : Nat) (v : Lane) : (c.setLane l v).crossed = c.crossed := rfl
@[simp] theorem Ctx.setLane_grouped (c : Ctx) (l : Nat) (v : Lane) : (c.setLane l v).grouped = c.grouped := rfl
@[simp] theorem Ctx.setLane_block (c : Ctx) (l : Nat) (v : Lane) : (c.setLane l v).block = c.block := rfl
@[simp] theorem Ctx.setLane_phase (c : Ctx) (l : Nat) (v : Lane) : (c.setLane l v).phase = c.phase := rfl
@[simp] theorem Ctx.setLane_depth (c : Ctx) (l : Nat) (v : Lane) : (c.setLane l v).depth = c.depth := rfl
@[simp] theorem Ctx.setLane_forced (c : Ctx) (l : Nat) (v : Lane) : (c.setLane l v).forced = c.forced := rfl
@[simp] theorem Ctx.setLane_look (c : Ctx) (l : Nat) (v : Lane) : (c.setLane l v).look = c.look := rfl
@[simp] theorem Ctx.setLane_walkFault (c : Ctx) (l : Nat) (v : Lane) : (c.setLane l v).walkFault = c.walkFault := rfl
@[simp] theorem Ctx.setLane_lookAt (c : Ctx) (l : Nat) (v : Lane) : (c.setLane l v).lookAt = c.lookAt := rfl
@[simp] theorem Ctx.setLane_remote (c : Ctx) (l : Nat) (v : Lane) : (c.setLane l v).remote = c.remote := rfl
@[simp] theorem Ctx.setLane_startAcq (c : Ctx) (l : Nat) (v : Lane) : (c.setLane l v).startAcq = c.startAcq := rfl
@[simp] theorem Ctx.setLane_ents (c : Ctx) (l : Nat) (v : Lane) : (c.setLane l v).ents = c.ents := rfl
@[simp] theorem Ctx.setLane_ready (c : Ctx) (l : Nat) (v : Lane) : (c.setLane l v).ready = c.ready := rfl
@[simp] theorem Ctx.setLane_since (c : Ctx) (l : Nat) (v : Lane) : (c.setLane l v).since = c.since := rfl
@[simp] theorem Ctx.setLane_parks (c : Ctx) (l : Nat) (v : Lane) : (c.setLane l v).parks = c.parks := rfl

end Sys2Proof.Machine
end

