-- ==== Sys2Proof/Laws/Memory.lean ====
section
/-! SUPPORT. The laws of sparse tables and of memory: the canonical form is kept by every operation, a read gives what was
written last, and a write leaves every other place alone. -/
namespace Sys2Proof

/-! ## Tables -/

variable {α : Type}

theorem Tbl.get_put_self (d : α) (t : Tbl α) (k : Nat) (v : α) : Tbl.get d (Tbl.put t k v) k = v := by
  induction t with
  | nil => simp [Tbl.put, Tbl.get]
  | cons e t ih =>
    obtain ⟨i, w⟩ := e
    simp only [Tbl.put]
    split_ifs with h1 h2
    · simp [Tbl.get]
    · simp [Tbl.get]
    · simp only [Tbl.get, if_neg h2, ih]

theorem Tbl.get_put_other (d : α) (t : Tbl α) {k j : Nat} (h : j ≠ k) (v : α) :
    Tbl.get d (Tbl.put t k v) j = Tbl.get d t j := by
  induction t with
  | nil => simp [Tbl.put, Tbl.get, Ne.symm h]
  | cons e t ih =>
    obtain ⟨i, w⟩ := e
    simp only [Tbl.put]
    split_ifs with h1 h2
    · simp only [Tbl.get, if_neg (Ne.symm h)]
    · subst h2
      simp only [Tbl.get, if_neg (Ne.symm h)]
    · simp only [Tbl.get, ih]

theorem Tbl.get_filter_self (d : α) (t : Tbl α) (k : Nat) : Tbl.get d (t.filter fun e => e.1 ≠ k) k = d := by
  induction t with
  | nil => rfl
  | cons e t ih =>
    obtain ⟨i, w⟩ := e
    by_cases h : i = k
    · rw [List.filter_cons_of_neg (by simpa using h)]
      exact ih
    · rw [List.filter_cons_of_pos (by simpa using h)]
      simp only [Tbl.get, if_neg h]
      exact ih

theorem Tbl.get_filter_other (d : α) (t : Tbl α) {k j : Nat} (h : j ≠ k) :
    Tbl.get d (t.filter fun e => e.1 ≠ k) j = Tbl.get d t j := by
  induction t with
  | nil => rfl
  | cons e t ih =>
    obtain ⟨i, w⟩ := e
    by_cases hi : i = k
    · rw [List.filter_cons_of_neg (by simpa using hi), ih]
      simp only [Tbl.get]
      rw [if_neg (by omega)]
    · rw [List.filter_cons_of_pos (by simpa using hi)]
      simp only [Tbl.get, ih]

variable [DecidableEq α]

/-- A read of the key that was set gives the value. -/
@[simp] theorem Tbl.get_set_self (d : α) (t : Tbl α) (k : Nat) (v : α) : Tbl.get d (Tbl.set d t k v) k = v := by
  unfold Tbl.set
  split_ifs with h
  · rw [Tbl.get_filter_self, h]
  · exact Tbl.get_put_self d t k v

/-- A read of any other key gives what it gave. -/
theorem Tbl.get_set_other (d : α) (t : Tbl α) {k j : Nat} (h : j ≠ k) (v : α) :
    Tbl.get d (Tbl.set d t k v) j = Tbl.get d t j := by
  unfold Tbl.set
  split_ifs with hv
  · exact Tbl.get_filter_other d t h
  · exact Tbl.get_put_other d t h v

omit [DecidableEq α] in
theorem Tbl.above_of_lt {t : Tbl α} {i k : Nat} (h : Tbl.above i t = true) (hk : k ≤ i) : Tbl.above k t = true := by
  simp only [Tbl.above, List.all_eq_true, decide_eq_true_eq] at *
  exact fun e he => lt_of_le_of_lt hk (h e he)

theorem Tbl.wf_cons {d : α} {i : Nat} {v : α} {t : Tbl α} :
    Tbl.wf d ((i, v) :: t) = true ↔ v ≠ d ∧ Tbl.above i t = true ∧ Tbl.wf d t = true := by
  simp [Tbl.wf, and_assoc]

omit [DecidableEq α] in
theorem Tbl.above_cons {i j : Nat} {w : α} {t : Tbl α} :
    Tbl.above i ((j, w) :: t) = true ↔ i < j ∧ Tbl.above i t = true := by
  simp only [Tbl.above, List.all_cons, Bool.and_eq_true, decide_eq_true_eq]

omit [DecidableEq α] in
theorem Tbl.above_put {t : Tbl α} {i k : Nat} {v : α} (h : Tbl.above i t = true) (hk : i < k) :
    Tbl.above i (Tbl.put t k v) = true := by
  induction t with
  | nil => exact Tbl.above_cons.mpr ⟨hk, rfl⟩
  | cons e t ih =>
    obtain ⟨j, w⟩ := e
    have hj := Tbl.above_cons.mp h
    simp only [Tbl.put]
    split_ifs
    · exact Tbl.above_cons.mpr ⟨hk, h⟩
    · exact Tbl.above_cons.mpr ⟨hk, hj.2⟩
    · exact Tbl.above_cons.mpr ⟨hj.1, ih hj.2⟩

omit [DecidableEq α] in
theorem Tbl.above_filter {t : Tbl α} {i : Nat} (p : Nat × α → Bool) (h : Tbl.above i t = true) :
    Tbl.above i (t.filter p) = true := by
  simp only [Tbl.above, List.all_eq_true, List.mem_filter] at *
  exact fun e he => h e he.1

/-- Dropping entries keeps the canonical form. -/
theorem Tbl.wf_filter {d : α} {t : Tbl α} (p : Nat × α → Bool) (h : Tbl.wf d t = true) : Tbl.wf d (t.filter p) = true := by
  induction t with
  | nil => rfl
  | cons e t ih =>
    obtain ⟨i, w⟩ := e
    obtain ⟨hw, ha, ht⟩ := Tbl.wf_cons.mp h
    simp only [List.filter_cons]
    split_ifs
    · exact Tbl.wf_cons.mpr ⟨hw, Tbl.above_filter p ha, ih ht⟩
    · exact ih ht

theorem Tbl.wf_put {d : α} {t : Tbl α} (h : Tbl.wf d t = true) (k : Nat) {v : α} (hv : v ≠ d) :
    Tbl.wf d (Tbl.put t k v) = true := by
  induction t with
  | nil => exact Tbl.wf_cons.mpr ⟨hv, rfl, rfl⟩
  | cons e t ih =>
    obtain ⟨i, w⟩ := e
    obtain ⟨hw, ha, ht⟩ := Tbl.wf_cons.mp h
    simp only [Tbl.put]
    split_ifs with h1 h2
    · exact Tbl.wf_cons.mpr ⟨hv, Tbl.above_cons.mpr ⟨h1, Tbl.above_of_lt ha (le_of_lt h1)⟩, h⟩
    · exact Tbl.wf_cons.mpr ⟨hv, h2 ▸ ha, ht⟩
    · exact Tbl.wf_cons.mpr ⟨hw, Tbl.above_put ha (by omega), ih ht⟩

/-- Setting an entry keeps the canonical form. -/
theorem Tbl.wf_set {d : α} {t : Tbl α} (h : Tbl.wf d t = true) (k : Nat) (v : α) : Tbl.wf d (Tbl.set d t k v) = true := by
  unfold Tbl.set
  split_ifs with hv
  · exact Tbl.wf_filter _ h
  · exact Tbl.wf_put h k hv

end Sys2Proof

namespace Sys2Proof.Machine

/-! ## Memory -/

theorem Memory.wf_write {m : List Host.Cell} (h : Memory.wf m = true) (a : Nat) (v : Byte) :
    Memory.wf (Memory.write m a v) = true := Tbl.wf_set h a v

@[simp] theorem Memory.read_write_self (m : List Host.Cell) (a : Nat) (v : Byte) :
    Memory.read (Memory.write m a v) a = v := Tbl.get_set_self 0 m a v

theorem Memory.read_write_other (m : List Host.Cell) {a b : Nat} (hb : b ≠ a) (v : Byte) :
    Memory.read (Memory.write m a v) b = Memory.read m b := Tbl.get_set_other 0 m hb v

theorem State.putByte_wf {s : State} (h : Memory.wf s.mem = true) (a : Nat) (v : Byte) (p : Bool) :
    Memory.wf (s.putByte a v p).mem = true := Memory.wf_write h a v

theorem State.clearBytes_wf {s : State} (h : Memory.wf s.mem = true) (a n : Nat) :
    Memory.wf (s.clearBytes a n).mem = true := Tbl.wf_filter _ h

theorem State.putValue_wf {s : State} (h : Memory.wf s.mem = true) (a n v : Nat) (p : Bool) :
    Memory.wf (s.putValue a n v p).mem = true := by
  induction n generalizing s a v with
  | zero => exact h
  | succ n ih => exact ih (State.putByte_wf h a _ p) (a + 1) (v / 256)

/-- What a byte reads as after a byte write. -/
@[simp] theorem State.byte_putByte_self (s : State) (a : Nat) (v : Byte) (p : Bool) : (s.putByte a v p).byte a = v :=
  Memory.read_write_self s.mem a v

theorem State.byte_putByte_other (s : State) {a b : Nat} (hb : b ≠ a) (v : Byte) (p : Bool) :
    (s.putByte a v p).byte b = s.byte b := Memory.read_write_other s.mem hb v

/-- A write of `n` bytes leaves every byte outside them alone. -/
theorem State.byte_putValue_other (s : State) {a b : Nat} (n v : Nat) (p : Bool) (hb : b < a ∨ a + n ≤ b) :
    (s.putValue a n v p).byte b = s.byte b := by
  induction n generalizing s a v with
  | zero => rfl
  | succ n ih =>
    simp only [State.putValue]
    rw [ih (s.putByte a (BitVec.ofNat 8 v) p) (v / 256) (by omega), State.byte_putByte_other s (by omega)]

/-- A read of bytes that a byte write does not touch gives what it gave. -/
theorem State.value_putByte_other (s : State) {a b : Nat} (v : Byte) (p : Bool) (n : Nat) (hb : a < b) :
    (s.putByte a v p).value b n = s.value b n := by
  induction n generalizing b with
  | zero => rfl
  | succ n ih =>
    simp only [State.value]
    rw [ih (by omega), State.byte_putByte_other s (by omega)]

/-- A value that was written reads back. -/
theorem State.value_putValue_self (s : State) (a n v : Nat) (p : Bool) : (s.putValue a n v p).value a n = v % 256 ^ n := by
  induction n generalizing s a v with
  | zero => simp [State.value, Nat.mod_one]
  | succ n ih =>
    simp only [State.putValue, State.value]
    rw [ih, State.byte_putValue_other _ _ _ _ (Or.inl (Nat.lt_succ_self a)), State.byte_putByte_self]
    simp only [BitVec.toNat_ofNat]
    have h := Nat.mod_mul (x := v) (a := 256) (b := 256 ^ n)
    rw [show (256 : Nat) ^ (n + 1) = 256 * 256 ^ n from pow_succ' 256 n, h]

/-! ## Contexts -/

/-- A context that was set is the one that is read, and the others stay. -/
@[simp] theorem State.ctx_setCtx_self (s : State) (k : Nat) (c : Ctx) : (s.setCtx k c).ctx k = c :=
  Tbl.get_set_self _ s.ctxs k c

theorem State.ctx_setCtx_other (s : State) {k j : Nat} (hj : j ≠ k) (c : Ctx) : (s.setCtx k c).ctx j = s.ctx j :=
  Tbl.get_set_other _ s.ctxs hj c

@[simp] theorem State.ctx_modCtx_self (s : State) (k : Nat) (f : Ctx → Ctx) : (s.modCtx k f).ctx k = f (s.ctx k) :=
  State.ctx_setCtx_self s k _

theorem State.ctx_modCtx_other (s : State) {k j : Nat} (hj : j ≠ k) (f : Ctx → Ctx) : (s.modCtx k f).ctx j = s.ctx j :=
  State.ctx_setCtx_other s hj _

/-! ## Lanes -/

@[simp] theorem Ctx.lane_setLane_self (c : Ctx) (l : Nat) (v : Lane) : (c.setLane l v).lane l = v :=
  Tbl.get_set_self _ c.lanes l v

theorem Ctx.lane_setLane_other (c : Ctx) {l j : Nat} (hj : j ≠ l) (v : Lane) : (c.setLane l v).lane j = c.lane j :=
  Tbl.get_set_other _ c.lanes hj v

theorem Ctx.lane_modLane_self (c : Ctx) (l : Nat) (f : Lane → Lane) : (c.modLane l f).lane l = f (c.lane l) :=
  Ctx.lane_setLane_self c l _

theorem Ctx.lane_modLane_other (c : Ctx) {l j : Nat} (hj : j ≠ l) (f : Lane → Lane) : (c.modLane l f).lane j = c.lane j :=
  Ctx.lane_setLane_other c hj _

/-- A function applied to some lanes changes no other lane. -/
theorem Ctx.lane_modLanes_other (c : Ctx) (ls : List Nat) (f : Nat → Lane → Lane) {j : Nat} (hj : j ∉ ls) :
    (c.modLanes ls f).lane j = c.lane j := by
  induction ls generalizing c with
  | nil => rfl
  | cons l ls ih =>
    simp only [List.mem_cons, not_or] at hj
    have h := ih (c.modLane l (f l)) hj.2
    simp only [Ctx.modLanes, List.foldl_cons] at h ⊢
    rw [h, Ctx.lane_modLane_other c hj.1]

/-- A function applied to some lanes, each listed once, is applied to each of them. -/
theorem Ctx.lane_modLanes_mem (c : Ctx) (ls : List Nat) (f : Nat → Lane → Lane) (hn : ls.Nodup) {j : Nat} (hj : j ∈ ls) :
    (c.modLanes ls f).lane j = f j (c.lane j) := by
  induction ls generalizing c with
  | nil => cases hj
  | cons l ls ih =>
    obtain ⟨h1, h2⟩ := List.nodup_cons.mp hn
    rcases List.mem_cons.mp hj with rfl | h
    · have h := Ctx.lane_modLanes_other (c.modLane j (f j)) ls f h1
      simp only [Ctx.modLanes, List.foldl_cons] at h ⊢
      rw [h, Ctx.lane_modLane_self]
    · have e := ih (c.modLane l (f l)) h2 h
      have hjl : j ≠ l := fun e => h1 (e ▸ h)
      simp only [Ctx.modLanes, List.foldl_cons] at e ⊢
      rw [e, Ctx.lane_modLane_other c hjl]

/-- The executing lanes of an issue are each listed once. -/
theorem Ctx.executing_nodup (c : Ctx) : c.executing.Nodup := by
  have hr : c.runnable.Nodup := List.nodup_dedup _
  have hc : c.candidates.Nodup := by
    unfold Ctx.candidates
    simp only
    split_ifs <;> first | exact hr.filter _ | exact hr
  exact hc.filter _

end Sys2Proof.Machine
end

