-- ==== Sys2Proof/Laws/Gate.lean ====
section
/-! SUPPORT. What the shared operations of an issue do: the gate when it is open, the poison checks when they pass, and the lanes
of an instruction that computes and retires. -/
namespace Sys2Proof.Machine

/-- The checks let an instruction through that can issue. -/
theorem checked_open {i : Instr} {s : State} (h : s.canIssue i = true) (body : State → Nat → Ctx → List Nat → State) :
    checked i s body = body s s.here s.own s.issue := by
  simp only [State.canIssue, Bool.and_eq_true, Bool.not_eq_true', Bool.or_eq_true, beq_iff_eq, bne_iff_ne,
    Option.isNone_iff_eq_none, State.own, State.issue] at h
  obtain ⟨⟨⟨⟨⟨⟨⟨⟨⟨⟨⟨⟨h1, h2⟩, h3⟩, h4⟩, h5⟩, -⟩, he⟩, h7⟩, ho⟩, h8⟩, h9⟩, h10⟩, h11⟩ := h
  have h7' : ¬((s.ctx s.here).block.isSome = true ∧ (s.ctx s.here).phase = 0) := by
    rintro ⟨a, b⟩
    rcases h7 with h7 | h7
    · rw [h7] at a; cases a
    · exact h7 b
  have h9' : ¬((s.ctx s.here).region.isSome = true ∧ Instr.regionOk i = false) := by
    rintro ⟨a, b⟩
    rcases h9 with h9 | h9
    · rw [h9] at a; cases a
    · rw [h9] at b; cases b
  simp only [checked, State.own, State.issue]
  rw [if_neg (by simp [h1, h2, h3, h4, h5]), if_neg (by simp [he]), if_neg (by simpa using h7'), if_neg (by simp [ho])]
  simp only [h8]
  rw [if_neg (by simpa using h9')]
  simp only [h10]
  rw [if_neg (by simp [h11])]

/-- Where none of a context's requests has failed, an issue goes on as it is. -/
theorem State.remoteOr_clean {s : State} {k : Nat} (h : (s.ctx k).remote = []) (t : State) (go : State → State) :
    s.remoteOr k t go = t := by simp [State.remoteOr, h]

/-- An instruction that can issue acts. -/
theorem gate_open {i : Instr} {s : State} (h : s.canIssue i = true) (body : State → Nat → Ctx → List Nat → State) :
    gate i s body = body s s.here s.own s.issue := by
  have hr : (s.ctx s.here).remote = [] := by
    simp only [State.canIssue, Bool.and_eq_true, State.own, State.issue] at h
    simpa using h.1.1.1.1.1.1.1.2
  rw [gate, State.remoteOr_clean hr, checked_open h]

theorem gated_open {i : Instr} {s : State} (h : s.canIssue i = true) (body : State → Nat → Ctx → List Nat → State) :
    gated i s body = .next (body s s.here s.own s.issue) := by rw [gated, gate_open h]

/-- An instruction that computes in each lane and can issue. -/
theorem laneOp_open {i : Instr} {s : State} (h : s.canIssue i = true) (f : Lane → Lane) :
    laneOp i s f = .next (s.modCtx s.here fun c => (c.modLanes s.issue fun _ l => f l).retire s.issue) := by
  rw [laneOp, gated_open h]

/-- A register that no worker holds poisoned stops nothing. -/
theorem unpoisoned_clean {s : State} {k : Nat} {c : Ctx} {ls : List Nat} {r : Nat} (h : c.poisoned ls r = []) (go : State) :
    unpoisoned s k c ls r go = go := by rw [unpoisoned, h]

theorem unpoisoned_own {s : State} {r : BitVec 5} (h : s.cleanX r = true) (go : State) :
    unpoisoned s s.here s.own s.issue r.toNat go = go :=
  unpoisoned_clean (List.isEmpty_iff.mp h) go

/-! ## Retirement -/

/-- A lane of the issue goes to PC + 4; nothing else of it changes. -/
theorem Ctx.lane_retire_mem (c : Ctx) {ls : List Nat} (hn : ls.Nodup) {l : Nat} (hl : l ∈ ls) :
    (c.retire ls).lane l = { c.lane l with pc := (c.lane l).pc + 4 } := by
  have h := Ctx.lane_modLanes_mem c ls (fun _ ln => { ln with pc := ln.pc + 4 }) hn hl
  simpa [Ctx.retire, Ctx.lane] using h

theorem Ctx.lane_retire_other (c : Ctx) {ls : List Nat} {l : Nat} (hl : l ∉ ls) : (c.retire ls).lane l = c.lane l := by
  have h := Ctx.lane_modLanes_other c ls (fun _ ln => { ln with pc := ln.pc + 4 }) hl
  simpa [Ctx.retire, Ctx.lane] using h

theorem Ctx.modLanes_csr (c : Ctx) (ls : List Nat) (f : Nat → Lane → Lane) : (c.modLanes ls f).csr = c.csr := by
  induction ls generalizing c with
  | nil => rfl
  | cons l ls ih =>
    have h := ih (c.modLane l (f l))
    simp only [Ctx.modLanes, List.foldl_cons] at h ⊢
    rw [h]; rfl

/-- The lanes after an instruction that computes and retires. -/
theorem Ctx.lane_compute_mem (c : Ctx) (ls : List Nat) (f : Nat → Lane → Lane) (hn : ls.Nodup) {l : Nat} (hl : l ∈ ls) :
    ((c.modLanes ls f).retire ls).lane l = { f l (c.lane l) with pc := (f l (c.lane l)).pc + 4 } := by
  rw [Ctx.lane_retire_mem _ hn hl, Ctx.lane_modLanes_mem c ls f hn hl]

theorem Ctx.lane_compute_other (c : Ctx) (ls : List Nat) (f : Nat → Lane → Lane) {l : Nat} (hl : l ∉ ls) :
    ((c.modLanes ls f).retire ls).lane l = c.lane l := by
  rw [Ctx.lane_retire_other _ hl, Ctx.lane_modLanes_other c ls f hl]

/-! ## Registers -/

@[simp] theorem Lane.rx_zero (l : Lane) : l.rx 0 = Reg.zero := rfl

@[simp] theorem Lane.wx_zero (l : Lane) (v : Reg) : l.wx 0 v = l := rfl

theorem Lane.rx_wx_self (l : Lane) {r : Nat} (h : r ≠ 0) (v : Reg) : (l.wx r v).rx r = v := by
  simp [Lane.wx, Lane.rx, h]

theorem Lane.rx_wx_other (l : Lane) {r q : Nat} (h : q ≠ r) (v : Reg) : (l.wx r v).rx q = l.rx q := by
  by_cases hr : r = 0
  · rw [hr, Lane.wx_zero]
  · by_cases hq : q = 0
    · rw [hq]; rfl
    · simp [Lane.wx, Lane.rx, hr, hq, Tbl.get_set_other _ _ h]

@[simp] theorem Lane.rf_wx (l : Lane) (r q : Nat) (v : Reg) : (l.wx r v).rf q = l.rf q := by
  unfold Lane.wx; split <;> rfl

@[simp] theorem Lane.pc_wx (l : Lane) (r : Nat) (v : Reg) : (l.wx r v).pc = l.pc := by
  unfold Lane.wx; split <;> rfl

@[simp] theorem Lane.rf_wf_self (l : Lane) (r : Nat) (v : Reg) : (l.wf r v).rf r = v := Tbl.get_set_self _ _ _ _

theorem Lane.rf_wf_other (l : Lane) {r q : Nat} (h : q ≠ r) (v : Reg) : (l.wf r v).rf q = l.rf q :=
  Tbl.get_set_other _ _ h _

@[simp] theorem Lane.rx_wf (l : Lane) (r q : Nat) (v : Reg) : (l.wf r v).rx q = l.rx q := rfl

@[simp] theorem Lane.pc_wf (l : Lane) (r : Nat) (v : Reg) : (l.wf r v).pc = l.pc := rfl

end Sys2Proof.Machine
end

