-- ==== Sys2Proof/Safety.lean ====
section
/-! DEFINITION. What a safe step is: it answers a next state. -/
namespace Sys2Proof

/-- The step of a state is safe when it answers a next state: no fault, no refusal. -/
def Safe (s : Machine.State) : Prop := ∃ t, Machine.step s = .next t

end Sys2Proof
end

