-- ==== Sys2Proof/Tests/Slice0.lean ====
section
/-! SUPPORT. The model's own tests: terms that `WellFormed` refuses, words written out from the encodings of 09 and 10, single
steps on a small state, and for each statement with hypotheses a state and operands that meet them. -/
open Sys2Proof Sys2Proof.Machine

section

set_option Elab.async false

/-! ## Well-formedness: one ill-formed term for each check (09 R166, R167; 08 R160) -/

theorem test_branch_selector : (Instr.branch 0#7 1#5 2#5 2#3 0#5).wellFormed = false := by decide
theorem test_load_selector : (Instr.load 0#12 1#5 7#3 2#5).wellFormed = false := by decide
theorem test_store_selector : (Instr.store 0#7 1#5 2#5 4#3 0#5).wellFormed = false := by decide
theorem test_opImm_selector : (Instr.opImm 0#12 1#5 5#3 2#5).wellFormed = false := by decide
theorem test_op32_selector : (Instr.op32 1#5 2#5 2#3 3#5).wellFormed = false := by decide
theorem test_shadd_selector : (Instr.shadd 1#5 2#5 0#2 3#5).wellFormed = false := by decide
theorem test_shaddUw_selector : (Instr.shaddUw 1#5 2#5 0#2 3#5).wellFormed = false := by decide
theorem test_andn_selector : (Instr.andnOrnXnor 1#5 2#5 5#3 3#5).wellFormed = false := by decide
theorem test_clz_selector : (Instr.clzCtzCpopSext 3#3 2#5 3#5).wellFormed = false := by decide
theorem test_clzw_selector : (Instr.clzwCtzwCpopw 3#3 2#5 3#5).wellFormed = false := by decide
theorem test_fused_rm : (Instr.fpFused 1#5 0#1 2#5 3#5 5#3 4#5 0#2).wellFormed = false := by decide
theorem test_arith_rm : (Instr.fpArith 0#2 0#1 2#5 3#5 6#3 4#5).wellFormed = false := by decide
theorem test_sqrt_rm : (Instr.fsqrt 0#1 3#5 5#3 4#5).wellFormed = false := by decide
theorem test_sgnj_selector : (Instr.fsgnj 0#1 2#5 3#5 3#3 4#5).wellFormed = false := by decide
theorem test_fcvtSD_rm : (Instr.fcvtSD 3#5 5#3 4#5).wellFormed = false := by decide
theorem test_fcvtDS_rm : (Instr.fcvtDS 3#5 6#3 4#5).wellFormed = false := by decide
theorem test_compare_selector : (Instr.fpCompare 0#1 2#5 3#5 3#2 4#5).wellFormed = false := by decide
theorem test_toInt_rm : (Instr.fcvtToInt 0#1 0#2 3#5 5#3 4#5).wellFormed = false := by decide
theorem test_fromInt_rm : (Instr.fcvtFromInt 0#1 0#2 3#5 6#3 4#5).wellFormed = false := by decide
theorem test_amoW_op : (Instr.amoW 9#5 0#1 0#1 1#5 2#5 3#5).wellFormed = false := by decide
theorem test_amoD_op : (Instr.amoD 31#5 0#1 0#1 1#5 2#5 3#5).wellFormed = false := by decide
theorem test_red_op : (Instr.red 3#2 0#3 1#5 2#5).wellFormed = false := by decide
theorem test_red_type : (Instr.red 0#2 5#3 1#5 2#5).wellFormed = false := by decide
theorem test_pf_kind : (Instr.pfL1 0#12 1#5 1#5).wellFormed = false := by decide
theorem test_ldAcq_scope : (Instr.ldAcq 3#2 6#3 1#5 2#5).wellFormed = false := by decide
theorem test_stRel_scope : (Instr.stRel 3#2 7#3 1#5 2#5).wellFormed = false := by decide
theorem test_waitcnt_path : (Instr.waitcnt 0#5 5#5).wellFormed = false := by decide
theorem test_msend_scope : (Instr.msend 0#3 6#3 1#5 2#5).wellFormed = false := by decide
theorem test_qsend_end : (Instr.qsend 7#3 25#5 1#5).wellFormed = false := by decide
theorem test_qrecv_channel : (Instr.qrecv 0#3 16#5 1#5).wellFormed = false := by decide
theorem test_qrecv_end : (Instr.qrecv 7#3 0#5 25#5).wellFormed = false := by decide
theorem test_qpoll_channel : (Instr.qpoll 16#5 1#5).wellFormed = false := by decide
theorem test_msave_slot : (Instr.msave 1#5 4#5).wellFormed = false := by decide
theorem test_mrest_slot : (Instr.mrest 1#5 4#5).wellFormed = false := by decide
theorem test_quadBc_lane : (Instr.quadBc 4#5 1#5 2#5).wellFormed = false := by decide
theorem test_bxt_source : (Instr.bxt 1#5 26#5 2#5).wellFormed = false := by decide
theorem test_trt_source : (Instr.trt 1#5 26#5 2#5).wellFormed = false := by decide
theorem test_trt_destination : (Instr.trt 1#5 2#5 30#5).wellFormed = false := by decide
theorem test_bsort_odd : (Instr.bsort 0#1 1#5 2#5).wellFormed = false := by decide
theorem test_bmerge_end : (Instr.bmerge 0#1 2#5 4#5 30#5).wellFormed = false := by decide
theorem test_mma_slot : (Instr.mma 1#5 2#5 4#5).wellFormed = false := by decide
theorem test_mzero_slot : (Instr.mzero 4#5).wellFormed = false := by decide
theorem test_epi_slot : (Instr.epi 1#5 4#5).wellFormed = false := by decide
theorem test_mlink_slot : (Instr.mlink 1#5 4#5).wellFormed = false := by decide
theorem test_mmaSp_slot : (Instr.mmaSp 1#5 2#5 3#5 4#5).wellFormed = false := by decide

/-! ## A state that can issue -/

/-- Core 0 with a firmware context in M mode at address 0, where a word stands (L4). -/
def Tests.placed (w : Nat) : State := State.reset.withFetchWord 32 w

def Tests.core : State := Tests.placed 0x13

/-- The same context with an x register set. -/
def Tests.x1 (s : State) (r : Nat) (v : Word) : State :=
  s.modCtx s.here fun c => c.modLane 0 fun l => l.wx r (Reg.of v false)

/-! ## Single steps -/

/-- `addi x1, x0, 5` (10 R196). -/
theorem test_step_addi : (match step (Tests.placed 0x00500093) with
    | .next t => (((t.ctx 0).lane 0).rx 1).v == 5 && ((t.ctx 0).lane 0).pc == 4
    | _ => false) = true := by decide +kernel

/-- `lui x2, 0x80000` sign-extends (10 R195). -/
theorem test_step_lui : (match step (Tests.placed 0x80000137) with
    | .next t => (((t.ctx 0).lane 0).rx 2).v == 0xFFFFFFFF80000000#64
    | _ => false) = true := by decide +kernel

/-- `ecall` in M mode: cause 11, and the handler's address is that of `mtvec` (10 R206; 15 R314). -/
theorem test_step_ecall : (match step (Tests.placed 0x00000073) with
    | .next t => (t.ctx 0).csr.mcause == 11 && (t.ctx 0).csr.mepc == 0 && (t.ctx 0).csr.mtval == 0
    | _ => false) = true := by decide +kernel

/-- A word of zeros encodes nothing: cause 2 with sub-code 0 and the word (09 R166). -/
theorem test_step_unassigned : (match step (Tests.placed 0) with
    | .next t => (t.ctx 0).csr.mcause == 2 && (t.ctx 0).csr.mtval == 0
    | _ => false) = true := by decide +kernel

/-! ## The hypotheses of the statements can be met -/

theorem witness_RoundTrip : (Instr.wfi).hasWord = true ∧ (Instr.wfi).wellFormed = true := by decide

theorem witness_canIssue : Tests.core.canIssue (.opImm 5#12 0#5 0#3 1#5) = true := by decide +kernel

theorem witness_IntegerResults :
    Instr.intRow (.sub 1#5 2#5 3#5) = some (3#5, fun l => l.bin 2#5 1#5 fun x y => x - y)
    ∧ Tests.core.canIssue (.sub 1#5 2#5 3#5) = true := ⟨rfl, by decide +kernel⟩

/-! ## States for the witnesses -/

/-- An instruction of the machine answers a next state. -/
def Tests.goes (i : Instr) (s : State) : Prop := ∃ t, exec i s = .next t

theorem Tests.fetched {f : Fetched} {w : BitVec 32} (h : (match f with
    | .word v _ => v == w
    | _ => false) = true) : ∃ u, f = .word w u := by
  cases f <;> simp at h
  exact ⟨_, by rw [h]⟩

def Tests.memAt : State := Tests.x1 Tests.core 2 0x1000

/-- Line 32 stands in the L1D of core 0. -/
def Tests.hit : State := Tests.memAt.putLine 0 ⟨32, .valid, 0x1122334455667788#1024, 0, true, 0, 0, Under.none, false⟩

/-- A user-mode context under a translation whose page 0 is a future page and whose page 1 is plain. -/
def Tests.user : State :=
  let s : State := Tests.memAt.modCtx 0 fun c => { c with mode := .u, csr := { c.csr with satp := 0xE000000000000000 } }
  { s with tlbs := [(1, [⟨0, true, 0, 16, 0, 0x1BF, 0, 1, 0⟩, ⟨0, true, 1, 16, 1, 0x1BF, 0, 0, 0⟩])] }

/-- The context with its own registers changed. -/
def Tests.csr (f : Ctx → Ctx) : State := Tests.core.modCtx 0 f

/-- The own place's context with its lane a helper. -/
def Tests.helper : State := Tests.csr fun c => c.modLane 0 fun l => { l with helper := true }

/-- What is due at the boundary of core 0 with a context changed. -/
def Tests.due (f : Ctx → Ctx) : Option Instr := (Tests.csr f).boundaryEvent (Tests.csr f).cur

def Tests.place : Place := ⟨0, 0, 0, 0⟩

/-- Core 0 with an allocation of 64 KiB in the cluster SRAM, whose window starts at x2; x1 is 1 and x3 is 128. -/
def Tests.win : State :=
  Tests.x1 (Tests.x1 (Tests.x1 (Tests.csr fun c => { c with allocSize := 0x10000 }) 2 0xFFFFFE0000000000) 3 128) 1 1

/-- The location of the start of that allocation. -/
def Tests.winLoc : Nat := windowLoc 0 0 0

/-- A plain line as an L1D holds it. -/
def Tests.line (n : Nat) (st : LineSt) : L1Line := ⟨n, st, 5, 1, true, 0, 0, Under.none, false⟩

def Tests.owned : State := Tests.memAt.putLine 0 (Tests.line 32 .owned)

/-- A shadow of line 32 with nothing stored. -/
def Tests.shadow : Shadow := ⟨32, Under.none, 0, 0, 0⟩

def Tests.region : Region := ⟨0, [⟨32, Under.none, 7, 1, 0⟩], [], 10, 0, 0⟩

/-- Core 0 in an armed region on line 32. -/
def Tests.leased : State := Tests.owned.modCtx 0 fun c => { c with lease := .armed Tests.region }

/-- A live barrier object with one arrival pending, at the start of the window. -/
def Tests.barrier : State := Tests.win.putValue Tests.winLoc 8 (2 ^ 63 + 1 + 2 ^ 16) false
/-- A launch with a table of 8 ranks at 0x2000. -/
def Tests.launch : Launch :=
  ⟨0, 0, List.replicate 16 0, true, false, 1, 0x2000, 8, 0, 0, 0, 0, false, 0, none, 0, false⟩

/-- An entry that names core 1, held. -/
def Tests.entry : Word := 0x400001

/-- Core 0 with a thread of launch 5, whose cluster knows rank 1's entry and whose memory has free light entries; x2 is 0x1000, x1 is 1. -/
def Tests.thread : State :=
  let s : State := Tests.x1 (Tests.memAt.modCtx 0 fun c => { c with launch := some 5 }) 1 1
  let s : State := (s.setLaunch 5 (some Tests.launch)).putValue 0x2008 8 0x400004 false
  s.setCluster 0 { s.cluster 0 with rankCache := [(5, 1, Tests.entry)] }

/-- The descriptor at the start of the user page of core 1, in x2. -/
def Tests.sram : Nat := 0x8000000000000 + 2 ^ 16
def Tests.codelet : State := Tests.x1 (Tests.x1 Tests.core 2 (BitVec.ofNat 64 Tests.sram)) 1 3

/-- The handler set of core 0, resident. -/
def Tests.handlerPlace : Place := ⟨0, 0, 0, 4⟩
def Tests.handler : State := ({ State.reset with cur := Tests.handlerPlace } : State).withFetchWord 32 0x13

/-- A message without a payload. -/
def Tests.message : Message := ⟨5, 1, 0x40, 1, 0, 0, [Reg.zero], 1, 7, 0, 0⟩

/-- A message of the net. -/
def Tests.netMsg (b : Body) : NetMsg := ⟨1, 1, 0, 0, 0, false, false, b⟩
def Tests.net (s : State) (b : Body) : State := { s with net := [Tests.netMsg b], nextId := 2 }

/-- Two more contexts beside core 0's: sets 1 and 2, with numbers 1 and 2. -/
def Tests.two : State := (Tests.core.setCtx 1 { Ctx.firmware with uid := 1 }).setCtx 2 { Ctx.firmware with uid := 2 }
/-- Slot 0 of engine 0, and a wave there of lanes 0 and 1 at one PC; lane 2 is two instructions ahead. -/
def Tests.wavePlace : Place := ⟨0, 0, 64, 0⟩
def Tests.ln (pc : Word) (st : LaneSt) : Lane := { Lane.idle with pc := pc, st := st }
def Tests.wave : State :=
  let s : State := { State.reset with cur := Tests.wavePlace }
  s.setCtx Tests.wavePlace.key { Ctx.firmware with
    uid := 4, lanes := [(0, Tests.ln 0 .runnable), (1, Tests.ln 0 .runnable), (2, Tests.ln 8 .runnable)] }

/-- The wave with every lane at one PC. -/
def Tests.whole : State := Tests.wave.modCtx Tests.wavePlace.key fun c => c.setLane 2 (Tests.ln 0 .finished)

/-- A crossed thread in set 1, whose map's first entry gives f1 as OUT, and its wave. -/
def Tests.crossing : State :=
  (Tests.wave.setCtx 1 { Ctx.firmware with uid := 1, crossed := true }).modCtx Tests.wavePlace.key fun c =>
    { c with gath := true, ents := [⟨5, 6, false, true⟩], lanes := [(0, { Tests.ln 0 .runnable with origin := some 1 })] }

/-- A bin with one request. -/
def Tests.bin : Bin := ⟨0, 0x1000, none, 0, 0, .m, [], [⟨1, [], [], 0, none, 0, 0⟩], false⟩
def Tests.binned (b : Bin) : State := Tests.two.setCluster 0 { Tests.two.cluster 0 with bins := [(3, some b)] }
/-- A running transfer of core 0's context from 0x1000 to 0x2000, with its parameters given by mode, size, dimensions and index list. -/
def Tests.par (mode box dim : Word) : CopyCsrs := ⟨0x1000, 0x2000, dim, 0, box, mode, 0, 0⟩
def Tests.xfer (p : CopyCsrs) : Xfer :=
  ⟨0, 1, 0, p, 1, 0, 0, 0, false, false, false, 0, [], [], none, 0, none, 0, 0, false, false, false, none, [], 0, .m, false, false, none, 0, 0, 0, []⟩
def Tests.running (x : Xfer) : State := Tests.core.setXfer 9 (some x)
/-- Core 0 with a packet at the head of queue 0, and with a launch at the head. -/
def Tests.launched (v : Launch) : State := Tests.core.setLaunch 5 (some v)
/-- The words of a packet of one crew of one wave in the class without guarantee. -/
def Tests.packet : List Word := [0x10051, 1] ++ List.replicate 14 0
def Tests.held (ws : List Word) : Launch := { Tests.launch with words := ws, admitted := false, rtBase := 0, rtCount := 0 }
/-- Core 0 of a started package whose queue 0 is enabled. -/
def Tests.ready : State :=
  { Tests.core with queues := [(0, { CmdQueue.reset with ctl := 3, tail := 1, base := 0x4000 })],
                    mgmt := { Tests.core.mgmt with bootst := 0x17 } }
def Tests.head (ws : List Word) : State := Tests.ready.setLaunch 5 (some (Tests.held ws))
/-- Doubles at a window offset of the allocation at the start of cluster 0's SRAM. -/
def Tests.words (s : State) (off : Nat) (ws : List Nat) : State :=
  ws.zipIdx.foldl (fun s e => s.putValue (windowLoc 0 0 (off + 8 * e.2)) 8 e.1 false) s
def Tests.winVa (off : Nat) : Nat := 0xFFFFFE0000000000 + off

/-- A wave with the whole cluster SRAM and the even slot 0: operand descriptors in x1 and x2, one of `epi` in x3, a save area in x4, the index of
the other wave of its crew in x5, metadata in x6, and descriptors of `pred`, `punion` and `sparge` in x7 to x9. -/
def Tests.mxRegs : State :=
  let s : State := Tests.whole.modCtx 2048 fun c => { c with
    allocSize := 0x800000, crew := some 2, waves := 2,
    lanes := [(0, ((([(1, 0), (2, 0x20), (3, 0x40), (6, 0x300000), (7, 0x100), (8, 0x80), (9, 0x180)] : List (Nat × Nat)).foldl
      (fun l e => l.wx e.1 (Reg.of (BitVec.ofNat 64 (Tests.winVa e.2)) false)) (Tests.ln 0 .runnable)).wx 4 (Reg.of 0x100000 false)).wx 5
      (Reg.of 1 false))] }
  (s.setCtx 2049 { s.ctx 2048 with uid := 5, waveIdx := 1 }).setEngine 64 { Engine.reset with slots := [(0, { Slot.free with holder := some 4 })] }

/-- FP8 operands of 128 rows and columns. -/
def Tests.mma : State := Tests.words Tests.mxRegs 0 [Tests.winVa 0x100000, 0x100004, 0, 0, Tests.winVa 0x180000, 0x100004, 0, 0]
/-- The same with a gathered operand of one row, and its metadata. -/
def Tests.mmaSp : State :=
  Tests.words (Tests.words Tests.mxRegs 0 [Tests.winVa 0x100000, 0x100014 + 2 ^ 28, 0, Tests.winVa 0x400000, Tests.winVa 0x180000, 0x100004, 0, 0])
    0x300000 [0x4444444444444444]
def Tests.epi : State := Tests.words Tests.mxRegs 0x40 [Tests.winVa 0x200000, 16]
def Tests.mrest : State := Tests.mxRegs.putValue (0x100000 + 0x10800) 8 8 false
def Tests.union : State := Tests.words Tests.mxRegs 0x80 [Tests.winVa 0x1000, 0, 0, 32, Tests.winVa 0x2000, 32]
def Tests.pred : State :=
  Tests.words Tests.mxRegs 0x100 [Tests.winVa 0x3000, 2 + 64 * 16 + 32 * 2 ^ 32 + 16 * 2 ^ 49, 32 + 2 ^ 32, Tests.winVa 0x3100, Tests.winVa 0x3400,
    0, 0, Tests.winVa 0x3800, Tests.winVa 0x3900, 16, Tests.winVa 0x3A00]
def Tests.check : State := Tests.words Tests.pred 0x180 [Tests.winVa 0x100, Tests.winVa 0x1000, Tests.winVa 0x4000, 0, 1 + 2 ^ 32, Tests.winVa 0x4200, 16]

/-- An instruction in the queue of engine 0. -/
def Tests.mxOp (w : MxWork) : MxOp := ⟨4, 0, .none, w, false, false, windowLoc 0 0 0⟩
def Tests.queued (o : MxOp) : State :=
  Tests.mxRegs.setEngine 64 { Tests.mxRegs.engine 64 with queue := [o] }

/-- A request of a table of owner atomics. -/
def Tests.tag (op : TagOp) (loc : Nat) (h : Home) : TagReq :=
  ⟨0, 0, 0, 0, op, loc, 8, Reg.of 3 false, Reg.zero, 0, 0, none, 0, h, 0, 5, 0, .none⟩

def Tests.light : Light := ⟨[], 0x80, 1, 1, 5, 0, none, [], false, none⟩

/-- A request that carries a message to core 1, and one that carries a light context to core 0. -/
def Tests.msgTag : TagReq := { Tests.tag .msg 128 .core with n := 1, cargo := .message Tests.message }
def Tests.lightTag : TagReq := { Tests.tag .arrival 0 .core with n := 0, cargo := .light Tests.light false }

/-! ## Witnesses -/

theorem witness_StepRunsDecoded :
    let s := Tests.placed 0x00500093
    (s.agenda = [.run s.cur] ∧ (s.ctx s.cur.key).status = .resident
      ∧ State.boundaryEvent { s with agenda := [], cur := s.cur } s.cur = none ∧ (s.ctx s.cur.key).forced = []
      ∧ (s.ctx s.cur.key).wfi = false ∧ (s.ctx s.cur.key).mayTry = true ∧ s.shootOf (s.ctx s.cur.key).uid = none ∧ decode 0x00500093#32 = .ok (.opImm 5#12 0#5 0#3 1#5))
    ∧ ∃ u, State.fetch { s with agenda := [], cur := s.cur } s.cur.key = .word 0x00500093#32 u :=
  ⟨by decide +kernel, Tests.fetched (by decide +kernel)⟩

theorem witness_DivisionCorners : Tests.core.canIssue (.div 1#5 2#5 0#2 3#5) = true ∧ Tests.core.canIssue (.divw 1#5 2#5 3#2 3#5) = true
    ∧ Tests.core.issue = [0] := by decide +kernel
/-- A divisor of 0, the overflow, and the operands next to it. -/
theorem witness_divisionIdentity : (1#8 ≠ 0 ∧ ¬(BitVec.intMin 8 = BitVec.intMin 8 ∧ 1#8 = BitVec.allOnes 8))
    ∧ ¬(BitVec.intMin 8 + 1#8 = BitVec.intMin 8 ∧ BitVec.allOnes 8 = BitVec.allOnes 8)
    ∧ (-7#8 : BitVec 8).toInt.tdiv 2 = -3 ∧ (divOp 0#2 (-7#8 : BitVec 8) 2#8).toInt = -3 ∧ (divOp 2#2 (-7#8 : BitVec 8) 2#8).toInt = -1 := by
  decide +kernel
theorem witness_IntegerFrame : Instr.intRow (.lui 1#20 1#5) ≠ none ∧ Tests.core.canIssue (.lui 1#20 1#5) = true ∧ Tests.goes (.lui 1#20 1#5) Tests.core :=
  ⟨nofun, by decide +kernel, _, rfl⟩
theorem witness_fpResults : (∃ r, Instr.fpRow (.fsgnj 0#1 2#5 3#5 0#3 4#5) = some r) ∧ Tests.core.canIssue (.fsgnj 0#1 2#5 3#5 0#3 4#5) = true :=
  ⟨⟨_, rfl⟩, by decide +kernel⟩
theorem witness_fpToInteger : (∃ r, Instr.fpToXRow (.fpCompare 0#1 2#5 3#5 0#2 4#5) = some r) ∧ Tests.core.canIssue (.fpCompare 0#1 2#5 3#5 0#2 4#5) = true :=
  ⟨⟨_, rfl⟩, by decide +kernel⟩
theorem witness_jal : Tests.core.canIssue (.jal 0#20 1#5) = true ∧ ∀ l, l ∈ Tests.core.issue → (Tests.core.own.lane l).helper = false →
    ((Tests.core.own.lane l).pc + jumpOff 0#20).toNat % 4 = 0 := by decide +kernel
theorem witness_jalr : Tests.core.canIssue (.jalr 8#12 1#5 1#5) = true ∧ Tests.core.cleanX 1#5 = true
    ∧ ∀ l, l ∈ Tests.core.issue → (Tests.core.own.lane l).helper = false → ((Tests.core.own.lane l).jalrTarget 1#5 8#12).toNat % 4 = 0 := by
  decide +kernel
theorem witness_branch : Tests.core.canIssue (.branch 0#7 1#5 2#5 0#3 4#5) = true ∧ Tests.core.cleanX 1#5 = true ∧ Tests.core.cleanX 2#5 = true
    ∧ ∀ l, l ∈ Tests.core.issue → (Tests.core.own.lane l).helper = false → (Tests.core.own.lane l).branches 0#3 2#5 1#5 = true →
      ((Tests.core.own.lane l).pc + branchOff 0#7 4#5).toNat % 4 = 0 := by decide +kernel

theorem witness_loads : ∃ r, Tests.memAt.loadRow (.load 0#12 2#5 3#3 3#5) = some r ∧ Tests.memAt.canIssue (.load 0#12 2#5 3#3 3#5) = true
    ∧ Tests.memAt.loadsGo r ∧ Tests.goes (.load 0#12 2#5 3#3 3#5) Tests.memAt :=
  ⟨_, rfl, by decide +kernel, by unfold State.loadsGo LaneXl.clean; decide +kernel, _, rfl⟩

theorem witness_stores : ∃ r, Tests.memAt.storeRow (.store 0#7 1#5 2#5 3#3 0#5) = some r ∧ Tests.memAt.canIssue (.store 0#7 1#5 2#5 3#3 0#5) = true
    ∧ Tests.memAt.storesGo r ∧ (∀ e, e ∈ r.placed → ∀ p, p ∈ e.2 → p.at_.home ≠ .device)
    ∧ Tests.goes (.store 0#7 1#5 2#5 3#3 0#5) Tests.memAt :=
  ⟨_, rfl, by decide +kernel, by
    unfold State.storesGo LaneXl.clean
    and_intros <;> first | decide +kernel | nofun, by decide +kernel, _, rfl⟩

theorem witness_LoadHit :
    let s := Tests.hit
    let p : Piece := ⟨0, 8, ⟨4096, .cached, false, Under.none⟩⟩
    ∃ r, s.loadRow (.load 0#12 2#5 3#3 3#5) = some r ∧ s.canIssue (.load 0#12 2#5 3#3 3#5) = true ∧ s.loadsGo r ∧ s.issue = [0]
      ∧ r.xl.ok = [(⟨0, 0x1000#64, 8, 8, none⟩, [p])] ∧ s.keyOf s.own.uid = some s.here
      ∧ ∃ l, s.l1Line (unitOf s.here) (p.at_.loc / 128) = some l ∧ ∀ j, j < p.n → l.readable (p.at_.loc % 128 + j) = true :=
  ⟨_, rfl, by decide +kernel, by unfold State.loadsGo LaneXl.clean; decide +kernel, by and_intros <;> first
    | decide +kernel
    | exact ⟨⟨32, .valid, 0x1122334455667788#1024, 0, true, 0, 0, Under.none, false⟩, by decide +kernel⟩⟩

/-- A step of the row on a small state, and its hypotheses. -/
theorem witness_atomics : ∃ r, Tests.memAt.atomRow (.amoW 0#5 1#1 0#1 1#5 2#5 3#5) = some r
    ∧ Tests.memAt.canIssue (.amoW 0#5 1#1 0#1 1#5 2#5 3#5) = true ∧ Tests.memAt.atomsGo r :=
  ⟨_, rfl, by decide +kernel, by unfold State.atomsGo LaneXl.clean; decide +kernel⟩

theorem witness_future :
    let s := Tests.user
    let x := s.xlatAligned s.here 0 4 s.own (s.own.requests s.issue 2 0 8 8)
    (Instr.futureRow (.fldD 2#5 3#5) = some (2#5, 3#5, 8) ∧ s.canIssue (.fldD 2#5 3#5) = true ∧ s.own.phase ≠ 1 ∧ s.cleanX 2#5 = true)
    ∧ x.clean ∧ (∀ e, e ∈ x.ok → futureCheck true e.1 e.2 = none) ∧ s.queuedOverlap s.here (x.ok.flatMap (·.2)) = false
    ∧ s.own.counterFull .ld = false ∧ s.own.tagsFull x.ok.length = false ∧ x.ok ≠ [] :=
  ⟨by decide +kernel, by unfold LaneXl.clean; decide +kernel, by and_intros <;> decide +kernel⟩

theorem witness_futureAnswered :
    let s := Tests.user.modCtx 0 fun c => { c with phase := 1 }
    s.canIssue (.fld 2#5 3#5) = true ∧ s.own.phase = 1 ∧ s.own.block = none := by decide +kernel

theorem witness_trapEntry : Tests.user.own.status = .resident ∧ Tests.user.issue ≠ [] ∧ Tests.user.own.wfi = false
    ∧ Tests.user.own.flushWait = false ∧ Tests.user.own.crossed = false ∧ Tests.user.own.quiet ∧ Tests.user.own.remote = []
    ∧ Tests.user.shootOf Tests.user.own.uid = none := by
  unfold Ctx.quiet; decide +kernel

theorem witness_environment : Tests.core.own.quiet ∧ Tests.core.canIssue .ecall = true ∧ Tests.core.canIssue .ebreak = true
    ∧ Tests.core.own.workers Tests.core.issue ≠ [] := by unfold Ctx.quiet; decide +kernel
theorem witness_environmentHelper : Tests.helper.own.quiet ∧ Instr.once .ecall = true ∧ Tests.helper.onlyHelpers = true := by
  unfold Ctx.quiet; decide +kernel

theorem witness_interrupts :
    Tests.due (fun c => { c with csr := { c.csr with mie := 0xAAA, mip := 0xAAA, mstatus := 8 } }) = some (.interruptTaken Tests.place 11)
    ∧ Tests.due (fun c => { c with mode := .u, preempt := true, csr := { c.csr with mie := 0x200000 } }) = some (.preemptionInterrupt Tests.place)
    ∧ Tests.due (fun c => { c with mcPend := some 1 }) = some (.machineCheck Tests.place)
    ∧ Tests.due (fun c => { c with mode := .u, pendDw := true }) = some (.deferredWrite Tests.place)
    ∧ Tests.due (fun c => { c with mode := .u, pendPx := true }) = some (.poisonExport Tests.place)
    ∧ Tests.due (fun c => { c with mode := .u, uPend := [(1, 0x40)] }) = some (.userInterrupt Tests.place) := by decide +kernel

theorem witness_quiet : (Tests.core.ctx Tests.place.key).quiet ∧ (Tests.core.ctx Tests.place.key).idleHandler Tests.place.key = false := by
  unfold Ctx.quiet; decide +kernel

theorem witness_uiret : (Tests.csr fun c => { c with mode := .u, inUser := true }).canIssue .uiret = true := by decide +kernel
theorem witness_returns : Tests.core.canIssue .mret = true ∧ (Tests.csr fun c => { c with mode := .s }).canIssue .sret = true
    ∧ Tests.core.own.aborted = none ∧ isHandler Tests.core.here = false := by decide +kernel
theorem witness_wfi : Tests.core.canIssue .wfi = true := by decide +kernel

theorem witness_csr :
    let s := Tests.memAt
    Instr.csrRow (.csrrw 0x340#12 2#5 3#5) = some (0x340, 0, .reg 2#5, true, 3#5) ∧ plainCsr 0x340 = true
    ∧ s.canIssue (.csrrw 0x340#12 2#5 3#5) = true ∧ s.own.lead s.issue = some 0 ∧ ((CsrSrc.reg 2#5).val (s.own.lane 0)).p = false := by decide +kernel
/-- The clauses of the registers that keep some fields: `satp` under each MODE that stands beside a legal one, MPP of `mstatus`, and the
interrupt registers. -/
theorem witness_csrFields : (readsBack false 0x180 (BitVec.ofNat 64 (2 ^ 60)) = none ∧ readsBack false 0x180 (BitVec.ofNat 64 (13 * 2 ^ 60)) = none
      ∧ readsBack false 0x180 (BitVec.ofNat 64 (15 * 2 ^ 60)) = none ∧ readsBack false 0x180 (BitVec.ofNat 64 (14 * 2 ^ 60 + 5)) = some (BitVec.ofNat 64 (14 * 2 ^ 60 + 5))
      ∧ readsBack false 0x300 0x1000 = none ∧ readsBack false 0x300 0x1800 = some 0x8000000A00007800)
    ∧ Instr.csrRow (.csrrw 0x144#12 2#5 3#5) = some (0x144, 0, .reg 2#5, true, 3#5) ∧ Tests.memAt.canIssue (.csrrw 0x144#12 2#5 3#5) = true
    ∧ plainCsr 0x144 = true ∧ (Tests.csr fun c => { c with csr := { c.csr with mideleg := 2 } }).own.csr.mideleg.getLsbD 1 = true
    ∧ (ignoresWrites 0x5C2 && ignoresWrites 0x5C6 && ignoresWrites 0x323 && ignoresWrites 0x33F && ignoresWrites 0xB03 && ignoresWrites 0xB1F) = true := by
  decide +kernel
theorem witness_fcsr : Instr.csrRow (.csrrwi 3#12 31#5 3#5) = some (3, 0, .imm 31#5, true, 3#5)
    ∧ Tests.core.canIssue (.csrrwi 3#12 31#5 3#5) = true ∧ Tests.core.own.poisoned Tests.core.issue (CsrSrc.imm 31#5).regNo = [] := by decide +kernel
theorem witness_faultQueue : Tests.core.canIssue (.sdwqRead 3#5) = true ∧ Tests.core.canIssue .sdwnDiscard = true
    ∧ Tests.core.own.workers Tests.core.issue ≠ [] := by decide +kernel
theorem witness_fences : Tests.core.canIssue (.fence 0#4 15#4 15#4 0#5 0#5) = true ∧ Tests.core.canIssue (.fence 0#4 0#4 15#4 0#5 0#5) = true
    ∧ Tests.core.released Tests.core.here 5 = true ∧ Tests.core.canIssue (.fenceI 0#12 0#5 0#5) = true ∧ Tests.core.canIssue .fenceOwn = true := by
  decide +kernel
theorem witness_waitcnt : Tests.core.canIssue (.waitcnt 0#5 1#5) = true ∧ Tests.core.cleanX 0#5 = true
    ∧ Tests.core.own.cnt.get (pathOf 1) ≤ min (Tests.core.own.firstX Tests.core.issue 0).toNat 255 := by decide +kernel
theorem witness_waitcntWaits :
    let s := Tests.csr fun c => c.count .st
    s.canIssue (.waitcnt 0#5 1#5) = true ∧ s.cleanX 0#5 = true
    ∧ min (s.own.firstX s.issue 0).toNat 255 < s.own.cnt.get (pathOf 1) := by decide +kernel
/-- `fence.force` of core 1, then its second part. -/
theorem witness_fenceForce :
    let s := Tests.x1 (Tests.csr fun c => { c with phase := 1 }) 2 1
    s.canIssue (.fenceForce 2#5) = true ∧ s.own.lead s.issue = some 0 ∧ ((s.own.lane 0).rx 2).p = false
    ∧ ((s.own.lane 0).rx 2).v = 1#64 ∧ s.own.phase = 1 ∧ ∀ k, k ∈ unitPlaces (forceUnit 1#64) → (s.ctx k).region = none := by decide +kernel
theorem witness_fenceForceEnds :
    let s := Tests.x1 (Tests.csr fun c => { c with phase := 2 }) 2 1
    s.canIssue (.fenceForce 2#5) = true ∧ s.own.phase = 2
    ∧ (∀ k, k ∈ unitPlaces (forceUnit 1#64) → (s.ctx k).status = .resident → s.own.uid ∉ (s.ctx k).forced)
    ∧ ∀ m, m ∈ s.inFlight → ∀ e, e ∈ s.tagEnts (forceUnit 1#64) → e.live = false → s.relMsg e.uid (dieOfUnit (forceUnit 1#64)) 5 m = false := by
  decide +kernel
theorem witness_prefetch :
    let s := Tests.memAt
    (s.canIssue (.pfL1 0#12 2#5 0#5) = true ∧ s.canIssue (.pfL1 0#12 0#5 3#5) = true ∧ s.canIssue (.pfL2 0#12 2#5) = true)
    ∧ (s.xlatLanes s.here 0 s.own (s.own.requests s.issue 2 0 1 1)).miss = [] := by decide +kernel
theorem witness_cleaning :
    let s := Tests.owned
    (s.canIssue (.cwb 2#5) = true ∧ s.canIssue (.cinv 2#5) = true ∧ s.canIssue .cwbCtx = true ∧ s.cleanX 2#5 = true)
    ∧ (s.cleanXl 2#5).clean ∧ (s.cleanXl 2#5).cachedLines = [32]
    ∧ ((s.l1 (unitOf s.here)).filter fun l => l.taggedBy s.own.tagEnt).map (·.line) = [32]
    ∧ s.ownQueueEmpty ∧ s.own.counterFull .st = false ∧ s.leasedBy (unitOf s.here) 32 = none :=
  ⟨by decide +kernel, by unfold LaneXl.clean; decide +kernel, by decide +kernel, by decide +kernel,
    by unfold State.ownQueueEmpty; decide +kernel, by decide +kernel, by decide +kernel⟩
theorem witness_leases :
    let s := Tests.owned
    ∃ ws, s.leaseLines s.here [0x1000#64] = .ok ws ∧ (Instr.leaseRow (.lease 0#5 2#5 3#5) = some ([2#5], 0#5, 3#5)
      ∧ s.canIssue (.lease 0#5 2#5 3#5) = true ∧ s.own.region = none ∧ isHandler s.here = false
      ∧ (∀ r, r ∈ [2#5] ++ [0#5] → ((s.own.lane 0).rx r.toNat).p = false) ∧ leaseBudget ((s.own.lane 0).rx 0).v = some 64
      ∧ ((ws.map (·.line)).eraseDups).length = ws.length ∧ s.leaseReady s.here ws = true) :=
  ⟨[Tests.shadow], by decide +kernel, by decide +kernel⟩
theorem witness_leaseAcquires : Tests.memAt.leaseLines Tests.memAt.here [0x1000#64] = .ok [Tests.shadow]
    ∧ Tests.memAt.leaseReady Tests.memAt.here [Tests.shadow] = false := by decide +kernel
theorem witness_leaseArm :
    let s := Tests.owned.modCtx 0 fun c => { c with lease := .acquiring 3 64 [Tests.shadow] }
    (s.ctx Tests.place.key).lease = .acquiring 3 64 [Tests.shadow] ∧ (s.ctx Tests.place.key).status = .resident
    ∧ s.leaseReady Tests.place.key [Tests.shadow] = true := by decide +kernel
/-- In an armed region, a store to the leased line and a load of it. -/
theorem witness_regionStores :
    let s := Tests.leased
    ∃ w q p, s.storeRow (.store 0#7 1#5 2#5 3#3 0#5) = some w ∧ s.canIssue (.store 0#7 1#5 2#5 3#3 0#5) = true
      ∧ s.own.region = some Tests.region ∧ s.issue = [0] ∧ s.cleanX 2#5 = true ∧ w.xl.clean ∧ w.xl.ok = [(q, [p])] ∧ q.va.toNat % q.n = 0
      ∧ p.off = 0 ∧ p.n = 2 ^ (3#3).toNat ∧ p.at_.loc % 128 + p.n ≤ 128 ∧ p.at_.home = .cached
      ∧ Tests.region.holds (p.at_.loc / 128) = true :=
  ⟨_, ⟨0, 0x1000#64, 8, 8, none⟩, ⟨0, 8, ⟨4096, .cached, false, Under.none⟩⟩, rfl, by
    unfold LaneXl.clean; and_intros <;> decide +kernel⟩
theorem witness_regionLoads :
    let s := Tests.leased
    let q : LaneReq := ⟨0, 0x1000#64, 8, 8, none⟩
    let p : Piece := ⟨0, 8, ⟨4096, .cached, false, Under.none⟩⟩
    ∃ v, s.loadRow (.load 0#12 2#5 3#3 3#5) = some v ∧ s.canIssue (.load 0#12 2#5 3#3 3#5) = true ∧ s.own.region = some Tests.region
      ∧ s.issue = [0] ∧ s.cleanX 2#5 = true ∧ v.xl.clean ∧ v.xl.ok = [(q, [p])] ∧ q.n = (loadSize 3#3).1 ∧ p.n = (loadSize 3#3).1
      ∧ s.loadCheck s.here q [p] = none ∧ s.queuedOverlap s.here [p] = false ∧ s.own.counterFull .ld = false
      ∧ s.missFull (unitOf s.here) [p] = false ∧ s.keyOf s.own.uid = some s.here
      ∧ Tests.region.lines.find? (fun x => x.line == p.at_.loc / 128) = some ⟨32, Under.none, 7, 1, 0⟩
      ∧ s.l1Line (unitOf s.here) 32 = some (Tests.line 32 .owned) :=
  ⟨_, rfl, by unfold LaneXl.clean; and_intros <;> decide +kernel⟩
theorem witness_leaseEnds :
    let s := Tests.leased
    s.canIssue .labort = true ∧ s.canIssue .lclose = true ∧ s.own.region = some Tests.region ∧ (Tests.region.lines.map (·.line)).Nodup
    ∧ (s.core (unitOf s.here)).recalls = [] ∧ (s.l1Line (unitOf s.here) 32).isSome = true
    ∧ Tests.region.deadline ≤ ({ s with clk := 10 } : State).now Tests.place.key := by decide +kernel
theorem witness_seals :
    let s := Tests.win
    s.canIssue (.bseal 3#5 2#5) = true ∧ s.own.lead s.issue = some 0 ∧ ((s.own.lane 0).rx 2).p = false ∧ ((s.own.lane 0).rx 3).p = false
    ∧ s.bsealFault s.here s.own ((s.own.lane 0).rx 2).v ((s.own.lane 0).rx 3).v = none ∧ s.released s.here 1 = true
    ∧ (s.cluster (clusterOf s.here)).seals.length < 32 := by decide +kernel
theorem witness_opens :
    let s := Tests.win.setCluster 0 { Tests.win.cluster 0 with seals := [⟨0, 128, 0, 0⟩] }
    s.canIssue (.bopen 2#5) = true ∧ s.own.lead s.issue = some 0
    ∧ (s.cluster (clusterOf s.here)).seals.find? (fun e =>
        e.alloc == s.own.allocBase && windowOff ((s.own.lane 0).rx 2).v == some e.base) = some ⟨0, 128, 0, 0⟩ := by decide +kernel
theorem witness_barInit : Tests.win.canIssue (.barInit 1#5 2#5) = true
    ∧ Tests.win.barrierAt 1 0 [2#5, 1#5] ((Tests.win.own.lane 0).rx 2).v Tests.winLoc ∧ field (Tests.win.barD1 Tests.winLoc) 36 28 = 0
    ∧ ((Tests.win.own.lane 0).rx 1).v.toNat = 1 :=
  ⟨by decide +kernel, ⟨by decide +kernel, by decide +kernel, by decide +kernel, by decide +kernel,
    ⟨⟨0, 16, ⟨Tests.winLoc, .window, false, Under.none⟩⟩, [], by decide +kernel, rfl, .inl ⟨rfl, by decide +kernel⟩⟩, by decide +kernel⟩, by decide +kernel⟩

theorem witness_barAt : Tests.barrier.barrierAt 1 0 [2#5] ((Tests.barrier.own.lane 0).rx 2).v Tests.winLoc
    ∧ Tests.barrier.barrierAt 1 0 [2#5, 1#5] ((Tests.barrier.own.lane 0).rx 2).v Tests.winLoc
    ∧ Tests.barrier.barrierAt 0 0 [2#5, 1#5] ((Tests.barrier.own.lane 0).rx 2).v Tests.winLoc := by
  unfold State.barrierAt
  and_intros <;> first | decide +kernel | exact ⟨⟨0, 16, ⟨Tests.winLoc, .window, false, Under.none⟩⟩, [], by decide +kernel, rfl, .inl ⟨rfl, by decide +kernel⟩⟩
/-- An object on an uncached page of memory. -/
theorem witness_barMemory :
    let s : State := Tests.user.modCtx 0 fun c => c.modLane 0 fun l => l.wx 1 (Reg.of 1 false)
    let s : State := { s with tlbs := [(1, [⟨0, true, 0, 16, 0, 0x1BF, 1, 0, 0⟩])] }
    s.barrierAt 1 0 [2#5, 1#5] ((s.own.lane 0).rx 2).v 0x1000 := by
  refine ⟨by decide +kernel, by decide +kernel, by decide +kernel, by decide +kernel, ⟨⟨0, 16, ⟨0x1000, .uncached, false, ⟨32, 0, 16, true⟩⟩⟩,
    [], by decide +kernel, rfl, .inr ?_⟩, by decide +kernel⟩
  unfold State.barrierHome; decide +kernel
theorem witness_barriers :
    let s := Tests.barrier
    s.canIssue (.barArrive 2#5 3#5) = true ∧ s.canIssue (.barExpect 1#5 2#5) = true ∧ s.canIssue (.barWait 1#5 2#5) = true
    ∧ s.canIssue (.barTry 1#5 2#5 3#5) = true ∧ s.barOk Tests.winLoc = true ∧ s.released s.here 3 = true
    ∧ field (s.barD0 Tests.winLoc) 16 16 = 1 ∧ ((s.own.lane 0).rx 1).v.toNat = 1 := by decide +kernel
/-- Both cases of a phase's completion. -/
theorem witness_barrierPhase : field (2 ^ 63 + 1) 48 15 = 0 ∧ field (2 ^ 63 + 1) 16 16 = 0 ∧ field (2 ^ 63 + 1 + 2 ^ 16) 16 16 ≠ 0 := by decide
theorem witness_qsend :
    let s := Tests.x1 Tests.core 2 3
    s.canIssue (.qsend 7#3 4#5 2#5) = true ∧ s.own.phase ≠ 1 ∧ s.own.task = none ∧ s.own.lead s.issue = some 0
    ∧ ((s.own.lane 0).rx 2).p = false ∧ s.own.handle ((s.own.lane 0).rx 2).v = some (.self, 3) ∧ s.own.chanFill 3 + (7 + 1) ≤ 32 := by
  decide +kernel
theorem witness_qrecv :
    let s := Tests.csr fun c => { c with chans := [(3, [[Reg.zero]])] }
    s.canIssue (.qrecv 1#3 3#5 4#5) = true ∧ s.canIssue (.qpoll 3#5 4#5) = true ∧ s.own.workers s.issue ≠ []
    ∧ s.own.chan 3 = [[Reg.zero]] ∧ s.own.chan 4 = [] := by decide +kernel
theorem witness_push :
    let s := Tests.net (Tests.two.modCtx 1 fun c => { c with phase := 1 }) (.push 1 2 3 [Reg.zero])
    s.msg 1 = some (Tests.netMsg (.push 1 2 3 [Reg.zero])) ∧ s.keyOf 1 = some 1 ∧ s.keyOf 2 = some 2 ∧ (s.ctx 1).phase = 1
    ∧ (s.ctx 2).chanFill 3 + 1 ≤ 32 := by decide +kernel
theorem witness_msend :
    let s := Tests.thread
    (s.canIssue (.msend 0#3 3#3 0#5 1#5) = true ∧ s.cleanX 0#5 = true ∧ s.cleanX 1#5 = true ∧ s.own.workers s.issue = [0])
    ∧ ((s.own.lane 0).rx 0).v.toNat % 4 = 0 ∧ s.rankIs ((s.own.lane 0).rx 1).v Tests.entry ∧ entryState Tests.entry.toNat = 1
    ∧ entryState Tests.entry.toNat ≠ 3
    ∧ s.own.counterFull .ms = false ∧ s.own.task = none ∧ s.sendFull s.here 1 = false ∧ s.released s.here 3 = true ∧ s.net = [] :=
  ⟨by decide +kernel, by decide +kernel, by unfold State.rankIs; decide +kernel, by decide +kernel⟩
theorem witness_msendHeld :
    let s := Tests.thread.modCtx 0 fun c => { c with task := some ⟨.message Tests.message, some 9, [], []⟩ }
    s.canIssue (.msend 0#3 3#3 0#5 1#5) = true ∧ s.own.task = some ⟨.message Tests.message, some 9, [], []⟩ := by decide +kernel
theorem witness_codelets :
    let s := Tests.codelet
    let x := s.xlatDescriptors s.here s.own s.issue 2#5 [2, 1] fun l => (l.rx 1).v.toNat / 2 ^ 32 ≠ 0
    let y := s.xlatDescriptors s.here s.own s.issue 2#5 [2] fun _ => false
    (s.canIssue (.carm 1#5 2#5 3#5) = true ∧ s.canIssue (.cdec 2#5) = true ∧ s.cleanX 1#5 = true ∧ s.cleanX 2#5 = true ∧ s.own.task = none)
    ∧ x.clean ∧ y.clean ∧ (x.ok ≠ [] ∧ (∀ e, e ∈ x.ok → e.2 ≠ []) ∧ y.ok ≠ [] ∧ (∀ e, e ∈ y.ok → e.2 ≠ []) ∧ s.own.counterFull .ld = false
    ∧ s.own.counterFull .ms = false ∧ s.sendFull s.here y.ok.length = false ∧ s.released s.here 3 = true) :=
  ⟨by decide +kernel, by unfold LaneXl.clean; decide +kernel, by unfold LaneXl.clean; decide +kernel, by decide +kernel⟩
theorem witness_ownerAtomic :
    let r := Tests.tag .carm Tests.sram .core
    let s := (Tests.core.setCore 1 { Core.reset with owners := [r] }).putValue (Tests.sram + 8) 8 0x40 false
    (s.core 1).owners = [r] ∧ (s.core 1).busy ≤ s.unitClk 1 ∧ s.unitHeld 1 = false ∧ s.value r.loc 8 < 2 ^ 32 ∧ (s.core 1).armed < 1024 ∧ s.value (r.loc + 8) 8 ≠ 0 ∧ s.value (r.loc + 8) 8 % 4 = 0 := by
  decide +kernel
/-- An armed descriptor with one count left, and with two. -/
theorem witness_ownerDecrement : ∀ n, n ∈ [1, 2] →
    let s := (Tests.core.setCore 1 { Core.reset with owners := [Tests.tag .cdec Tests.sram .core] }).putValue Tests.sram 8 (n + 2 ^ 32) false
    (s.core 1).owners = [Tests.tag .cdec Tests.sram .core] ∧ field (s.value Tests.sram 8) 32 1 = 1 ∧ field (s.value Tests.sram 8) 0 32 = n := by
  decide +kernel
theorem witness_spawn :
    let s := Tests.thread
    (s.canIssue (.spawn 1#5 2#5 3#5) = true ∧ s.cleanX 1#5 = true ∧ s.cleanX 2#5 = true ∧ s.own.workers s.issue = [0]
      ∧ ((s.own.lane 0).rx 2).v.toNat % 4 = 0 ∧ s.own.task = none ∧ s.own.counterFull .ms = false)
    ∧ (let u := (s.claimAts 0 5 (fun l => ((s.own.lane l).rx 1).v) [0]).1
      s.claimAts (unitOf s.here) (s.own.launch.getD 0) (fun l => ((s.own.lane l).rx 1).v) [0] = (u, [(0, .at_ 0x2008)])
      ∧ u.sendFull s.here 1 = false ∧ u.released s.here 3 = true ∧ u.allAtHome [0x2008 / 128] = true
      ∧ s.own.launch.getD 0 = 5 ∧ u.changingRank 5 1 = false ∧ u.tagRoom 0x2008 1 (s.own.tag s.here) = true
      ∧ (u.claimAll s.here [(0, 0x2008)]).2 = [(0, 0x400004)]) := by decide +kernel
theorem witness_migrate :
    let s := Tests.codelet.modCtx 0 fun c => { c with light := true }
    (s.canIssue (.migrateAddr 2#5) = true ∧ s.own.phase ≠ 1 ∧ s.cleanX 2#5 = true) ∧ s.settled
    ∧ s.xlat s.here 0 (s.own.leadX s.issue 2).v = .ok ⟨Tests.sram, .core, false, Under.none⟩ ∧ coreOf Tests.sram = 1 :=
  ⟨by decide +kernel, by unfold State.settled; decide +kernel, by decide +kernel, by decide +kernel⟩
theorem witness_migrateRank :
    let s := Tests.thread.modCtx 0 fun c => { c with light := true }
    s.canIssue (.migrateRank 1#5) = true ∧ s.cleanX 1#5 = true ∧ s.rankIs (s.own.leadX s.issue 1).v Tests.entry
    ∧ entryState Tests.entry.toNat ≠ 0 ∧ entryState Tests.entry.toNat ≠ 3 ∧ entryPkg Tests.entry.toNat = s.ownPkg ∧ entryCore Tests.entry.toNat = 1
    ∧ s.own.lookAt ≤ s.now s.here :=
  ⟨by decide +kernel, by decide +kernel, by unfold State.rankIs; decide +kernel, by decide +kernel⟩
theorem witness_transit :
    let s := Tests.net ((Tests.two.setLaunch 5 (some Tests.launch)).modCtx 1 fun c => { c with phase := 1 }) (.transit 1 Tests.light 1)
    s.msg 1 = some (Tests.netMsg (.transit 1 Tests.light 1)) ∧ s.keyOf 1 = some 1 ∧ (s.ctx 1).phase = 1
    ∧ (let u := (s.rankHome (unitOf 1) 5 1).1
      (s.rankHome (unitOf 1) 5 1).2 = .at_ 0x2008 ∧ u.atHome 0x2008 = true ∧ u.sendFull 1 1 = false
      ∧ u.changingRank 5 1 = false ∧ u.tagRoom 0x2008 1 ((s.ctx 1).tag 1) = true)
    ∧ (s.core (unitOf 1)).arrivals = [] := by decide +kernel
theorem witness_hendTask :
    let s := Tests.handler
    s.canIssue .hend = true ∧ isHandler s.here = true ∧ s.own.cnt.ld = 0 ∧ s.own.cnt.st = 0 ∧ s.own.task = none := by decide +kernel
theorem witness_hendThread : (Tests.core.canIssue .hend = true ∧ isHandler Tests.core.here = false) ∧ Tests.core.settled
    ∧ Tests.core.own.light = false ∧ (Tests.core.core (unitOf Tests.core.here)).arrivals = [] :=
  ⟨by decide +kernel, by unfold State.settled; decide +kernel, by decide +kernel⟩
theorem witness_yields : Tests.handler.canIssue .yield = true ∧ Tests.core.canIssue .yield = true ∧ isHandler Tests.core.here = false
    ∧ Tests.core.own.light = false ∧ ((Tests.csr fun c => { c with yieldTil := some 0 }).ctx 0).yieldTil = some 0 ∧ 0 ≤ Tests.core.now 0 := by decide +kernel
theorem witness_lookup :
    let s := Tests.net (Tests.two.setLaunch 5 (some Tests.launch)) (.lookup 1 5 9)
    s.msg 1 = some (Tests.netMsg (.lookup 1 5 9)) ∧ s.deliverable (Tests.netMsg (.lookup 1 5 9)) = true
    ∧ ((s.dropMsg 1).readRank (.msg 1) 0 5 9).2 = some .absent ∧ (s.dropMsg 1).keyOf 1 = some 1 := by decide +kernel
theorem witness_heldMessage : ∀ e, e ∈ [0x400001, 0x400003] →
    let b := Body.heldMsg Tests.msgTag
    let s := Tests.net ((Tests.two.setLaunch 5 (some Tests.launch)).putValue 0x2008 8 e false) b
    s.msg 1 = some (Tests.netMsg b) ∧ s.heldBefore 1 Tests.msgTag = false ∧ (Tests.netMsg b).due ≤ s.msgClk (Tests.netMsg b)
    ∧ (s.readRank (.msg 1) (unitOf Tests.msgTag.place) 5 1).2 = some (.entry (BitVec.ofNat 64 e)) ∧ entryState e ≠ 0 := by decide +kernel
theorem witness_admission :
    let s := Tests.net Tests.two (.tagged Tests.msgTag)
    (s.msg 1 = some (Tests.netMsg (.tagged Tests.msgTag)) ∧ s.deliverable (Tests.netMsg (.tagged Tests.msgTag)) = true
      ∧ placesNeeded 0 ≤ 128 - (s.core 1).inq.length) ∧ s.reaches Tests.msgTag :=
  ⟨by decide +kernel, by unfold State.reaches; decide +kernel⟩
/-- A queue with no place left. -/
theorem witness_admissionFull : 128 - (List.replicate 128 Tests.message).length < placesNeeded 0 ∧ 256 - (List.replicate 256 Tests.light).length < placesNeeded 0 := by
  decide +kernel
theorem witness_arrival :
    let s := Tests.net ((Tests.two.setCtx 3 { Ctx.firmware with uid := 3 })) (.tagged Tests.lightTag)
    (s.deliverable (Tests.netMsg (.tagged Tests.lightTag)) = true ∧ s.freeSet 0 = none
      ∧ placesNeeded 0 ≤ 256 - (s.core 0).arrivals.length) ∧ s.reaches Tests.lightTag :=
  ⟨by decide +kernel, by unfold State.reaches; decide +kernel⟩
theorem witness_handlerTask :
    let s := (Tests.core.setCore 0 { Core.reset with inq := [Tests.message] }).setCtx 4 { Ctx.firmware with lanes := [] }
    let t := (Tests.core.setCore 0 { Core.reset with ring := [⟨Tests.sram, 0, 5, 0⟩] }).setCtx 4 { Ctx.firmware with lanes := [] }
    (s.ctx 4).handlerFree = true ∧ (s.core 0).inq = [Tests.message] ∧ s.launchSaved 5 = false ∧ (s.core 0).ring = []
    ∧ s.unitHeld 0 = false ∧ t.unitHeld 0 = false
    ∧ s.awaiting (s.ctx 4) = false ∧ t.awaiting (t.ctx 4) = false ∧ (s.ctx 4).remote = [] ∧ (t.ctx 4).remote = []
    ∧ (t.ctx 4).handlerFree = true ∧ (t.core 0).inq = [] ∧ (t.core 0).ring = [⟨Tests.sram, 0, 5, 0⟩] ∧ t.launchSaved 5 = false := by decide +kernel
/-- A budget that is over, with a load still under way and without. -/
theorem witness_budget :
    let s := Tests.handler.modCtx 4 fun c => { c with task := some ⟨.message Tests.message, some 0, [], []⟩ }
    let t := s.setPend 9 (some ⟨(s.ctx 4).uid, 0, .x 3 2 true, 2, 0, 0, 3, 0, [], 4⟩)
    s.budgetDue Tests.handlerPlace.key = true ∧ s.awaiting (s.ctx 4) = false
    ∧ t.budgetDue Tests.handlerPlace.key = true ∧ t.awaiting (t.ctx 4) = true := by decide +kernel

theorem witness_waveRows : ∀ i, i ∈ [Instr.voteAny 1#5 3#5, .voteAll 1#5 3#5, .ballot 1#5 3#5, .shfl 2#5 1#5 3#5, .shflXor 2#5 1#5 3#5,
      .rdlane 2#5 1#5 3#5, .quadSx 1#5 3#5, .quadSy 1#5 3#5, .quadSd 1#5 3#5, .quadBc 1#5 2#5 3#5, .ishelper 3#5] →
    (Tests.wave.waveRow i).isSome = true ∧ Tests.wave.canIssue i = true := by decide +kernel
/-- `rdlane` of a register that a load is on its way to. -/
theorem witness_rdlaneWaits :
    let s := (Tests.x1 Tests.wave 2 2).setPend 9 (some ⟨4, 2, .x 1 2 true, 2, 0, 0, 3, 0, [], 4⟩)
    s.canIssue (.rdlane 2#5 1#5 3#5) = true ∧ s.own.lead s.issue = some 0
    ∧ s.own.laneAt 0 (((s.own.lane 0).rx 2).v.toNat % 64) = 2
    ∧ Tbl.get false s.own.absent (2 * 128 + 1) = false ∧ s.hazard s.own.uid [2] [1] = true := by decide +kernel
theorem witness_vectors : (Instr.vecRow (.vadd 1#1 1#5 2#5 3#5)).isSome = true ∧ Tests.core.canIssue (.vadd 1#1 1#5 2#5 3#5) = true
    ∧ Tests.core.issue = [0] ∧ Tests.core.canIssue (.vbc 0#1 1#5 2#5) = true := by decide +kernel
/-- The elements at both lengths, with the largest value of each. -/
theorem witness_elements : ([(2 ^ 64 - 1, true), (0, false), (0, true), (1, false)] : List (Nat × Bool)).length = 4
    ∧ (WReg.ofElems true [(2 ^ 64 - 1, true), (0, false), (0, true), (1, false)]).elems true
      = [(2 ^ 64 - 1, true), (0, false), (0, true), (1, false)] := by decide +kernel
theorem witness_sorts : Tests.core.canIssue (.bsort 0#1 2#5 4#5) = true ∧ Tests.core.canIssue (.bmerge 1#1 2#5 4#5 8#5) = true := by decide +kernel
theorem witness_wsyncParks : (Tests.wave.own.ganged = false ∧ Tests.wave.canIssue .wsync = true ∧ Tests.wave.canIssue (.regroup 0#5) = true
    ∧ Tests.wave.cleanX 0#5 = true) ∧ Tests.wave.lanesOrdered ∧ Tests.wave.laneAtWork :=
  ⟨by decide +kernel, by unfold State.lanesOrdered; decide +kernel, 2, by decide +kernel⟩
theorem witness_wsyncPasses : (Tests.whole.canIssue .wsync = true ∧ Tests.whole.own.ganged = false ∧ Tests.whole.storing Tests.whole.here = false)
    ∧ Tests.whole.lanesOrdered ∧ Tests.whole.allHere := by
  refine ⟨by decide +kernel, by unfold State.lanesOrdered; decide +kernel, ?_⟩
  rintro (_ | _ | _ | l) hl
  · exact absurd (by decide +kernel) hl
  · exact absurd (by decide +kernel) hl
  · exact .inl (by decide +kernel)
  · exact .inr rfl
/-- Lanes that the rule releases, with a store of the wave in the queue and without, and none released. -/
theorem witness_wsyncReleases :
    let free := fun (s : State) => (s.own.modLanes s.issue fun _ l => { l with st := .wsync }).freed
    (free Tests.whole ≠ [] ∧ free Tests.wave = [])
    ∧ State.storing { Tests.whole with storeQ := [(64, [{ (⟨0, 4, 0x1000, 8, 5, 0, .cached, true, false, Under.none, none⟩ : SqEnt) with ins := 0 }])] }
        Tests.whole.here = true := by decide +kernel
theorem witness_regroup :
    let s := Tests.wave.modCtx Tests.wavePlace.key fun c =>
      { c with launch := some 5, crew := some 2, lanes := [(0, Tests.ln 4 .regroup), (1, Tests.ln 4 .finished)] }
    let mine := fun (e : Nat × Ctx) => e.2.status != .vacant && e.2.launch == some 5 && e.2.crew == some 2 && !e.2.gath
    s.ctxs.filter mine ≠ [] ∧ s.saved.filter mine = [] ∧ (s.ctxs.map (·.1)).Nodup
    ∧ ∀ e, e ∈ s.ctxs.filter mine → e.2.arrivedAt = some 4 ∧ e.2.status = .resident ∧ s.released e.1 3 = true ∧ e.2.grouped = false
      ∧ e.2.flushWait = false ∧ e.2.missing = [] := by decide +kernel
theorem witness_wavego :
    let s := Tests.memAt
    s.canIssue (.wavego 2#5 0#5) = true ∧ s.cleanX 0#5 = true ∧ s.cleanX 2#5 = true ∧ ((s.own.lane 0).rx 0).v.toNat % 4 = 0 ∧ ((s.own.lane 0).rx 2).v.toNat % 128 = 0
    ∧ s.pieces s.here 0 ((s.own.lane 0).rx 2).v 128 1 = .ok [⟨0, 128, ⟨4096, .cached, false, Under.none⟩⟩] ∧ mapHome .cached = true
    ∧ s.own.cnt.ld = 0 ∧ s.own.cnt.mx = 0 ∧ s.loading s.own = false ∧ s.released s.here 3 = true ∧ s.net.length < 64 := by decide +kernel
theorem witness_tunJoins :
    let s := Tests.net (Tests.binned Tests.bin) (.tun 1 0 0 0x1000 0)
    (s.msg 1 = some (Tests.netMsg (.tun 1 0 0 0x1000 0)) ∧ (s.byUid 1).isSome = true
      ∧ (s.byUid 1).map (fun c => (s.cluster 0).matchBin c 0 0x1000) = some (some (3, Tests.bin)) ∧ Tests.bin.frozen = false
      ∧ (s.cluster 0).gathQ.length < 32
      ∧ ∀ j, j < 16 → j ≠ 3 → Tbl.get none (s.cluster 0).bins j = none) ∧ s.insPresent 1 Tests.bin.ents := by
  refine ⟨by decide +kernel, fun j hj => ?_⟩
  rw [show State.keyOf _ _ = some 1 by decide +kernel] at hj
  cases hj; decide +kernel
theorem witness_tunTakesBin :
    let s := (Tests.net Tests.two (.tun 1 0 0 0x1000 0)).putValue 0x1000 16 (257 + (5 + 6 * 64 + 4096 + 8192) * 2 ^ 64) false
    let c := Tests.two.ctx 1
    let es : List MapEnt := [⟨5, 6, true, true⟩]
    let u := (s.tunMap 0 c 0x1000 0).1
    s.byUid 1 = some c ∧ (s.cluster 0).matchBin c 0 0x1000 = none ∧ s.tunMap 0 c 0x1000 0 = (u, some (.ok es))
    ∧ u.keyOf 1 = some 1 ∧ (u.ctx 1).firstAbsent [0] ((es.filter (·.inn)).map (·.sreg)) = none
    ∧ (List.range 16).find? (fun i => Tbl.get none (u.cluster 0).bins i == none) = some 0
    ∧ (u.cluster 0).bins = [] ∧ (u.cluster 0).binDue (u.clusterClk 0) (c.bin 0 0x1000 es (u.clusterClk 0)) = false := by decide +kernel
theorem witness_tunTimeout :
    let s : State := Tests.binned { Tests.bin with frozen := true }
    Tbl.get none (s.cluster 0).bins 3 = some { Tests.bin with frozen := true } ∧ (s.cluster 0).gathQ.length < 32 := by decide +kernel
theorem witness_wflush : Tests.core.canIssue (.wflush 2#5) = true ∧ Tests.core.own.lead Tests.core.issue = some 0
    ∧ ((Tests.core.own.lane 0).rx 2).p = false ∧ (Tests.core.cluster (clusterOf Tests.core.here)).gathQ.length ≤ 16 := by decide +kernel
theorem witness_gathers :
    let s := Tests.two.setCluster 0 { Tests.two.cluster 0 with gathQ := [Tests.bin] }
    (s.cluster 0).gathQ = [Tests.bin] ∧ s.gatherSlot 0 = some 2048 ∧ (s.cluster 0).bins = [] := by decide +kernel
theorem witness_wret :
    let s := Tests.crossing
    (s.canIssue .wret = true ∧ s.released s.here 3 = true ∧ (s.ctxs.map (·.1)).Pairwise (· < ·) ∧ s.storing s.here = false
      ∧ s.own.workers s.issue = [0] ∧ (s.own.lane 0).origin = some 1 ∧ s.keyOf 1 = some 1 ∧ 1 ≠ s.here
      ∧ ((s.own.ents.filter (·.out)).map (·.sreg)).Nodup ∧ ∀ e, e ∈ s.own.ents → e.out = true → e.sreg ≠ 0) ∧ s.lanesOrdered :=
  ⟨by decide +kernel, by unfold State.lanesOrdered; decide +kernel⟩
theorem witness_waveRetires :
    let s := Tests.wave.modCtx Tests.wavePlace.key fun c => { c with status := .ending }
    let k := Tests.wavePlace.key
    (s.ctx k).status = .ending ∧ (s.ctx k).flushWait = false ∧ (s.ctx k).cnt.ld = 0 ∧ (s.ctx k).cnt.st = 0 ∧ (s.ctx k).cnt.mx = 0 ∧ s.loading (s.ctx k) = false
    ∧ (Tbl.get [] s.storeQ (unitOf k)).any (fun e => e.uid == (s.ctx k).uid) = false
    ∧ (s.l1 (unitOf k)).any (fun l => l.taggedBy (s.ctx k).tagEnt) = false ∧ s.released k 5 = true := by decide +kernel

theorem witness_cplaunch : ∀ m, m ∈ [(0, true), (7, false)] →
    let s := Tests.csr fun c => { c with copy := Tests.par (BitVec.ofNat 64 m.1) 0 0 }
    s.canIssue (.cplaunch 3#5) = true ∧ s.own.workers s.issue ≠ [] ∧ decide (s.launchReason s.here s.own = 0) = m.2
    ∧ s.own.launchBounds s.own.copy = none ∧ s.own.cnt.cp < 16 ∧ s.own.task = none
    ∧ s.draysFull (clusterOf s.here) = false ∧ s.released s.here 3 = true := by decide +kernel
theorem witness_cpstat :
    let s := (Tests.running (Tests.xfer (Tests.par 0 0 0))).modCtx 0 fun c => { c with recent := [9] }
    s.canIssue (.cpstatSelect 1#64) = true ∧ s.canIssue (.cpstatCancel 0x10001#64) = true ∧ s.canIssue (.cpstatRead 3#5) = true
    ∧ s.own.workers s.issue ≠ [] ∧ s.selected { s.own with cpSel := 0x10001#17 } = some (9, Tests.xfer (Tests.par 0 0 0)) := by decide +kernel
/-- A tile unit within its limits, and one beyond them with FILL. -/
theorem witness_tiles :
    let r := Tests.xfer (Tests.par 0 0 0)
    let q := Tests.xfer (Tests.par 0x400 0x1001 0)
    ((Tests.running r).xfer 9 = some r ∧ r.par.modeOf = 0 ∧ r.mayPerform 0 = true ∧ ∀ d, d < 5 → r.par.tileIndex 0 d ≤ r.par.clipL d)
    ∧ q.par.modeOf = 0 ∧ q.mayPerform 3 = true ∧ q.par.clipL 1 < q.par.tileIndex 3 1 ∧ q.par.fill = true := by decide +kernel
theorem witness_indexUnits : ∀ p, p ∈ [Tests.par 1 2 0x3000, Tests.par 2 2 0x3000, Tests.par 3 0x2000008 0x3000] →
    let r := Tests.xfer p
    let s := Tests.running r
    s.xfer 9 = some r ∧ r.mayPerform 0 = true ∧ r.par.limit = 0
    ∧ (match s.drayRead 9 r (r.par.dim + BitVec.ofNat 64 (0 * r.par.idxBytes)) r.par.idxBytes with
        | (_, .ok bs) => bs == [(0, false), (0, false), (0, false), (0, false)]
        | _ => false) = true := by decide +kernel
/-- A scatter whose index lies beyond LIMIT. -/
theorem witness_scatterClips :
    let p : CopyCsrs := { Tests.par 2 2 0x3000 with stride := 0x10000 }
    let s := (Tests.running (Tests.xfer p)).putValue 0x3000 4 1 false
    p.limit = 1 ∧ (Tests.xfer p).mayPerform 0 = true
    ∧ (match s.drayRead 9 (Tests.xfer p) 0x3000 4 with
        | (_, .ok bs) => toSigned 32 (ofBytes (bs.map (·.1))) == 1
        | _ => false) = true := by decide +kernel
theorem witness_podExchange :
    let r := Tests.xfer (Tests.par 4 (8 + 2 ^ 36) 0x3000)
    let s := (Tests.running r).putValue 0x3008 8 0x4000 false
    s.xfer 9 = some r ∧ r.par.modeOf = 4 ∧ r.mayPerform 0 = true ∧ r.par.xnote = false ∧ r.notice = none ∧ 0x4000 % 16 = 0
    ∧ (r.par.own + 1 + 0) % r.par.parts = 1
    ∧ (match s.drayRead 9 r 0x3008 8 with
        | (v, .ok bs) => ofBytes (bs.map (·.1)) == 0x4000 && !bs.any (·.2) && (match v.drayRead 9 r 0x1008 8 with
            | (w, .ok blk) => (match w.drayWrite 9 r 0x4000 blk [] with
                | (_, .ok _) => true
                | _ => false)
            | _ => false)
        | _ => false) = true := by decide +kernel
theorem witness_drayStarts :
    let r := { Tests.xfer (Tests.par 0 0 0) with state := 0 }
    let s := (Tests.running r).setDray 0 { Dray.reset with queue := [9] }
    (s.dray 0).running = none ∧ (s.dray 0).queue = [9] ∧ s.xfer 9 = some r ∧ r.par.modeOf = 0 := by decide +kernel
theorem witness_drayFaults :
    let r := { Tests.xfer (Tests.par 0 0 0) with faultUnit := some 0 }
    (Tests.running r).xfer 9 = some r ∧ r.state = 1 ∧ r.code = 0 ∧ r.faultUnit = some r.done := by decide +kernel
theorem witness_drayCompletes :
    let r := { Tests.xfer (Tests.par 0 0 0) with done := 1 }
    let s := Tests.running r
    s.xfer 9 = some r ∧ r.ended = true ∧ r.par.clipMsg = false ∧ s.keyOf r.uid = some 0 ∧ (s.ctxs.map (·.1)).Pairwise (· < ·) := by
  decide +kernel
theorem witness_sfence :
    let s := Tests.core
    s.canIssue (.sfenceVma 0#5 1#5) = true ∧ s.own.lead s.issue = some 0 ∧ s.shootOf s.own.uid = none ∧ s.released s.here 3 = true := by
  decide +kernel
theorem witness_sfenceEnds :
    let b := Body.shoot 0 none none [] 1
    let s := Tests.net Tests.core b
    s.canIssue (.sfenceVma 0#5 0#5) = true ∧ s.shootOf s.own.uid = some (Tests.netMsg b, none, none, [], 1) ∧ s.olderAccess 1 = false := by
  decide +kernel
theorem witness_shootdown :
    let b := Body.shoot 0 none none [1] 1
    (Tests.net Tests.core b).msg 1 = some (Tests.netMsg b) ∧ ([1] : List Nat).contains 1 = true := by decide +kernel
theorem witness_rtabSet : ∀ n, n ∈ [0, 1] →
    let s := Tests.thread.modCtx 0 fun c => { c with phase := n }
    let v := ((s.own.lane 0).rx 2).v
    let w := ((s.own.lane 0).rx 1).v
    let u := (s.rtabCheck (unitOf s.here) s.own v w).1
    s.canIssue (.rtabSet 1#5 2#5) = true ∧ s.own.lead s.issue = some 0 ∧ s.own.launch = some 5 ∧ s.lookingUp 5 = false
    ∧ s.rtabCheck (unitOf s.here) s.own v w = (u, .go) ∧ u.released s.here 3 = true ∧ (u.launch 5).isSome = true := by decide +kernel
theorem witness_ctxTag :
    let s := Tests.x1 Tests.core 2 5
    s.canIssue (.ctxTag 2#5) = true ∧ s.own.lead s.issue = some 0 ∧ bits 47 17 ((s.own.lane 0).rx 2).v = 0#17
    ∧ (s.l1 (unitOf s.here)).any (fun x => x.taggedBy s.own.tagEnt) = false
    ∧ s.inFlight.any (fun m => s.relMsg s.own.uid (dieOf s.here) 5 m) = false := by decide +kernel
theorem witness_islands :
    let s := Tests.x1 Tests.core 1 1
    (∀ i, i ∈ [Instr.islandQuery 2#5 1#5 3#5, .islandSetPoint 2#5 1#5 3#5, .islandGate 2#5 1#5 3#5, .islandUngate 2#5 1#5 3#5] →
      s.canIssue i = true)
    ∧ s.own.lead s.issue = some 0 ∧ ((s.own.lane 0).rx 1).v.toNat = 1 ∧ bits 6 58 ((s.own.lane 0).rx 2).v = 0#58 ∧ 1 / 64 < s.dies
    ∧ s.islandReq s.own.uid = none ∧ s.islandBusy 1 s.nextId = false ∧ 1 ≠ unitIsland (unitOf s.here)
    ∧ (∀ u, u ∈ islandUnits 1 → (∀ p, p ∈ unitPlaces u → (s.ctx p).region = none) ∧ s.unitHolds u = false ∧ s.unitWriting u = false ∧ s.l1 u = []) := by decide +kernel
/-- A query of an island whose request of another context is on its way. -/
theorem witness_islandQuery :
    let s := Tests.net (Tests.x1 Tests.core 1 1) (.island 7 1 1 [0] 3 5 false)
    s.canIssue (.islandQuery 2#5 1#5 3#5) = true ∧ s.islandBusy 1 s.nextId = true ∧ s.islandReq s.own.uid = none := by decide +kernel
theorem witness_islandAnswers : ∀ op, op ∈ [1, 3] →
    let b := Body.island 1 2 op [0] 3 5 false
    let s := Tests.net (Tests.two.modCtx 1 fun c => { c with phase := 2 }) b
    s.msg 1 = some (Tests.netMsg b) ∧ s.islandBusy 2 1 = false ∧ s.keyOf 1 = some 1 ∧ (s.ctx 1).phase = 2 := by decide +kernel
/-- At the size of the queue, and above it. -/
theorem witness_doorbell : (bits 0 32 1#64 - (Tests.core.queue 0).head).toNat ≤ 2 ^ (bits 1 4 (Tests.core.queue 0).ctl).toNat
    ∧ 2 ^ (bits 1 4 (Tests.core.queue 0).ctl).toNat < (bits 0 32 2#64 - (Tests.core.queue 0).head).toNat := by decide +kernel
/-- THR at 8 and at 64, TMO at 64; THR at 7. -/
theorem witness_tunctl : (∀ v, v ∈ [8 + 64 * 256, 64 + 64 * 256] → 8 ≤ (bits 0 7 (BitVec.ofNat 64 v)).toNat
      ∧ (bits 0 7 (BitVec.ofNat 64 v)).toNat ≤ 64 ∧ 64 ≤ (bits 8 16 (BitVec.ofNat 64 v)).toNat)
    ∧ (bits 0 7 (BitVec.ofNat 64 7)).toNat < 8 := by decide
theorem witness_slpin : Tests.core.mgmt.bootst.getLsbD 5 = false ∧ (0#64).getLsbD 0 = false
    ∧ (1#64).getLsbD 0 = true ∧ homeSlice (0 / 64 * 2 ^ 38 + (bits 16 22 1#64).toNat * 65536) = 0 % 64 ∧ (Tests.core.slice 0).slpin = [] := by
  decide +kernel
/-- A frame whose home is another slice, one that is pinned already, and minimal mode. -/
theorem witness_slpinDiscards :
    let t := Tests.core.setSlice 0 { Tests.core.slice 0 with slpin := [(3, 1#64)] }
    ((1#64 + 0x10000#64).getLsbD 0 = true ∧ homeSlice (0 / 64 * 2 ^ 38 + (bits 16 22 (0x10001#64)).toNat * 65536) ≠ 0 % 64)
    ∧ ((Tbl.get 0 (t.slice 0).slpin 3).getLsbD 0 = true ∧ bits 16 22 (Tbl.get 0 (t.slice 0).slpin 3) = bits 16 22 1#64)
    ∧ ({ Tests.core.mgmt with bootst := 0x20 } : Mgmt).bootst.getLsbD 5 = true := by decide +kernel
theorem witness_wendNone : ∀ k, k ∈ waveSlots 0 → (Tests.core.ctx k).status ≠ .resident := by decide +kernel
/-- `arbctl` of cluster 0, with both fields at least 1, and with each field 0. -/
theorem witness_arbctl : Tests.core.devReg 0x9000002000008 = some (.arbctl 0)
    ∧ (bits 0 4 0x11#64 ≠ 0#4 ∧ bits 4 4 0x11#64 ≠ 0#4) ∧ bits 0 4 0x10#64 = 0#4 ∧ bits 4 4 0x0F#64 = 0#4 := by decide +kernel
theorem witness_wend :
    let s := Tests.wave
    (waveSlots 0).find? (fun k => (s.ctx k).status == .resident
        && (waveIdOf k (s.ctx k) 0 == waveIdOf 2048 (s.ctx 2048) 0 || waveIdOf k (s.ctx k) 63 == waveIdOf 2048 (s.ctx 2048) 0)) = some 2048
    ∧ waveIdOf 2048 (s.ctx 2048) 0 < 2 ^ 64 := by decide +kernel
theorem witness_registers : Tests.core.devReg 0 = none := by decide +kernel

theorem witness_packets :
    let s := Tests.ready
    (s.mgmt.bootst.getLsbD 4 = true ∧ (s.queue 0).ctl.getLsbD 0 = true ∧ (s.queue 0).head ≠ (s.queue 0).tail ∧ s.headPacket 0 = none
      ∧ isHost (s.queue 0).slot = false ∧ isHbm s.dies (s.queue 0).slot = true ∧ s.atHome (s.queue 0).slot = true)
    ∧ (s.packetAt 0).type = 0 := by decide +kernel
/-- A packet of a launch, and one of an unknown type. -/
theorem witness_packetKinds :
    let s := Tests.ready.putValue (Tests.ready.queue 0).slot 16 (0x10051 + 2 ^ 64) false
    let t := Tests.ready.putValue (Tests.ready.queue 0).slot 8 3 false
    (s.packetAt 0).type = 1 ∧ (s.packetAt 0).reason s.dies 3 = 0 ∧ (t.packetAt 0).type = 3 ∧ (t.packetAt 0).reason t.dies 3 = 1
    ∧ (let u := t.putValue ((t.queue 0).slot + 88) 8 0x5000 false
      (u.packetAt 0).reason u.dies 3 = 1 ∧ (u.packetAt 0).d 11 = 0x5000 ∧ (u.signal 0 0x5000 (BitVec.ofNat 64 (2 ^ 63 + 1))).2 = true) := by
  decide +kernel
theorem witness_signals : isHbm Tests.ready.dies 0x5000 = true ∧ Tests.ready.mark (0x5000 / 128) ≠ .lost ∧ Tests.ready.atHome 0x5000 = true
    ∧ Tests.ready.inRedWindow 0x5000 = false := by decide +kernel
theorem witness_marker :
    let v := { Tests.held (2 :: List.replicate 15 0) with marker := true }
    let s := Tests.ready.setLaunch 5 (some v)
    s.headPacket 0 = some (5, v) ∧ v.marker = true ∧ s.running 0 = false ∧ (s.signal 0 (v.d 11) (v.d 12)).2 = true := by decide +kernel
theorem witness_launchAdmission :
    let v := Tests.held Tests.packet
    let s := Tests.head Tests.packet
    let u := (s.tableBad 5 v).1
    let w := ((u.installTable 5 v).ranksCheck 5 v).1
    s.heads = [(5, v)] ∧ v.marker = false ∧ v.cancelled = false ∧ v.ser = false ∧ s.floorWaits = false ∧ s.tableBad 5 v = (u, some false)
    ∧ (u.installTable 5 v).ranksCheck 5 v = (w, .at_ []) ∧ v.cls ≠ 0
    ∧ ((w.setLaunch 5 (some v)).tryAdmit 5 v []).isSome = true := by decide +kernel
theorem Tests.put_slices (s : State) (a n v : Nat) (p : Bool) : (s.putValue a n v p).slices = s.slices := by
  induction n generalizing s a v with
  | zero => rfl
  | succ n ih => exact (ih _ _ _).trans rfl
theorem Tests.msix_slices (s : State) (q : Nat) : (s.msix q).slices = s.slices := by
  unfold State.msix; simp only []; split <;> rfl
/-- A signal to a line at its home leaves no line held. -/
theorem Tests.signalled {s : State} {q : Nat} {v : Word} {who : Agent}
    (h : (isHbm s.dies 0x5000 && !(s.mark (0x5000 / 128) == .lost) && s.atHome 0x5000 && !s.inRedWindow 0x5000 && s.slices.isEmpty) = true) :
    (s.signal q 0x5000 v).1.heldLines who = [] := by
  simp only [Bool.and_eq_true, Bool.not_eq_true', List.isEmpty_iff] at h
  obtain ⟨⟨⟨⟨h1, h2⟩, h3⟩, h4⟩, h5⟩ := h
  have e : (s.signal q 0x5000 v).1 = (s.putValue 0x5000 8 v.toNat false).msix q := by
    unfold State.signal State.inTurn
    have a : (0x5000 : Word).toNat = 0x5000 := rfl
    have b : isHost 0x5000 = false := by decide
    simp only [a, b, h1, h2, h3, h4]; rfl
  rw [e]; unfold State.heldLines; rw [Tests.msix_slices, Tests.put_slices, h5]; rfl
/-- A table that cannot be read, ranks that are occupied, and a cancelled packet, each with an address for its signal. -/
theorem witness_rejection :
    let v := Tests.held ([0x10051, 1, 0, 0, 0, 0x200000000000, 1] ++ List.replicate 4 0 ++ [0x5000] ++ List.replicate 4 0)
    let s := Tests.ready.setLaunch 5 (some v)
    (s.heads = [(5, v)] ∧ v.marker = false ∧ v.ser = false ∧ s.floorWaits = false ∧ (s.tableBad 5 v).2 = some true ∧ v.d 11 = 0x5000
    ∧ ((s.tableBad 5 v).1.signal 0 0x5000 (BitVec.ofNat 64 (2 ^ 63 + 8))).2 = true
    ∧ (s.signal 0 (({ v with cancelled := true } : Launch).d 11) (BitVec.ofNat 64 (2 ^ 63 + 7))).2 = true)
    ∧ ((s.tableBad 5 v).1.signal 0 0x5000 (BitVec.ofNat 64 (2 ^ 63 + 8))).1.heldLines (.queue 0) = []
    ∧ (s.signal 0 0x5000 (BitVec.ofNat 64 (2 ^ 63 + 7))).1.heldLines (.queue 0) = [] :=
  ⟨by decide +kernel, Tests.signalled (by decide +kernel), Tests.signalled (by decide +kernel)⟩
theorem witness_rankRejection :
    let v := Tests.held ([0x41, 2 ^ 32, 0, 0, 0, 0x2000, 8] ++ List.replicate 4 0 ++ [0x5000] ++ List.replicate 4 0)
    let s : State := (Tests.ready.setLaunch 5 (some v)).putValue 0x2000 8 0x400001 false
    let u := (s.tableBad 5 v).1
    let r := (u.installTable 5 v).ranksCheck 5 v
    ((s.tableBad 5 v).2 = some false ∧ v.threads = 1
    ∧ (match r.2 with
        | .bad n => n != 0 && ((r.1.setLaunch 5 (some v)).signal 0 0x5000 (BitVec.ofNat 64 (2 ^ 63 + n))).2
        | _ => false) = true)
    ∧ ∀ n, ((r.1.setLaunch 5 (some v)).signal 0 0x5000 (BitVec.ofNat 64 (2 ^ 63 + n))).1.heldLines (.queue 0) = [] :=
  ⟨by decide +kernel, fun _ => Tests.signalled (by decide +kernel)⟩
/-- A concurrent launch whose thread takes the whole cluster SRAM that its crew asks for. -/
theorem witness_reason5 :
    let v := Tests.held ([0x10021 + 0x800000 * 2 ^ 24, 1 + 2 ^ 32, 0, 0, 0, 0x2000, 8, 0, 0, 0, 1 + 0x800000 * 256, 0x5000]
      ++ List.replicate 4 0)
    let s := Tests.ready.setLaunch 5 (some v)
    let u := (s.tableBad 5 v).1
    let w := ((u.installTable 5 v).ranksCheck 5 v).1
    let x := (w.setLaunch 5 (some v)).signal 0 0x5000 (BitVec.ofNat 64 (2 ^ 63 + 5))
    (s.heads = [(5, v)] ∧ v.marker = false ∧ v.cancelled = false ∧ v.ser = false ∧ v.cls = 0 ∧ s.floorWaits = false
    ∧ s.tableBad 5 v = (u, some false) ∧ (u.installTable 5 v).ranksCheck 5 v = (w, .at_ [0x2000])
    ∧ (w.setLaunch 5 (some v)).emptied.tryAdmit 5 v [0x2000] = none ∧ x.2 = true) ∧ x.1.heldLines (.queue 0) = [] :=
  ⟨by decide +kernel, Tests.signalled (by decide +kernel)⟩
theorem witness_placement : Tests.core.heads = [] ∧ (Tests.core.setLaunch 5 (some Tests.launch)).launch 5 = some Tests.launch
    ∧ Tests.launch.admitted = true ∧ Tests.launch.saved = false
    ∧ (Tests.core.setLaunch 5 (some Tests.launch)).floorWaits = false := by decide +kernel
/-- A launch with one rank that is still occupied, and one whose ranks are all vacant. -/
theorem witness_completion : ∀ n, n ∈ [0, 1] →
    let v := { Tests.launch with words := [0x41, 2 ^ 32] ++ List.replicate 14 0, threadsPlaced := 1, vacated := n }
    let s := Tests.core.setLaunch 5 (some v)
    let u := (s.entryStep (.queue v.queue) none 0 5 (v.rank0 + v.vacated) 0 .vacate).1
    v.threads = 1 ∧ s.launchDone 5 v = true ∧ s.handlerLines = [] ∧ s.handlersWritten = true
    ∧ (s.entryStep (.queue v.queue) none 0 5 (v.rank0 + v.vacated) 0 .vacate).2 = true ∧ u.launch 5 = some v
    ∧ (s.freeLaunch 5).heldFor (.queue v.queue) (v.d 11).toNat = false
    ∧ ((s.freeLaunch 5).signal v.queue (v.d 11) (v.d 12)).2 = true := by decide +kernel
theorem witness_preemption :
    let v := { Tests.launch with words := [0x10351, 1] ++ List.replicate 14 0 }
    let s := (Tests.core.setLaunch 5 (some Tests.launch)).setLaunch 6 (some v)
    let s := [64, 65, 66, 67].foldl (fun (s : State) u => (List.range 16).foldl (fun s i =>
      s.setCtx (u * 32 + i) { Ctx.firmware with uid := u * 16 + i, launch := some 5, crew := some 1 }) s) s
    let s : State := { s with dies := 1, mgmt := { s.mgmt with bootst := 0x20 } }
    s.launch 6 = some v ∧ s.wantsRoom 6 v = true
    ∧ s.nextVictim (fun t => t.goesOn 6 v) (s.victims 6 fun y => decide (y.prio < v.prio)) = some 5 ∧ s.launch 5 = some Tests.launch := by
  decide +kernel
theorem witness_floorShare :
    let v := { Tests.launch with saved := true }
    let s : State := { Tests.core.setLaunch 5 (some v) with clk := 7 * 262144 }
    let u := s.setLaunch 5 (some { v with savedAt := s.clk + 262144, floorEnd := some (s.clk + 262144) })
    s.launch 5 = some v ∧ v.cls = 0 ∧ v.saved = true ∧ v.savedAt + 7 * 262144 ≤ s.clk
    ∧ u.nextVictim (fun t => t.allFit 5) (u.victims 5 fun y => y.prio ≠ v.prio || y.cls ≠ 1) = none := by decide +kernel
theorem witness_demotion :
    let s : State := { Tests.csr (fun c => { c with demoted := some 0 }) with clk := 1024 }
    (s.ctx Tests.place.key).demoted = some 0 ∧ 0 + 1024 ≤ s.now Tests.place.key := by decide +kernel
theorem witness_saves :
    let s := Tests.csr fun c => { c with mode := .u, preempt := true, area := some 0x100000 }
    s.boundaryEvent Tests.place = some (.hardwareSave Tests.place) ∧ (s.ctx Tests.place.key).block = none
    ∧ (s.ctx Tests.place.key).lease = .idle ∧ s.loading (s.ctx Tests.place.key) = false ∧ (s.ctx Tests.place.key).forced = []
    ∧ s.areaFor Tests.place.key = some 0x100000
    ∧ s.allAtHome (areaLines (isWave Tests.place.key) 0x100000) = true ∧ (s.ctxs.map (·.1)).Pairwise (· < ·) := by decide +kernel
/-- A saved context, and a place in its cluster. -/
theorem witness_resumes :
    let c := { Ctx.firmware with uid := 3, area := some 0x100000 }
    let s := Tests.core.setSaved 0x100000 c
    (Tbl.get Ctx.vacant s.saved 0x100000).status = .resident ∧ s.fits c 1 = true ∧ c.launch = none ∧ s.unsynced c.uid = false
    ∧ s.allAtHome (areaLines (isWave 1) 0x100000) = true
    ∧ 0 < tagCount (unitOf 1) ∧ s.tagEnts (unitOf 1) = [] := by decide +kernel
theorem witness_absent :
    let s := Tests.csr fun c => { c with area := some 0x100000, absent := [(5, true), (37, true), (69, true)] }
    (s.ctx 0).status = .resident ∧ (s.ctx 0).flushWait = false ∧ Tbl.get false (s.ctx 0).absent (0 * 128 + (0 * 32 + 5)) = true
    ∧ Tbl.get false (s.ctx 0).absent (0 * 128 + (1 * 32 + 5)) = true ∧ Tbl.get false (s.ctx 0).absent (0 * 128 + (2 * 32 + 5)) = true
    ∧ ∀ r, r ∈ [5, 37, 69] → s.fetchFails 0 0 r = false
      ∧ s.allAtHome ((areaPlaces (isWave 0) 0x100000 0 r).map (· / 128)) = true := by
  decide +kernel
/-- In an armed region. -/
theorem witness_absentArmed :
    let s := Tests.csr fun c => { c with area := some 0x100000, absent := [(5, true)], lease := .armed Tests.region }
    (s.ctx 0).status = .resident ∧ (s.ctx 0).flushWait = false ∧ Tbl.get false (s.ctx 0).absent 5 = true ∧ s.fetchFails 0 0 5 = false
    ∧ (s.ctx 0).lease = .armed Tests.region := by decide +kernel
theorem witness_watchdogWaits : (Tests.net Tests.core (.shoot 0 none none [] 1)).shootOf 0 ≠ none := by decide +kernel
theorem witness_watchdog :
    let s : State := { Tests.csr (fun c => { c with mode := .s, dog := some 0 }) with clk := 1000000 }
    (s.shootOf (s.ctx 0).uid = none ∧ (s.ctx 0).task = none) ∧
    (s.ctx 0).dog = some 0 ∧ 0 + 1000000 ≤ s.now 0 ∧ (s.ctx 0).status = .resident ∧ (s.ctx 0).executing ≠ [] ∧ (s.ctx 0).block = none
    ∧ (s.ctx 0).lease = .idle := by decide +kernel
theorem witness_host :
    let s := Tests.core
    (s.port.queue = [] ∧ s.hostTo 0x1000 8 = .hbm 0x1000 ∧ s.l1Owned (lineRange 0x1000 8) = [] ∧ ∀ i, i < 8 → s.inRedWindow (0x1000 + i) = false)
    ∧ s.hostTo (2 ^ 40 + 0x8018) 8 = .reg .mchead ∧ s.inRedWindow 0x1000 = false ∧ s.hostTo (2 ^ 41) 8 = .unsupported
    ∧ State.l1Owned (s.dirSet 32 (some ⟨32, 0, false, 1, [], none⟩)) (lineRange 0x1000 8) ≠ [] ∧ s.heldLines .host = [] := by
  decide +kernel
/-- A request that waits for the recall of its line, and one that comes behind it. -/
theorem witness_hostQueue :
    let r : HostReq := ⟨0x1000, 8, .read⟩
    let s : State := { Tests.core.dirSet 32 (some ⟨32, 0, true, 1, [], none⟩) with port := { Tests.core.port with queue := [r] } }
    s.port.queue = [r] ∧ (s.serveReq r).2 = false := by decide +kernel
/-- A line of the host that core 0 holds Dirty, and core 1 Valid. -/
theorem witness_snoop :
    let n := 0xA000000000000 / 128
    let s := (Tests.core.putLine 0 (Tests.line n .dirty)).putLine 1 (Tests.line n .valid)
    isHost (n * 128) = true ∧ (s.l1d.map (·.1)).Pairwise (· < ·) ∧ s.l1Line 0 n = some (Tests.line n .dirty)
    ∧ s.l1Line 1 n = some (Tests.line n .valid) ∧ (Tests.line n .dirty).marked = false ∧ (Tests.line n .dirty).fill = true
    ∧ (Tests.line n .dirty).poison = 0 ∧ (Tests.line n .dirty).mask ≠ 0 := by decide +kernel
theorem witness_spanPort :
    let s : State := { Tests.core with mgmt := { Tests.core.mgmt with podcfg := 0x100000 } }
    (0 : Nat) < 16 ∧ s.mgmt.portsDown.contains 0 = false ∧ (bits 16 5 s.mgmt.podcfg).toNat ≠ 0 := by decide +kernel
/-- A link with nothing on its way, and one that a line's reply is on its way over. -/
theorem witness_laneRepair :
    let b := Body.lineFill 0 32 5 0 none
    let s := Tests.net Tests.core b
    Tests.core.linkInReset 0 = false ∧ Tests.core.linkIs 0 = 0 ∧ Tests.core.mgmt.linkState = [] ∧ Tests.core.net = []
    ∧ s.linkIs 0 = 0 ∧ s.linkInReset 0 = false
    ∧ State.onLink s 0 { Tests.netMsg b with loc := 2 ^ 38 } = true ∧ 1 < s.nextId := by decide +kernel
theorem witness_errors :
    let s : State := { Tests.core with clk := 1900000000 }
    (s.mgmt.errors = [] ∧ s.mgmt.sampleAt + 1900000000 ≤ s.clk) ∧ isHbm s.dies (32 * 128) = true ∧ s.mark (s.canon (32 * 128) / 128) = .clean
    ∧ (Tests.hit.l1Line 0 32).map (·.st) = some .valid ∧ isWindowLoc Tests.winLoc = true ∧ (s.ctx 0).status = .resident := by decide +kernel
/-- A unit in start-up; one that is due for its test with its work gone; and one that a context holds. -/
theorem witness_units :
    ({ Tests.core.mgmt with bootAt := some 0, bootst := 3 } : Mgmt).testing = true
    ∧ Mgmt.mayTest { Tests.core.mgmt with bootAt := some 0, bootst := 3 } (sparedWith 0) 0 = true
    ∧ (let s : State := { Tests.two with mgmt := { Tests.two.mgmt with bootst := 0x17, testDue := [0, 5, 2 ^ 22] } }
      let t : State := { s with mgmt := { s.mgmt with moving := [(2 ^ 22, true)] } }
      s.mgmt.mayTest (2 ^ 22) s.clk = true ∧ isHbmUnit (2 ^ 22) = true ∧ s.mgmt.retired.contains (2 ^ 22) = false
      ∧ (∀ e ∈ s.mgmt.moving, e.1 ≠ 2 ^ 22) ∧ (2 ^ 22, true) ∈ t.mgmt.moving ∧ t.mgmt.mayTest (2 ^ 22) t.clk = true
      ∧ targetUnit (s.canon 0) = 2 ^ 22 ∧ isHbm s.dies (s.canon 0) = true
      ∧ s.mgmt.testing = false ∧ s.mgmt.mayTest 5 s.clk = true ∧ sparedWith 5 = 5 ∧ isHbmUnit (sparedWith 5) = false
      ∧ s.mgmt.retired.contains (sparedWith 5) = false ∧ s.moved (sparedWith 5) = true
      ∧ s.mgmt.mayTest 0 s.clk = true ∧ sparedWith 0 = 0 ∧ s.mgmt.retired.contains (sparedWith 0) = false ∧ s.moved (sparedWith 0) = false
      ∧ (unitMembers (sparedWith 0)).any s.holdsWork = true ∧ s.mgmt.hasSpare (sparedWith 0) = true)
    ∧ (0#4).toNat < (({ Island.reset with point := 3 } : Island)).point.toNat
    ∧ (Tests.core.setIsland 0 { Island.reset with point := 3 }).island 0 = { Island.reset with point := 3 } := by
  decide +kernel
/-- The first step, one that may fail, and the last one; the counts of a die that are met and that are not; a start that has gone on for 10 s. -/
theorem witness_startUp :
    let s : State := { State.reset with mgmt := { State.reset.mgmt with bootAt := some 0, bootst := 3 }, clk := 19000000000 }
    let t : State := { State.reset with mgmt := { State.reset.mgmt with bootAt := some 0, bootst := 6 } }
    bootReady State.reset.mgmt = false ∧ State.reset.nextStep = 1 ∧ bootReady s.mgmt = false ∧ s.nextStep = 4
    ∧ s.mgmt.countsMet = true ∧ Mgmt.countsMet { s.mgmt with retired := [5] } = false
    ∧ s.mgmt.bootAt = some 0 ∧ 0 + 19000000000 ≤ s.clk ∧ bootReady t.mgmt = false ∧ t.nextStep = 7 := by decide +kernel
theorem witness_coreReset : (Tests.core.breakAndFlush [0]).unitWriting 0 = false := by decide +kernel

/-- A matrix instruction issues and passes its checks. -/
def Tests.mxOk (s : State) (i : Instr) : Bool := s.canIssue i && (match s.matrixRow 0 i with
    | .ok r => r.1.slot == 0
    | .error _ => false)
theorem witness_mma : Tests.mxOk Tests.mma (.mma 2#5 1#5 0#5) = true := by decide +kernel
theorem witness_mmaSp : Tests.mxOk Tests.mmaSp (.mmaSp 6#5 2#5 1#5 0#5) = true := by decide +kernel
theorem witness_slots : Tests.mxOk Tests.mxRegs (.mzero 0#5) = true ∧ Tests.mxOk Tests.mxRegs (.mlink 5#5 0#5) = true
    ∧ Tests.mxOk Tests.mxRegs (.msave 4#5 0#5) = true ∧ Tests.mxOk Tests.mrest (.mrest 4#5 0#5) = true
    ∧ Tests.mxOk Tests.epi (.epi 3#5 0#5) = true := by decide +kernel
theorem witness_matrixQueue :
    let s := Tests.mxRegs
    s.own.lead s.issue = some 0 ∧ s.mgmt.badBytes = [] ∧ s.windowDone s.here = true ∧ s.released s.here 1 = true
    ∧ s.own.counterFull .mx = false ∧ (s.engine (unitOf s.here)).queue.length < 8 := by decide +kernel
theorem witness_matrixStart :
    let o := Tests.mxOp .mzero
    (((Tests.queued o).engine 64).queue)[0]? = some o ∧ o.started = false ∧ ((Tests.queued o).engine 64).mayStart 0 o = true := by decide +kernel
theorem witness_matrixEnd :
    let o := { Tests.mxOp .mzero with started := true }
    let s := Tests.queued o
    let u := (s.mxWrite 64 o).1
    let w := ((u.setEngine 64 ((u.engine 64).modOp 0 fun o => { o with written := true })).mxArrive 64 o).1
    (s.engine 64).queue[0]? = some o ∧ o.written = false ∧ s.mgmt.badBytes = [] ∧ (s.mxWrite 64 o).2 = true
    ∧ ((u.setEngine 64 ((u.engine 64).modOp 0 fun o => { o with written := true })).mxArrive 64 o).2 = true
    ∧ w.keyOf o.uid = some 2048 := by decide +kernel
/-- The other works of a queue entry: `mlink` to the other wave, an `mma` of FP8 operands, an `epi` that frees its slots, an `msave`. -/
theorem witness_matrixWrites :
    (Tests.mxOp (.mlink 5)).work = .mlink 5 ∧ Tests.mxRegs.keyOf 5 = some 2049 ∧ (Tests.mxOp .mzero).tag ≠ .pair
    ∧ ({ Tests.mxOp .mzero with tag := .pair } : MxOp).tag = .pair
    ∧ (epiDesc [0, 2 ^ 35]).after = 2 := by decide +kernel
/-- An `epi` of a tile of FP32 that lies beside its bias, and the area of an `msave` or `mrest` in the window. -/
theorem witness_matrixTiles :
    let d := epiDesc [BitVec.ofNat 64 (Tests.winVa 0x200000), 512 + 2 ^ 30, 0, BitVec.ofNat 64 (Tests.winVa 0x100)]
    let o := Tests.mxOp .mzero
    d.bad = false ∧ fmtMx d.fmt = false ∧ fmtBits d.fmt ≠ 4 ∧ d.daddr.toNat % 2 ^ 40 + d.height * d.pitch ≤ 2 ^ 40
    ∧ d.bmode ≠ 0 ∧ o.winBase + d.baddr.toNat % 2 ^ 40 + 512 ≤ o.tileAt d 0 0 ∧ 0 < d.height ∧ 0 < d.width
    ∧ Tests.mxRegs.ownedLines [] (o.area 0) = [] ∧ o.slots[0]? = some 0 := by decide +kernel
theorem witness_areaPlaces :
    let va : Word := BitVec.ofNat 64 (Tests.winVa 0x100000)
    va.toNat % 128 = 0 ∧ ∀ x y, x < 1 * areaBytes → y < 1 * areaBytes → opLoc 0 [] (va.toNat + x) = opLoc 0 [] (va.toNat + y) → x = y := by
  have hv : (BitVec.ofNat 64 (Tests.winVa 0x100000)).toNat = 0xFFFFFE0000100000 := by decide
  have w : ∀ z, z < 1 * areaBytes → opLoc 0 [] (0xFFFFFE0000100000 + z) = 0x100000 + z := fun z hz => by
    have hz : z < 67712 := by simpa [areaBytes] using hz
    have h : inWindow (BitVec.ofNat 64 (0xFFFFFE0000100000 + z)) = true := by
      simp only [inWindow, BitVec.toNat_ofNat, ge_iff_le, decide_eq_true_eq]; omega
    simp only [opLoc, h, if_true]; omega
  refine ⟨by decide +kernel, fun x y hx hy h => ?_⟩
  simp only [hv, w x hx, w y hy] at h; omega
def Tests.predOk (s : State) (kind : Nat) (a : BitVec 5) (i : Instr) : Bool := s.canIssue i &&
  (match s.predIssueCheck s.here s.own kind a ((s.own.lane 0).rx a.toNat) with
    | .ok p => p.pages == []
    | .error _ => false)
theorem witness_predictor :
    Tests.predOk Tests.pred 0 7#5 (.pred 7#5) = true ∧ Tests.predOk Tests.union 1 8#5 (.punion 8#5) = true
    ∧ Tests.predOk Tests.check 2 9#5 (.sparge 9#5) = true
    ∧ Tests.pred.mgmt.badBytes = [] ∧ Tests.pred.windowDone Tests.pred.here = true ∧ Tests.pred.released Tests.pred.here 3 = true ∧ (Tests.pred.cluster (clusterOf Tests.pred.here)).preds.length < 16 := by decide +kernel
theorem witness_predictorRuns : ∀ b, b ∈ [false, true] →
    let o : PredOp := ⟨4, 0, [], [], [], 0, b, 0, []⟩
    let s := Tests.mxRegs.setCluster 0 { Tests.mxRegs.cluster 0 with preds := [o] }
    (s.cluster 0).preds = [o] ∧ o.started = b ∧ s.mgmt.badBytes = [] ∧ s.ownedLines o.pages o.reads = [] ∧ s.keyOf o.uid = some 2048 := by decide +kernel

/-! The memory system's events. -/
def Tests.brought (s : State) (b : Body) : Bool := (Tests.net s b).msg 1 == some (Tests.netMsg b) && (Tests.net s b).deliverable (Tests.netMsg b)
/-- A message to a line. -/
def Tests.toLine (s : State) (line : Nat) (b : Body) : State := { s with net := [{ Tests.netMsg b with loc := line * 128 }], nextId := 2 }
theorem witness_homes :
    (Tests.brought Tests.core (.lineRead 0 0) = true ∧ Tests.brought Tests.core (.read [⟨3, 0, 0, 8⟩] .cached) = true
      ∧ Tests.brought Tests.core (.write 0 0 0 5 1 0 .cached true none) = true ∧ Tests.brought Tests.core (.own 0 0 0) = true)
    ∧ (Tests.net Tests.core (.own 0 0 0)).unclaimed 0 ∧ (Tests.core.dirSetOf 0).length < 16 :=
  ⟨by decide +kernel, by unfold State.unclaimed; decide +kernel, by decide +kernel⟩
/-- A slice that is being retired, and one that is not. -/
theorem witness_homeRetires :
    let m := Tests.netMsg (.lineRead 0 0)
    let s := Tests.net Tests.core (.lineRead 0 0)
    ((∀ e ∈ s.mgmt.moving, e.1 ≠ 2 ^ 20 + s.homeOf m.loc) ∧ ¬s.copying m)
    ∧ State.retiring { s with mgmt := { s.mgmt with moving := [(2 ^ 20 + s.homeOf m.loc, true)] } } m :=
  ⟨by unfold State.copying; decide +kernel, _, List.mem_singleton.mpr rfl, rfl⟩
/-- The data of the HBM4 that holds line 0 is being copied. -/
theorem witness_homeCopies :
    let s := Tests.net Tests.core (.lineRead 0 0)
    let s : State := { s with mgmt := { s.mgmt with moving := [(targetUnit 0, true)] } }
    s.copying (Tests.netMsg (.lineRead 0 0)) ∧ (∀ e ∈ s.mgmt.moving, e.1 ≠ 2 ^ 20 + s.homeOf 0)
    ∧ s.deliverable (Tests.netMsg (.lineRead 0 0)) = true := by unfold State.copying; decide +kernel
/-- The set of line 0 is full. -/
theorem witness_homeFull :
    let h := Tests.core.homeOf 0
    let s := (Tests.net Tests.core (.own 0 0 0)).setSlice h { Tests.core.slice h with
      dir := (List.range 16).map fun i => ⟨512 * (i + 1), 1, false, i, [], none⟩ }
    s.unclaimed 0 ∧ 16 ≤ (s.dirSetOf 0).length ∧ s.dirVictim (s.dirSetOf 0) = some ⟨512, 1, false, 0, [], none⟩
    ∧ (s.slice h).queued < 128 :=
  ⟨by unfold State.unclaimed; decide +kernel, by decide +kernel, by decide +kernel, by decide +kernel⟩
/-- Line 0 is owned by core 0, and core 1 asks for it. -/
theorem witness_homeRecalls :
    let s := Tests.net (Tests.core.dirSet 0 (some ⟨0, 0, false, 1, [], none⟩)) (.lineRead 1 0)
    s.dirFind 0 = some ⟨0, 0, false, 1, [], none⟩ ∧ (s.slice (s.homeOf 0)).queued < 128 ∧ 1 < s.nextId := by decide +kernel
theorem witness_ownershipEnds : ∀ b, b ∈ [Body.giveUp 0 0 0 5 1 0 none, .recallRep 0 0 5 1 0] →
    let e : DirEnt := ⟨0, 0, true, 1, [], none⟩
    let s := Tests.net (Tests.core.dirSet 0 (some e)) b
    Tests.brought (Tests.core.dirSet 0 (some e)) b = true ∧ s.dirFind 0 = some e ∧ (s.slice (s.homeOf 0)).stalled = []
    ∧ s.mgmt.mcWait = [] ∧ s.areaWait = [] ∧ s.port.queue = [] ∧ e.owner = 0 ∧ e.queue = [] := by decide +kernel
theorem witness_recall :
    let s := Tests.toLine Tests.owned 32 (.recall 0 32 true)
    s.deliverable { Tests.netMsg (.recall 0 32 true) with loc := 32 * 128 } = true ∧ (∀ i, i < 4 → (s.ctx (0 * 32 + i)).lease = .idle)
    ∧ s.l1Line 0 32 = some (Tests.line 32 .owned) ∧ (Tests.line 32 .owned).marked = false ∧ isHost (32 * 128) = false
    ∧ 0 ≠ hostUnit := by decide +kernel
/-- A recall of a leased line, and one that has been deferred while no region holds its line. -/
theorem witness_recallWaits :
    let s := Tests.net Tests.leased (.recall 0 32 true)
    (s.dropMsg 1).armReady 0 = s.dropMsg 1 ∧ (s.leasedBy 0 32).isSome = true ∧ (s.core 0).recalls.length < 4 := by decide +kernel
theorem witness_recallExpires :
    let s := Tests.net Tests.owned (.recall 0 32 true)
    let m : NetMsg := { Tests.netMsg (.recall 0 32 true) with stale := true }
    s.armReady 0 = s ∧ (s.leasedBy 0 32).isSome = false ∧ m.due ≤ s.msgClk m ∧ s.mayDefer 0 32 = false := by decide +kernel
theorem witness_tagged :
    let r := Tests.tag (.amo 0) 0x1000 .cached
    let s := Tests.net Tests.core (.tagged r)
    (s.deliverable (Tests.netMsg (.tagged r)) = true ∧ s.mgmt.failedHomes.contains (s.tagHome r) = false ∧ s.tagBusy r = false
      ∧ r.carries = false) ∧ s.unclaimed 0 ∧ (s.slice (s.homeOf r.loc)).dedup = [] :=
  ⟨by decide +kernel, by unfold State.unclaimed; decide +kernel, by decide +kernel⟩
theorem witness_duplicate :
    let r := Tests.tag (.amo 0) 0x1000 .cached
    let e : Dedup := ⟨0, 0, 0, true, Reg.zero, 0⟩
    let s := (Tests.net Tests.core (.tagged r)).setSlice (Tests.core.homeOf 0x1000) { Slice.reset with dedup := [e] }
    ((s.slice (s.homeOf r.loc)).dedup.filter fun e => !s.confirmed r.place r.uid r.ack e).find? (fun e => e.holds r) = some e
    ∧ e.done = true ∧ s.tagBusy r = false := by decide +kernel
theorem witness_bareAck :
    let s : State := { Tests.core with clk := 4096 }
    (s.ctx Tests.place.key).tagAt + 4096 ≤ s.now Tests.place.key ∧ (0 : Nat) < 2 ^ 20 := by decide +kernel
theorem witness_resends :
    let r := Tests.tag .fld 0x1000 .future
    let s : State := { Tests.core with clk := 8192, net := [{ Tests.netMsg (.tagged r) with due := 5 }], nextId := 2 }
    let m : NetMsg := { Tests.netMsg (.tagged r) with due := 5 }
    (s.msg 1 = some m ∧ 5 ≤ s.msgClk m ∧ isHeldMsg (.tagged r) = false)
    ∧ (s.openTags.filter fun q => q.uid == r.uid && q.seq.toNat == r.seq.toNat) = [r] ∧ isPod r.loc = false
    ∧ r.sent + 8192 ≤ s.reqClk r := by decide +kernel
/-- A request without a reply that waits behind a recall. -/
theorem witness_resendsQueued :
    let r := Tests.tag .fld 0x1000 .future
    let s := Tests.core.dirSet 32 (some ⟨32, 0, true, 1, [Tests.netMsg (.tagged r)], none⟩)
    (s.openTags.filter fun q => q.uid == r.uid && q.seq.toNat == r.seq.toNat) = [r] := by decide +kernel
/-- The reply to a notice of a transfer, which no context has. -/
theorem witness_noticeReply :
    let r := { Tests.tag (.amo 0) 0x1000 .cached with uid := 9, seq := 0 }
    let n : Notice := ⟨0, 0x1000, false, true⟩
    let w := { Tests.xfer (Tests.par 4 (8 + 2 ^ 36) 0x3000) with notice := some n }
    let s := Tests.net (Tests.running w) (.taggedRep r Reg.zero 0)
    s.msg 1 = some (Tests.netMsg (.taggedRep r Reg.zero 0)) ∧ s.deliverable (Tests.netMsg (.taggedRep r Reg.zero 0)) = true
    ∧ s.byUid r.uid = none ∧ 1 < s.nextId ∧ s.xfer r.uid = some w ∧ w.notice = some n ∧ n.sent = true
    ∧ BitVec.ofNat 16 n.unit = r.seq := by decide +kernel
theorem witness_pathFails :
    let r := Tests.tag (.amo 0) 0x1000 .cached
    let s := Tests.net Tests.core (.tagged r)
    (s.ctxs.map fun e => e.1).Pairwise (· < ·) ∧ r ∈ s.openTo (s.tagHome r) ∧ s.keyOf r.uid = some 0
    ∧ s.xfer r.uid = none ∧ (s.ctx 0).status ≠ .ending ∧ ((s.ctx 0).lanes.all fun l => !l.2.helper) = true := by
  decide +kernel
theorem witness_replies :
    let r := { Tests.tag (.amo 0) 0x1000 .cached with pend := some 9 }
    let s := Tests.net (Tests.csr fun c => { c with unanswered := [0] }) (.taggedRep r Reg.zero 0)
    s.deliverable (Tests.netMsg (.taggedRep r Reg.zero 0)) = true
    ∧ (s.byUid r.uid).map (fun c => c.unanswered.contains r.seq) = some true
    ∧ (Tests.core.byUid r.uid).map (fun c => c.unanswered.contains r.seq) = some false := by decide +kernel
theorem witness_cancel : Tests.brought Tests.core (.cancel 0) = true := by decide +kernel
/-- A load of core 0's context misses page 0, whose last table is at 0x8000. -/
def Tests.waiter : Waiter := ⟨.ctx 0, 0, 0, some (dtlb 0), .u, false, false⟩
def Tests.walk : Walk := ⟨7, 0, 0, 0x1000, 0, 0x8000, 3, 0x8000, [Tests.waiter], false⟩
theorem witness_pageWalk : ∀ ws, ws ∈ [[], [{ Tests.walk with id := 6, walker := 1 }]] →
    let s : State := { Tests.core with walkQ := [(1, [Tests.walk])], walks := ws }
    0 ∉ s.busyWalkers 0 ∧ Tbl.get [] s.walkQ (0 * 16 + (Tbl.get 0 s.walkRr (0 * 64 + 0) + 1 + 0) % 16) = [Tests.walk]
    ∧ s.walkCached 0 Tests.walk.entryAt 3 = none ∧ (ws.any fun x => x.same 0 0x1000 && x.die == 0) = !ws.isEmpty := by
  decide +kernel
/-- A walk at its last level: a leaf that permits the access, and an empty entry; and at level 0 a pointer. -/
theorem witness_tableLine : ∀ e, e ∈ [0x1BF, 0] →
    let s : State := ({ Tests.core with walks := [Tests.walk] } : State).putValue 0x8000 8 e false
    s.walks.find? (fun x => x.id == 7) = some Tests.walk ∧ isHbm s.dies Tests.walk.table = true ∧ Tests.walk.entryAt = 0x8000
    ∧ s.atHome 0x8000 = true ∧ s.anyPoison 0x8000 8 = false ∧ s.mark (0x8000 / 128) = .clean ∧ s.value 0x8000 8 = e
    ∧ (s.ctxs.map fun e => e.1).Pairwise (· < ·) ∧ s.keyOf 0 = some 0
    ∧ (match s.readPte 3 0x1000 0 e with
        | .leaf t => e == 0x1BF && t.permits 0 .u false false
        | .page => e == 0
        | _ => false) = true := by decide +kernel
theorem witness_tablePointer : (match Tests.core.readPte 0 0x1000 0 0x10001 with
    | .next n => n == 0x10000
    | _ => false) = true := by decide +kernel
theorem witness_fill :
    let s := Tests.net Tests.core (.lineFill 0 32 5 0 none)
    s.l1Line 0 32 = none ∧ (s.l1Set 0 32).length < l1Ways 0 ∧ s.pends = [] := by decide +kernel
theorem witness_writeAck :
    let s := (Tests.net Tests.core (.writeAck 0 0 32 true (some 3))).setGroup 3 (some ⟨0, .st, 1, none⟩)
    s.group 3 = some ⟨0, .st, 1, none⟩ ∧ s.keyOf 0 = some 0 := by decide +kernel
def Tests.store (h : Home) : SqEnt := ⟨0, 0, 0x1000, 8, 5, 0, h, true, false, Under.none, none⟩
theorem witness_drains : ∀ s, s ∈ [Tests.owned, Tests.leased] →
    let t : State := { s with storeQ := [(0, [Tests.store .cached])] }
    Tbl.get [] t.storeQ 0 = [Tests.store .cached] ∧ (t.l1Line 0 32).map (fun l => l.st != .valid && l.tag == t.tagOfStore 0 (Tests.store .cached)) = some true
    ∧ ((t.leasedBy 0 32).isSome = true ↔ s = Tests.leased) := by decide +kernel
theorem witness_srams : Tests.brought Tests.core (.bankWrite 0 0 (Tests.winLoc / 128) 5 0xFF 0 false none) = true
    ∧ Tests.brought Tests.core (.coreWrite 0 0 (Tests.sram / 128) 5 0xFF 0 false none) = true ∧ (Tests.core.core (coreOf Tests.sram)).owners = []
    ∧ Tests.brought Tests.core (.read [⟨3, 0, Tests.winLoc, 8⟩] .window) = true ∧ Tests.brought Tests.core (.read [⟨3, 0, Tests.sram, 8⟩] .core) = true
    ∧ Tests.brought Tests.core (.bankAtomic { Tests.tag (.amo 0) Tests.winLoc .window with pend := some 9 }) = true
    ∧ Tests.core.mgmt.badBytes = [] := by decide +kernel
theorem witness_loadDelivers :
    let q : Pend := ⟨0, 0, .x 3 2 true, 2, 0, 0, BitVec.ofNat 36 (2 ^ 2 - 1), 0, [], 4⟩
    let s := Tests.core.setPend 9 (some q)
    s.pend 9 = some q ∧ s.group 4 = none ∧ s.keyOf 0 = some 0
    ∧ (((s.pendBytes 9 0 [(0xFE, false), (0xFF, false)]).ctx 0).lane 0).rx 3 = ({ v := 0xFFFFFFFFFFFFFFFE, p := false } : Reg) := by decide +kernel
theorem witness_tagFlush :
    let e : TagEnt := ⟨0, 1, 0, false, none⟩
    let s := Tests.net (Tests.core.setTags 0 [e]) (.tagFlush 0 0 1 0 0)
    s.tagEnt 0 0 = some e ∧ s.l1 0 = [] ∧ (s.dropMsg 1).uidWriting 0 0 = false ∧ s.lineMisses 0 < 8 := by decide +kernel
theorem witness_tagReply : (Tests.net Tests.core (.tagFlushRep 0)).msg 1 = some (Tests.netMsg (.tagFlushRep 0))
    ∧ (Tests.net Tests.core (.tagFlushRep 0)).keyOf 0 = some 0 ∧ ((Tests.net Tests.core (.tagFlushRep 0)).dropMsg 1).flushing 0 = false := by decide +kernel
theorem witness_lazyDrain :
    let e : TagEnt := ⟨0, 1, 0, false, none⟩
    let s := (Tests.core.setTags 0 [e]).putLine 0 (Tests.line 32 .dirty)
    s.tagEnt 0 0 = some e ∧ (s.l1 0).find? (fun l => l.taggedBy 0) = some (Tests.line 32 .dirty) ∧ s.lineMisses 0 < 8 := by decide +kernel
/-- Two stores of one instruction to one line of a window, and one of a later instruction. -/
theorem witness_joins :
    let e := { Tests.store .window with loc := Tests.winLoc }
    let q : List SqEnt := [{ e with loc := Tests.winLoc + 8 }, { e with ins := 1 }]
    Tbl.get [] ({ Tests.core with storeQ := [(0, e :: q)] } : State).storeQ 0 = e :: q ∧ q.filter e.joins = [{ e with loc := Tests.winLoc + 8 }]
    ∧ (∀ f ∈ q, e.joins f = true → f.grp = none) := by decide +kernel
theorem witness_retrain : Tests.core.linkInReset 0 = false ∧ State.linkInReset { Tests.core with dies := 1 } 0 = true := by decide +kernel
/-- A sound state, and one whose step gives a next state. -/
theorem witness_sound : (Memory.wf Tests.core.mem = true ∧ (Tests.core.ctxs.map fun e => e.1).Pairwise (· < ·)
    ∧ (∀ e ∈ Tests.core.ctxs, (e.2.lanes.map fun l => l.1).Pairwise (· < ·)) ∧ Tests.core.saved = [] ∧ Tests.core.inFlight = [])
    ∧ (match step Tests.core with
        | .next _ => true
        | _ => false) = true := by decide +kernel

/-! ## Words written out field by field (09 R164): one for each encoded instruction, with distinct register fields -/

/-- The R format: funct7, rs2, rs1, funct3, rd, opcode. -/
def Tests.r (f7 : BitVec 7) (b a : BitVec 5) (f3 : BitVec 3) (d : BitVec 5) (op : BitVec 7) : BitVec 32 :=
  f7 ++ b ++ a ++ f3 ++ d ++ op

/-- The I format: a 12-bit immediate, rs1, funct3, rd, opcode. -/
def Tests.i (imm : BitVec 12) (a : BitVec 5) (f3 : BitVec 3) (d : BitVec 5) (op : BitVec 7) : BitVec 32 :=
  imm ++ a ++ f3 ++ d ++ op

/-- The U and J formats: a 20-bit immediate, rd, opcode. -/
def Tests.u (imm : BitVec 20) (d : BitVec 5) (op : BitVec 7) : BitVec 32 := imm ++ d ++ op

/-- The Q format: rs3, funct2, rs2, rs1, funct3, rd, opcode. -/
def Tests.q (c : BitVec 5) (f2 : BitVec 2) (b a : BitVec 5) (f3 : BitVec 3) (d : BitVec 5) (op : BitVec 7) : BitVec 32 :=
  c ++ f2 ++ b ++ a ++ f3 ++ d ++ op

/-- 09 R165, 10 R195: `lui`, `auipc`, `jal`, `jalr`, a branch, a load and a store. -/
theorem test_decode_base :
    decode (Tests.u 0xABCDE#20 7#5 0b0110111#7) = .ok (.lui 0xABCDE#20 7#5)
    ∧ decode (Tests.u 0xABCDE#20 7#5 0b0010111#7) = .ok (.auipc 0xABCDE#20 7#5)
    ∧ decode (Tests.u 0xABCDE#20 7#5 0b1101111#7) = .ok (.jal 0xABCDE#20 7#5)
    ∧ decode (Tests.i 0xFFC#12 5#5 0b000#3 7#5 0b1100111#7) = .ok (.jalr 0xFFC#12 5#5 7#5)
    ∧ decode (Tests.r 0x40#7 6#5 5#5 0b101#3 9#5 0b1100011#7) = .ok (.branch 0x40#7 6#5 5#5 5#3 9#5)
    ∧ decode (Tests.i 0x123#12 5#5 0b011#3 7#5 0b0000011#7) = .ok (.load 0x123#12 5#5 3#3 7#5)
    ∧ decode (Tests.r 0x12#7 6#5 5#5 0b010#3 9#5 0b0100011#7) = .ok (.store 0x12#7 6#5 5#5 2#3 9#5) := by decide +kernel

/-- 09 R165, 10 R195: immediates, with shift amounts of six bits, and of five for the word forms. -/
theorem test_decode_immediates :
    decode (Tests.i 0x800#12 5#5 0b110#3 7#5 0b0010011#7) = .ok (.opImm 0x800#12 5#5 6#3 7#5)
    ∧ decode (Tests.i (0b000000#6 ++ 63#6) 5#5 0b001#3 7#5 0b0010011#7) = .ok (.slli 63#6 5#5 7#5)
    ∧ decode (Tests.i (0b000000#6 ++ 33#6) 5#5 0b101#3 7#5 0b0010011#7) = .ok (.srli 33#6 5#5 7#5)
    ∧ decode (Tests.i (0b010000#6 ++ 33#6) 5#5 0b101#3 7#5 0b0010011#7) = .ok (.srai 33#6 5#5 7#5)
    ∧ decode (Tests.i 0x801#12 5#5 0b000#3 7#5 0b0011011#7) = .ok (.addiw 0x801#12 5#5 7#5)
    ∧ decode (Tests.r 0b0000000#7 31#5 5#5 0b001#3 7#5 0b0011011#7) = .ok (.slliw 31#5 5#5 7#5)
    ∧ decode (Tests.r 0b0000000#7 31#5 5#5 0b101#3 7#5 0b0011011#7) = .ok (.srliw 31#5 5#5 7#5)
    ∧ decode (Tests.r 0b0100000#7 31#5 5#5 0b101#3 7#5 0b0011011#7) = .ok (.sraiw 31#5 5#5 7#5) := by decide +kernel

/-- 09 R165, 10 R195, R197 and R198: register operands, multiplication and division. -/
theorem test_decode_registers :
    decode (Tests.r 0b0000000#7 6#5 5#5 0b011#3 7#5 0b0110011#7) = .ok (.op 6#5 5#5 3#3 7#5)
    ∧ decode (Tests.r 0b0100000#7 6#5 5#5 0b000#3 7#5 0b0110011#7) = .ok (.sub 6#5 5#5 7#5)
    ∧ decode (Tests.r 0b0100000#7 6#5 5#5 0b101#3 7#5 0b0110011#7) = .ok (.sra 6#5 5#5 7#5)
    ∧ decode (Tests.r 0b0000000#7 6#5 5#5 0b101#3 7#5 0b0111011#7) = .ok (.op32 6#5 5#5 5#3 7#5)
    ∧ decode (Tests.r 0b0100000#7 6#5 5#5 0b000#3 7#5 0b0111011#7) = .ok (.subw 6#5 5#5 7#5)
    ∧ decode (Tests.r 0b0100000#7 6#5 5#5 0b101#3 7#5 0b0111011#7) = .ok (.sraw 6#5 5#5 7#5)
    ∧ decode (Tests.r 0b0000001#7 6#5 5#5 0b010#3 7#5 0b0110011#7) = .ok (.mul 6#5 5#5 2#2 7#5)
    ∧ decode (Tests.r 0b0000001#7 6#5 5#5 0b110#3 7#5 0b0110011#7) = .ok (.div 6#5 5#5 2#2 7#5)
    ∧ decode (Tests.r 0b0000001#7 6#5 5#5 0b000#3 7#5 0b0111011#7) = .ok (.mulw 6#5 5#5 7#5)
    ∧ decode (Tests.r 0b0000001#7 6#5 5#5 0b101#3 7#5 0b0111011#7) = .ok (.divw 6#5 5#5 1#2 7#5) := by decide +kernel

/-- 09 R165, 10 R199: Zba. -/
theorem test_decode_zba :
    decode (Tests.r 0b0010000#7 6#5 5#5 0b100#3 7#5 0b0110011#7) = .ok (.shadd 6#5 5#5 2#2 7#5)
    ∧ decode (Tests.r 0b0000100#7 6#5 5#5 0b000#3 7#5 0b0111011#7) = .ok (.addUw 6#5 5#5 7#5)
    ∧ decode (Tests.r 0b0010000#7 6#5 5#5 0b110#3 7#5 0b0111011#7) = .ok (.shaddUw 6#5 5#5 3#2 7#5)
    ∧ decode (Tests.i (0b000010#6 ++ 40#6) 5#5 0b001#3 7#5 0b0011011#7) = .ok (.slliUw 40#6 5#5 7#5) := by decide +kernel

/-- 09 R165, 10 R199: Zbb. -/
theorem test_decode_zbb :
    decode (Tests.r 0b0100000#7 6#5 5#5 0b100#3 7#5 0b0110011#7) = .ok (.andnOrnXnor 6#5 5#5 4#3 7#5)
    ∧ decode (Tests.r 0b0000101#7 6#5 5#5 0b111#3 7#5 0b0110011#7) = .ok (.minMax 6#5 5#5 3#2 7#5)
    ∧ decode (Tests.r 0b0110000#7 6#5 5#5 0b101#3 7#5 0b0110011#7) = .ok (.rolRor 6#5 5#5 1#1 7#5)
    ∧ decode (Tests.r 0b0110000#7 6#5 5#5 0b001#3 7#5 0b0111011#7) = .ok (.rolwRorw 6#5 5#5 0#1 7#5)
    ∧ decode (Tests.i (0b011000#6 ++ 40#6) 5#5 0b101#3 7#5 0b0010011#7) = .ok (.rori 40#6 5#5 7#5)
    ∧ decode (Tests.r 0b0110000#7 21#5 5#5 0b101#3 7#5 0b0011011#7) = .ok (.roriw 21#5 5#5 7#5)
    ∧ decode (Tests.i 0b011000000101#12 5#5 0b001#3 7#5 0b0010011#7) = .ok (.clzCtzCpopSext 5#3 5#5 7#5)
    ∧ decode (Tests.i 0b011000000010#12 5#5 0b001#3 7#5 0b0011011#7) = .ok (.clzwCtzwCpopw 2#3 5#5 7#5)
    ∧ decode (Tests.i 0b001010000111#12 5#5 0b101#3 7#5 0b0010011#7) = .ok (.orcB 5#5 7#5)
    ∧ decode (Tests.i 0b011010111000#12 5#5 0b101#3 7#5 0b0010011#7) = .ok (.rev8 5#5 7#5)
    ∧ decode (Tests.r 0b0000100#7 0#5 5#5 0b100#3 7#5 0b0111011#7) = .ok (.zextH 5#5 7#5) := by decide +kernel

/-- 09 R165, 10 R200 and R201: the floating-point words; the format bit is 1 for FP64. -/
theorem test_decode_float :
    decode (Tests.i 0x123#12 5#5 0b011#3 7#5 0b0000111#7) = .ok (.fpLoad 0x123#12 5#5 1#1 7#5)
    ∧ decode (Tests.r 0x12#7 6#5 5#5 0b010#3 9#5 0b0100111#7) = .ok (.fpStore 0x12#7 6#5 5#5 0#1 9#5)
    ∧ decode (Tests.q 8#5 0b01#2 6#5 5#5 0b111#3 7#5 0b1001011#7) = .ok (.fpFused 8#5 1#1 6#5 5#5 7#3 7#5 2#2)
    ∧ decode (Tests.r 0b0001101#7 6#5 5#5 0b001#3 7#5 0b1010011#7) = .ok (.fpArith 3#2 1#1 6#5 5#5 1#3 7#5)
    ∧ decode (Tests.r 0b0101100#7 0#5 5#5 0b100#3 7#5 0b1010011#7) = .ok (.fsqrt 0#1 5#5 4#3 7#5)
    ∧ decode (Tests.r 0b0010001#7 6#5 5#5 0b010#3 7#5 0b1010011#7) = .ok (.fsgnj 1#1 6#5 5#5 2#3 7#5)
    ∧ decode (Tests.r 0b0010100#7 6#5 5#5 0b001#3 7#5 0b1010011#7) = .ok (.fminFmax 0#1 6#5 5#5 1#1 7#5)
    ∧ decode (Tests.r 0b0100000#7 1#5 5#5 0b010#3 7#5 0b1010011#7) = .ok (.fcvtSD 5#5 2#3 7#5)
    ∧ decode (Tests.r 0b0100001#7 0#5 5#5 0b011#3 7#5 0b1010011#7) = .ok (.fcvtDS 5#5 3#3 7#5) := by decide +kernel

theorem test_decode_float_moves :
    decode (Tests.r 0b1010001#7 6#5 5#5 0b010#3 7#5 0b1010011#7) = .ok (.fpCompare 1#1 6#5 5#5 2#2 7#5)
    ∧ decode (Tests.r 0b1100000#7 3#5 5#5 0b001#3 7#5 0b1010011#7) = .ok (.fcvtToInt 0#1 3#2 5#5 1#3 7#5)
    ∧ decode (Tests.r 0b1101001#7 1#5 5#5 0b000#3 7#5 0b1010011#7) = .ok (.fcvtFromInt 1#1 1#2 5#5 0#3 7#5)
    ∧ decode (Tests.r 0b1110001#7 0#5 5#5 0b000#3 7#5 0b1010011#7) = .ok (.fmvX 1#1 5#5 7#5)
    ∧ decode (Tests.r 0b1110000#7 0#5 5#5 0b001#3 7#5 0b1010011#7) = .ok (.fclass 0#1 5#5 7#5)
    ∧ decode (Tests.r 0b1111001#7 0#5 5#5 0b000#3 7#5 0b1010011#7) = .ok (.fmvToF 1#1 5#5 7#5) := by decide +kernel

/-- 09 R165, 10 R204 to R207, 15 R316 and R317: fences, control and status registers, and the privileged words. -/
theorem test_decode_system :
    decode (0b0000#4 ++ 0b1100#4 ++ 0b0011#4 ++ 0#5 ++ 0b000#3 ++ 0#5 ++ 0b0001111#7) = .ok (.fence 0#4 12#4 3#4 0#5 0#5)
    ∧ decode (Tests.i 0#12 0#5 0b001#3 0#5 0b0001111#7) = .ok (.fenceI 0#12 0#5 0#5)
    ∧ decode (Tests.i 0#12 0#5 0b000#3 0#5 0b1110011#7) = .ok .ecall
    ∧ decode (Tests.i 1#12 0#5 0b000#3 0#5 0b1110011#7) = .ok .ebreak
    ∧ decode (Tests.i 0x300#12 5#5 0b001#3 7#5 0b1110011#7) = .ok (.csrrw 0x300#12 5#5 7#5)
    ∧ decode (Tests.i 0x300#12 5#5 0b010#3 7#5 0b1110011#7) = .ok (.csrrs 0x300#12 5#5 7#5)
    ∧ decode (Tests.i 0x300#12 5#5 0b011#3 7#5 0b1110011#7) = .ok (.csrrc 0x300#12 5#5 7#5)
    ∧ decode (Tests.i 0x300#12 31#5 0b101#3 7#5 0b1110011#7) = .ok (.csrrwi 0x300#12 31#5 7#5)
    ∧ decode (Tests.i 0x300#12 31#5 0b110#3 7#5 0b1110011#7) = .ok (.csrrsi 0x300#12 31#5 7#5)
    ∧ decode (Tests.i 0x300#12 31#5 0b111#3 7#5 0b1110011#7) = .ok (.csrrci 0x300#12 31#5 7#5)
    ∧ decode (Tests.r 0b0001001#7 6#5 5#5 0b000#3 0#5 0b1110011#7) = .ok (.sfenceVma 6#5 5#5)
    ∧ decode (Tests.r 0b0011000#7 2#5 0#5 0b000#3 0#5 0b1110011#7) = .ok .mret
    ∧ decode (Tests.r 0b0001000#7 2#5 0#5 0b000#3 0#5 0b1110011#7) = .ok .sret
    ∧ decode (Tests.r 0b0001000#7 5#5 0#5 0b000#3 0#5 0b1110011#7) = .ok .wfi := by decide +kernel

/-- 09 R170 to R173: acquire loads, release stores, atomics and reductions. -/
theorem test_decode_atomics :
    decode (Tests.r 0b0010011#7 0#5 11#5 0b000#3 10#5 0b0001011#7) = .ok (.ldAcq 2#2 3#3 11#5 10#5)
    ∧ decode (Tests.r 0b0111101#7 6#5 5#5 0b000#3 0#5 0b0001011#7) = .ok (.stRel 3#2 5#3 6#5 5#5)
    ∧ decode (Tests.r 0b0100001#7 6#5 5#5 0b001#3 7#5 0b0001011#7) = .ok (.amoW 8#5 0#1 1#1 6#5 5#5 7#5)
    ∧ decode (Tests.r 0b0001010#7 0#5 12#5 0b010#3 10#5 0b0001011#7) = .ok (.amoD 2#5 1#1 0#1 0#5 12#5 10#5)
    ∧ decode (Tests.r 0b0100110#7 6#5 5#5 0b001#3 7#5 0b0001011#7) = .ok (.amoFaddF32 1#1 0#1 6#5 5#5 7#5)
    ∧ decode (Tests.r 0b0101001#7 6#5 5#5 0b001#3 7#5 0b0001011#7) = .ok (.amoFaddBf16 0#1 1#1 6#5 5#5 7#5)
    ∧ decode (Tests.q 8#5 0b00#2 6#5 5#5 0b011#3 7#5 0b0001011#7) = .ok (.amoCasW 8#5 6#5 5#5 7#5)
    ∧ decode (Tests.q 8#5 0b01#2 6#5 5#5 0b011#3 7#5 0b0001011#7) = .ok (.amoCasD 8#5 6#5 5#5 7#5)
    ∧ decode (Tests.q 0#5 0b10#2 13#5 12#5 0b011#3 5#5 0b0001011#7) = .ok (.lease2 0#5 13#5 12#5 5#5)
    ∧ decode (Tests.r 0b0110000#7 6#5 5#5 0b100#3 0#5 0b0001011#7) = .ok (.red 1#2 4#3 6#5 5#5) := by decide +kernel

/-- 09 R174 and R175: futures, leases, waits, seals, write-back and prefetch. -/
theorem test_decode_futures :
    decode (Tests.r 0x00#7 0#5 5#5 0b101#3 7#5 0b0001011#7) = .ok (.fld 5#5 7#5)
    ∧ decode (Tests.r 0x01#7 0#5 5#5 0b101#3 7#5 0b0001011#7) = .ok (.fldD 5#5 7#5)
    ∧ decode (Tests.r 0x02#7 6#5 5#5 0b101#3 0#5 0b0001011#7) = .ok (.fst 6#5 5#5)
    ∧ decode (Tests.r 0x03#7 6#5 5#5 0b101#3 0#5 0b0001011#7) = .ok (.fstD 6#5 5#5)
    ∧ decode (Tests.r 0x04#7 0#5 5#5 0b101#3 0#5 0b0001011#7) = .ok (.frst 5#5)
    ∧ decode (Tests.r 0x05#7 0#5 5#5 0b101#3 0#5 0b0001011#7) = .ok (.frstD 5#5)
    ∧ decode (Tests.r 0x08#7 6#5 5#5 0b101#3 7#5 0b0001011#7) = .ok (.lease 6#5 5#5 7#5)
    ∧ decode (Tests.r 0x09#7 0#5 0#5 0b101#3 0#5 0b0001011#7) = .ok .lclose
    ∧ decode (Tests.r 0x0A#7 0#5 0#5 0b101#3 0#5 0b0001011#7) = .ok .labort := by decide +kernel

theorem test_decode_waits :
    decode (Tests.r 0x10#7 0#5 0#5 0b101#3 3#5 0b0001011#7) = .ok (.waitcnt 0#5 3#5)
    ∧ decode (Tests.r 0x18#7 0#5 0#5 0b101#3 0#5 0b0001011#7) = .ok .fenceOwn
    ∧ decode (Tests.r 0x19#7 0#5 5#5 0b101#3 0#5 0b0001011#7) = .ok (.fenceForce 5#5)
    ∧ decode (Tests.r 0x20#7 6#5 5#5 0b101#3 0#5 0b0001011#7) = .ok (.bseal 6#5 5#5)
    ∧ decode (Tests.r 0x21#7 0#5 5#5 0b101#3 0#5 0b0001011#7) = .ok (.bopen 5#5)
    ∧ decode (Tests.r 0x28#7 0#5 5#5 0b101#3 0#5 0b0001011#7) = .ok (.cwb 5#5)
    ∧ decode (Tests.r 0x29#7 0#5 0#5 0b101#3 0#5 0b0001011#7) = .ok .cwbCtx
    ∧ decode (Tests.r 0x2A#7 0#5 5#5 0b101#3 0#5 0b0001011#7) = .ok (.cinv 5#5)
    ∧ decode (Tests.i 0x840#12 5#5 0b110#3 0#5 0b0001011#7) = .ok (.pfL1 0x840#12 5#5 0#5)
    ∧ decode (Tests.i 0x840#12 5#5 0b110#3 1#5 0b0001011#7) = .ok (.pfL2 0x840#12 5#5) := by decide +kernel

/-- 09 R176: barriers. -/
theorem test_decode_barriers :
    decode (Tests.r 0x00#7 6#5 5#5 0b111#3 0#5 0b0001011#7) = .ok (.barInit 6#5 5#5)
    ∧ decode (Tests.r 0x01#7 0#5 5#5 0b111#3 7#5 0b0001011#7) = .ok (.barArrive 5#5 7#5)
    ∧ decode (Tests.r 0x02#7 6#5 5#5 0b111#3 0#5 0b0001011#7) = .ok (.barExpect 6#5 5#5)
    ∧ decode (Tests.r 0x03#7 6#5 5#5 0b111#3 0#5 0b0001011#7) = .ok (.barWait 6#5 5#5)
    ∧ decode (Tests.r 0x04#7 6#5 5#5 0b111#3 7#5 0b0001011#7) = .ok (.barTry 6#5 5#5 7#5) := by decide +kernel

/-- 09 R177 to R179: messages, tasks, channels and the KZ-Sys words. -/
theorem test_decode_messages :
    decode (Tests.r 0b0010011#7 11#5 10#5 0b000#3 0#5 0b0101011#7) = .ok (.msend 2#3 3#3 11#5 10#5)
    ∧ decode (Tests.r 0x00#7 0#5 0#5 0b001#3 0#5 0b0101011#7) = .ok .hend
    ∧ decode (Tests.r 0x01#7 6#5 5#5 0b001#3 7#5 0b0101011#7) = .ok (.carm 6#5 5#5 7#5)
    ∧ decode (Tests.r 0x02#7 0#5 5#5 0b001#3 0#5 0b0101011#7) = .ok (.cdec 5#5)
    ∧ decode (Tests.r 0x03#7 6#5 5#5 0b001#3 7#5 0b0101011#7) = .ok (.spawn 6#5 5#5 7#5)
    ∧ decode (Tests.r 0x04#7 0#5 5#5 0b001#3 0#5 0b0101011#7) = .ok (.migrateAddr 5#5)
    ∧ decode (Tests.r 0x05#7 0#5 5#5 0b001#3 0#5 0b0101011#7) = .ok (.migrateRank 5#5)
    ∧ decode (Tests.r 0x06#7 0#5 0#5 0b001#3 0#5 0b0101011#7) = .ok .uiret
    ∧ decode (Tests.r 0x07#7 0#5 0#5 0b001#3 0#5 0b0101011#7) = .ok .yield := by decide +kernel

theorem test_decode_channels :
    decode (Tests.r 0b0000101#7 6#5 5#5 0b010#3 0#5 0b0101011#7) = .ok (.qsend 5#3 6#5 5#5)
    ∧ decode (Tests.r 0b0100001#7 0#5 3#5 0b010#3 10#5 0b0101011#7) = .ok (.qrecv 1#3 3#5 10#5)
    ∧ decode (Tests.r 0b1000000#7 0#5 15#5 0b010#3 7#5 0b0101011#7) = .ok (.qpoll 15#5 7#5)
    ∧ decode (Tests.r 0x00#7 0#5 5#5 0b100#3 3#5 0b0101011#7) = .ok (.msave 5#5 3#5)
    ∧ decode (Tests.r 0x01#7 0#5 5#5 0b100#3 3#5 0b0101011#7) = .ok (.mrest 5#5 3#5)
    ∧ decode (Tests.r 0x02#7 6#5 5#5 0b100#3 0#5 0b0101011#7) = .ok (.rtabSet 6#5 5#5)
    ∧ decode (Tests.r 0x03#7 0#5 5#5 0b100#3 0#5 0b0101011#7) = .ok (.ctxTag 5#5)
    ∧ decode (Tests.r 0x04#7 6#5 5#5 0b100#3 7#5 0b0101011#7) = .ok (.islandQuery 6#5 5#5 7#5) := by decide +kernel

/-- 09 R181: crossing, lane exchange and geometry. -/
theorem test_decode_wave :
    decode (Tests.r 0x00#7 11#5 10#5 0b000#3 0#5 0b1011011#7) = .ok (.wavego 11#5 10#5)
    ∧ decode (Tests.r 0x01#7 0#5 0#5 0b000#3 0#5 0b1011011#7) = .ok .wret
    ∧ decode (Tests.r 0x02#7 0#5 5#5 0b000#3 0#5 0b1011011#7) = .ok (.wflush 5#5)
    ∧ decode (Tests.r 0x03#7 0#5 5#5 0b000#3 0#5 0b1011011#7) = .ok (.regroup 5#5)
    ∧ decode (Tests.r 0x04#7 0#5 0#5 0b000#3 0#5 0b1011011#7) = .ok .wsync
    ∧ decode (Tests.r 0x00#7 0#5 5#5 0b001#3 7#5 0b1011011#7) = .ok (.voteAny 5#5 7#5)
    ∧ decode (Tests.r 0x01#7 0#5 5#5 0b001#3 7#5 0b1011011#7) = .ok (.voteAll 5#5 7#5)
    ∧ decode (Tests.r 0x02#7 0#5 5#5 0b001#3 7#5 0b1011011#7) = .ok (.ballot 5#5 7#5)
    ∧ decode (Tests.r 0x03#7 6#5 5#5 0b001#3 7#5 0b1011011#7) = .ok (.shfl 6#5 5#5 7#5) := by decide +kernel

theorem test_decode_lanes :
    decode (Tests.r 0x04#7 6#5 5#5 0b001#3 7#5 0b1011011#7) = .ok (.shflXor 6#5 5#5 7#5)
    ∧ decode (Tests.r 0x05#7 6#5 5#5 0b001#3 7#5 0b1011011#7) = .ok (.rdlane 6#5 5#5 7#5)
    ∧ decode (Tests.r 0x08#7 0#5 5#5 0b001#3 7#5 0b1011011#7) = .ok (.quadSx 5#5 7#5)
    ∧ decode (Tests.r 0x09#7 0#5 5#5 0b001#3 7#5 0b1011011#7) = .ok (.quadSy 5#5 7#5)
    ∧ decode (Tests.r 0x0A#7 0#5 5#5 0b001#3 7#5 0b1011011#7) = .ok (.quadSd 5#5 7#5)
    ∧ decode (Tests.r 0x0B#7 3#5 5#5 0b001#3 7#5 0b1011011#7) = .ok (.quadBc 3#5 5#5 7#5)
    ∧ decode (Tests.r 0x0C#7 0#5 0#5 0b001#3 7#5 0b1011011#7) = .ok (.ishelper 7#5)
    ∧ decode (Tests.r 0x00#7 6#5 25#5 0b010#3 7#5 0b1011011#7) = .ok (.bxt 6#5 25#5 7#5)
    ∧ decode (Tests.r 0x01#7 6#5 25#5 0b010#3 29#5 0b1011011#7) = .ok (.trt 6#5 25#5 29#5) := by decide +kernel

/-- 09 R180 and R182: short vectors and sorting. -/
theorem test_decode_vectors :
    decode (Tests.i 0xFE0#12 5#5 0b011#3 7#5 0b1011011#7) = .ok (.vlW 0xFE0#12 5#5 7#5)
    ∧ decode (Tests.r 0x12#7 6#5 5#5 0b100#3 9#5 0b1011011#7) = .ok (.vsW 0x12#7 6#5 5#5 9#5)
    ∧ decode (Tests.r 0b0000001#7 6#5 5#5 0b101#3 7#5 0b1011011#7) = .ok (.vadd 1#1 6#5 5#5 7#5)
    ∧ decode (Tests.r 0b0000100#7 6#5 5#5 0b101#3 7#5 0b1011011#7) = .ok (.vsub 0#1 6#5 5#5 7#5)
    ∧ decode (Tests.r 0b0001001#7 6#5 5#5 0b101#3 7#5 0b1011011#7) = .ok (.vmul 1#1 6#5 5#5 7#5)
    ∧ decode (Tests.r 0b0001100#7 6#5 5#5 0b101#3 7#5 0b1011011#7) = .ok (.vmin 0#1 6#5 5#5 7#5)
    ∧ decode (Tests.r 0b0010001#7 6#5 5#5 0b101#3 7#5 0b1011011#7) = .ok (.vmax 1#1 6#5 5#5 7#5)
    ∧ decode (Tests.r 0b0010100#7 0#5 5#5 0b101#3 7#5 0b1011011#7) = .ok (.vbc 0#1 5#5 7#5)
    ∧ decode (Tests.r 0b0100001#7 0#5 6#5 0b101#3 8#5 0b1011011#7) = .ok (.bsort 1#1 6#5 8#5)
    ∧ decode (Tests.r 0b0100100#7 4#5 6#5 0b101#3 8#5 0b1011011#7) = .ok (.bmerge 0#1 4#5 6#5 8#5)
    ∧ decode (Tests.q 8#5 0b01#2 6#5 5#5 0b110#3 7#5 0b1011011#7) = .ok (.vfma 8#5 1#1 6#5 5#5 7#5) := by decide +kernel

/-- 09 R183: the matrix engine and the predictor. -/
theorem test_decode_matrix :
    decode (Tests.r 0x00#7 11#5 10#5 0b000#3 2#5 0b1111011#7) = .ok (.mma 11#5 10#5 2#5)
    ∧ decode (Tests.r 0x01#7 0#5 0#5 0b000#3 3#5 0b1111011#7) = .ok (.mzero 3#5)
    ∧ decode (Tests.r 0x02#7 0#5 5#5 0b000#3 3#5 0b1111011#7) = .ok (.epi 5#5 3#5)
    ∧ decode (Tests.r 0x03#7 0#5 5#5 0b000#3 3#5 0b1111011#7) = .ok (.mlink 5#5 3#5)
    ∧ decode (Tests.r 0x08#7 0#5 5#5 0b000#3 0#5 0b1111011#7) = .ok (.pred 5#5)
    ∧ decode (Tests.r 0x09#7 0#5 5#5 0b000#3 0#5 0b1111011#7) = .ok (.punion 5#5)
    ∧ decode (Tests.r 0x0A#7 0#5 5#5 0b000#3 0#5 0b1111011#7) = .ok (.sparge 5#5)
    ∧ decode (Tests.q 8#5 0b00#2 6#5 5#5 0b001#3 1#5 0b1111011#7) = .ok (.mmaSp 8#5 6#5 5#5 1#5) := by decide +kernel

/-- The worked words of 09 R184, as that table prints them. -/
theorem test_decode_worked :
    decode 0x2605850B#32 = .ok (.ldAcq 2#2 3#3 11#5 10#5) ∧ decode 0x1406250B#32 = .ok (.amoD 2#5 1#1 0#1 0#5 12#5 10#5)
    ∧ decode 0x04D6328B#32 = .ok (.lease2 0#5 13#5 12#5 5#5) ∧ decode 0x2000518B#32 = .ok (.waitcnt 0#5 3#5)
    ∧ decode 0x26B5002B#32 = .ok (.msend 2#3 3#3 11#5 10#5) ∧ decode 0x4201A52B#32 = .ok (.qrecv 1#3 3#5 10#5)
    ∧ decode 0x00B5005B#32 = .ok (.wavego 11#5 10#5) ∧ decode 0x00B5017B#32 = .ok (.mma 11#5 10#5 2#5)
    ∧ decode 0x0200017B#32 = .ok (.mzero 2#5) ∧ decode 0x0000017B#32 = .ok (.mma 0#5 0#5 2#5) := by decide +kernel

/-- Words that 09 R163 to R168 refuse: a reserved funct7, the two words of R163, must-be-zero fields, a rounding mode, the AMO
opcode, and an operand outside its limit. -/
theorem test_decode_refused :
    decode 0xFE00007B#32 = .error .unassigned ∧ decode 0x00000000#32 = .error .unassigned ∧ decode 0xFFFFFFFF#32 = .error .unassigned
    ∧ decode (Tests.r 0b0010011#7 1#5 11#5 0b000#3 10#5 0b0001011#7) = .error .unassigned
    ∧ decode (Tests.r 0b0000000#7 6#5 5#5 0b101#3 7#5 0b1010011#7) = .error .unassigned
    ∧ decode (Tests.r 0b0000000#7 6#5 5#5 0b010#3 7#5 0b0101111#7) = .error .unassigned
    ∧ decode (Tests.r 0b0100101#7 6#5 5#5 0b010#3 7#5 0b0001011#7) = .error .unassigned
    ∧ decode (Tests.r 0b0010110#7 0#5 11#5 0b000#3 10#5 0b0001011#7) = .error .operandLimit
    ∧ decode (Tests.r 0x01#7 0#5 0#5 0b000#3 4#5 0b1111011#7) = .error .operandLimit := by decide +kernel

end
end

section
/-! Instructions that compute in each executing lane: what such an instruction changes, and that every row of the tables
of 10 R195 to R201 is one. -/
namespace Sys2Proof.Machine

/-- A lane at its next instruction. -/
def Lane.advanced (l : Lane) : Lane := { l with pc := l.pc + 4 }

/-! ## The frame of a computation in the lanes -/

/-- A change of the context at the current place changes nothing else. -/
theorem onlyOwn_modCtx_here (s : State) (f : Ctx → Ctx) : OnlyOwn s (s.modCtx s.here f) :=
  ⟨rfl, fun _ hk => State.ctx_modCtx_other s hk f⟩

/-- A function applied to some lanes changes no part of the context beside its lanes. -/
theorem Ctx.modLanes_eq_withLanes (c : Ctx) (ls : List Nat) (f : Nat → Lane → Lane) :
    c.modLanes ls f = { c with lanes := (c.modLanes ls f).lanes } := by
  induction ls generalizing c with
  | nil => rfl
  | cons l ls ih => exact ih (c.modLane l (f l))

/-- Retirement changes the lanes, `instret` and the progress of the instruction alone. -/
theorem Ctx.retire_eq_withLanes (c : Ctx) (ls : List Nat) :
    c.retire ls = { c with lanes := (c.retire ls).lanes, csr := { c.csr with instret := c.csr.instret + 1 },
                           phase := 0, walkFault := [], look := [] } := by
  unfold Ctx.retire
  simp only
  rw [Ctx.modLanes_eq_withLanes]

theorem onlyLanes_compute (c : Ctx) (ls : List Nat) (f : Nat → Lane → Lane) : OnlyLanes c ((c.modLanes ls f).retire ls) ls := by
  refine ⟨?_, fun l hl => Ctx.lane_compute_other c ls f hl⟩
  rw [Ctx.retire_eq_withLanes (c.modLanes ls f) ls, Ctx.modLanes_eq_withLanes c ls f]

/-- 10 R210: an instruction that computes in each lane and can issue completes; every executing lane is what the computation makes of
it, at PC + 4. -/
theorem laneOp_completes {i : Instr} {s : State} (h : s.canIssue i = true) (f : Lane → Lane) :
    ∃ t, laneOp i s f = .next t ∧ OnlyOwn s t ∧ OnlyLanes s.own (t.ctx s.here) s.issue ∧ ∀ l, l ∈ s.issue →
      (t.ctx s.here).lane l = (f (s.own.lane l)).advanced := by
  refine ⟨_, laneOp_open h f, onlyOwn_modCtx_here s _, ?_, fun l hl => ?_⟩
  · rw [State.ctx_modCtx_self]
    exact onlyLanes_compute s.own s.issue _
  · rw [State.ctx_modCtx_self]
    exact Ctx.lane_compute_mem s.own s.issue _ s.own.executing_nodup hl

/-! ## Registers and flags of a lane -/

@[simp] theorem Lane.pc_advanced (l : Lane) : l.advanced.pc = l.pc + 4 := rfl

@[simp] theorem Lane.x_advanced (l : Lane) : l.advanced.x = l.x := rfl

@[simp] theorem Lane.f_advanced (l : Lane) : l.advanced.f = l.f := rfl

@[simp] theorem Lane.fcsr_advanced (l : Lane) : l.advanced.fcsr = l.fcsr := rfl

@[simp] theorem Lane.rx_advanced (l : Lane) (r : Nat) : l.advanced.rx r = l.rx r := rfl

@[simp] theorem Lane.rf_advanced (l : Lane) (r : Nat) : l.advanced.rf r = l.rf r := rfl

@[simp] theorem Lane.f_wx (l : Lane) (r : Nat) (v : Reg) : (l.wx r v).f = l.f := by
  unfold Lane.wx; split <;> rfl

@[simp] theorem Lane.fcsr_wx (l : Lane) (r : Nat) (v : Reg) : (l.wx r v).fcsr = l.fcsr := by
  unfold Lane.wx; split <;> rfl

@[simp] theorem Lane.helper_wx (l : Lane) (r : Nat) (v : Reg) : (l.wx r v).helper = l.helper := by
  unfold Lane.wx; split <;> rfl

@[simp] theorem Lane.x_wf (l : Lane) (r : Nat) (v : Reg) : (l.wf r v).x = l.x := rfl

@[simp] theorem Lane.fcsr_wf (l : Lane) (r : Nat) (v : Reg) : (l.wf r v).fcsr = l.fcsr := rfl

@[simp] theorem Lane.helper_wf (l : Lane) (r : Nat) (v : Reg) : (l.wf r v).helper = l.helper := rfl

/-- A register written by its number reads 0 where the number is 0, and the value elsewhere (00 R9). -/
theorem Lane.rx_wx_toNat (l : Lane) (d : BitVec 5) (v : Reg) : (l.wx d.toNat v).rx d.toNat = if d = 0#5 then Reg.zero else v := by
  split
  case isTrue h => rw [h]; rfl
  case isFalse h => exact Lane.rx_wx_self l (fun e => h (BitVec.eq_of_toNat_eq e)) v

/-- Accruing flags writes `fcsr` alone. -/
theorem Lane.accrue_eq_withFcsr (l : Lane) (p : Bool) (fl : FFlags) :
    l.accrue p fl = { l with fcsr := if l.helper || p then l.fcsr else l.fcsr ||| BitVec.ofNat 8 (fl % 32) } := by
  unfold Lane.accrue; split <;> rfl

@[simp] theorem Lane.accrue_zero (l : Lane) (p : Bool) : l.accrue p 0 = l := by simp [Lane.accrue]

@[simp] theorem Lane.fcsr_accrue (l : Lane) (p : Bool) (fl : FFlags) :
    (l.accrue p fl).fcsr = if l.helper || p then l.fcsr else l.fcsr ||| BitVec.ofNat 8 (fl % 32) := by
  rw [Lane.accrue_eq_withFcsr]

@[simp] theorem Lane.pc_accrue (l : Lane) (p : Bool) (fl : FFlags) : (l.accrue p fl).pc = l.pc := by
  rw [Lane.accrue_eq_withFcsr]

@[simp] theorem Lane.x_accrue (l : Lane) (p : Bool) (fl : FFlags) : (l.accrue p fl).x = l.x := by
  rw [Lane.accrue_eq_withFcsr]

@[simp] theorem Lane.f_accrue (l : Lane) (p : Bool) (fl : FFlags) : (l.accrue p fl).f = l.f := by
  rw [Lane.accrue_eq_withFcsr]

@[simp] theorem Lane.rx_accrue (l : Lane) (p : Bool) (fl : FFlags) (r : Nat) : (l.accrue p fl).rx r = l.rx r := by
  rw [Lane.accrue_eq_withFcsr]; rfl

@[simp] theorem Lane.rf_accrue (l : Lane) (p : Bool) (fl : FFlags) (r : Nat) : (l.accrue p fl).rf r = l.rf r := by
  rw [Lane.accrue_eq_withFcsr]; rfl

/-! ## Shifts of a word by an immediate -/

/-- A shift amount of 5 bits is below 32, so the W shifts take it whole. -/
theorem zext_toNat_mod_32 (h : BitVec 5) : (zext h).toNat % 32 = h.toNat := by
  unfold zext
  rw [BitVec.toNat_setWidth]
  omega

theorem sllwOp_zext (x : Word) (h : BitVec 5) : sllwOp x (zext h) = sext (lo32 x <<< h.toNat) := by
  rw [sllwOp, zext_toNat_mod_32]

theorem srlwOp_zext (x : Word) (h : BitVec 5) : srlwOp x (zext h) = sext (lo32 x >>> h.toNat) := by
  rw [srlwOp, zext_toNat_mod_32]

theorem srawOp_zext (x : Word) (h : BitVec 5) : srawOp x (zext h) = sext ((lo32 x).sshiftRight h.toNat) := by
  rw [srawOp, zext_toNat_mod_32]

/-! ## The rows -/

/-- Every integer row is a computation in the lanes that writes the row's result to its destination. Only the W shifts by an
immediate, which the model takes modulo 32, are not so by definition. -/
theorem exec_intRow {i : Instr} {d : BitVec 5} {f : Lane → Reg} (h : Instr.intRow i = some (d, f)) (s : State) :
    exec i s = laneOp i s fun l => l.wx d.toNat (f l) := by
  cases i
  case slliw => cases h; simp only [exec, execSlliw, unaryX, sllwOp_zext, Lane.un]
  case srliw => cases h; simp only [exec, execSrliw, unaryX, srlwOp_zext, Lane.un]
  case sraiw => cases h; simp only [exec, execSraiw, unaryX, srawOp_zext, Lane.un]
  all_goals cases h
  all_goals rfl

/-- Every row with an f destination writes its result there and accrues its flags; the move from an x register, which the model lets accrue
nothing, has a row with no flags. -/
theorem exec_fpRow {i : Instr} {d : BitVec 5} {f : Lane → FpOut} (h : Instr.fpRow i = some (d, f)) (s : State) :
    exec i s = laneOp i s fun l => (l.wf d.toNat (Reg.of (f l).v (f l).p)).accrue (f l).p (f l).fl := by
  cases i
  case fmvToF => cases h; simp only [exec, execFmvToF, Lane.accrue_zero]
  all_goals cases h
  all_goals rfl

/-- Every floating-point row with an x destination writes its result there and accrues its flags. -/
theorem exec_fpToXRow {i : Instr} {d : BitVec 5} {f : Lane → FpOut} (h : Instr.fpToXRow i = some (d, f)) (s : State) :
    exec i s = laneOp i s fun l => l.fpToX d (f l).p (f l).v (f l).fl := by
  cases i
  all_goals cases h
  all_goals rfl

/-! ## The results -/

/-- Settles O4: every integer row is a computation in the lanes, so it completes and leaves in each executing lane what it writes. -/
theorem integerResults : Obligations.IntegerResults := by
  intro s i d f hrow hi
  obtain ⟨t, ht, -, -, hlane⟩ := laneOp_completes hi fun l => l.wx d.toNat (f l)
  refine ⟨t, (exec_intRow hrow s).trans ht, fun l hl => ?_⟩
  rw [hlane l hl]
  exact ⟨by simp, by rw [Lane.rx_advanced, Lane.rx_wx_toNat]⟩

/-- The rows with an f destination: what the lanes hold after the write and the accrual. -/
theorem fpRow_completes : fpResults := by
  intro s i d f hrow hi
  obtain ⟨t, ht, hown, hlanes, hlane⟩ :=
    laneOp_completes hi fun l => (l.wf d.toNat (Reg.of (f l).v (f l).p)).accrue (f l).p (f l).fl
  refine ⟨t, (exec_fpRow hrow s).trans ht, hown, hlanes, fun l hl => ?_⟩
  rw [hlane l hl]
  refine ⟨by simp, by simp, fun r hr => ?_, by simp, by simp⟩
  rw [Lane.rf_advanced, Lane.rf_accrue, Lane.rf_wf_other _ hr]

/-- The floating-point rows with an x destination: likewise, where a write to x0 is discarded. -/
theorem fpToXRow_completes : fpToIntegerResults := by
  intro s i d f hrow hi
  obtain ⟨t, ht, hown, hlanes, hlane⟩ := laneOp_completes hi fun l => l.fpToX d (f l).p (f l).v (f l).fl
  refine ⟨t, (exec_fpToXRow hrow s).trans ht, hown, hlanes, fun l hl => ?_⟩
  rw [hlane l hl, Lane.fpToX]
  refine ⟨by simp, ?_, fun r hr => ?_, by simp, by simp⟩
  · rw [Lane.rx_advanced, Lane.rx_accrue, Lane.rx_wx_toNat]
  · rw [Lane.rx_advanced, Lane.rx_accrue, Lane.rx_wx_other _ hr]

/-- Settles O8: both tables are computations in the lanes that write a register and accrue flags. -/
theorem fpInstructions : Obligations.FpInstructions := ⟨fpRow_completes, fpToXRow_completes⟩

end Sys2Proof.Machine
end

section
/-! Words written out from the encodings (09 R184, 25 R432): each is what the encoder writes for its instruction, so it decodes to it. -/
namespace Sys2Proof.Laws

/-- The word that the encoder writes for a well-formed instruction decodes to it, where the word tells it apart (`Instr.written`). -/
theorem decode_of_encode_eq {i : Instr} {w : BitVec 32} (round : RoundTrip.Statement i) (hasWord : i.hasWord = true)
    (wf : i.wellFormed = true) (written : i.written = i) (enc : encode i = w) : decode w = .ok i := by
  rw [← enc, round hasWord wf, written]

/-- Settles O2: each word is the encoding of its instruction, and the encoding of that instruction decodes to it. -/
theorem decodeWords : Obligations.DecodeWords :=
  ⟨decode_of_encode_eq (RoundTrip.opImm 1#12 0#5 0#3 1#5) rfl rfl rfl rfl,
   decode_of_encode_eq (RoundTrip.mmaSp 12#5 11#5 10#5 0#5) rfl rfl rfl rfl,
   decode_of_encode_eq (RoundTrip.mzero 0#5) rfl rfl rfl rfl,
   decode_of_encode_eq (RoundTrip.epi 5#5 0#5) rfl rfl rfl rfl,
   decode_of_encode_eq (RoundTrip.waitcnt 0#5 1#5) rfl rfl rfl rfl,
   decode_of_encode_eq RoundTrip.hend rfl rfl rfl rfl,
   decode_of_encode_eq RoundTrip.uiret rfl rfl rfl rfl,
   decode_of_encode_eq (RoundTrip.csrrs 0xCC0#12 0#5 10#5) rfl rfl rfl rfl,
   decode_of_encode_eq (RoundTrip.stRel 3#2 5#3 11#5 10#5) rfl rfl rfl rfl⟩

end Sys2Proof.Laws
end

section
/-! Division and multiplication (10 R197, R198): the model's operations are the library's, and what those compute exactly. -/
namespace Sys2Proof.Machine

/-! ## Division as the library's operations -/

/-- 10 R198: by zero, a quotient is all ones and a remainder is the dividend, at any width. -/
@[simp] theorem divOp_zero {n : Nat} (f : BitVec 2) (x : BitVec n) :
    divOp f x 0#n = if f.toNat < 2 then BitVec.allOnes n else x := by
  unfold divOp
  split
  case h_1 hf => simp [hf]
  case h_2 hf => simp [hf]
  case h_3 hf => simp [hf]
  case h_4 h0 h1 h2 =>
    have hf : ¬f.toNat < 2 := by
      rw [imp_false] at h0 h1
      omega
    simp [hf]

theorem ofInt_tdiv_toInt {n : Nat} (x y : BitVec n) : BitVec.ofInt n (x.toInt.tdiv y.toInt) = x.sdiv y :=
  BitVec.eq_of_toInt_eq (by rw [BitVec.toInt_ofInt, BitVec.toInt_sdiv])

theorem ofInt_tmod_toInt {n : Nat} (x y : BitVec n) : BitVec.ofInt n (x.toInt.tmod y.toInt) = x.srem y := by
  rw [← BitVec.toInt_srem, BitVec.ofInt_toInt]

theorem divOp_quotient {n : Nat} (x : BitVec n) {y : BitVec n} (hy : y ≠ 0) : divOp 0#2 x y = x.sdiv y :=
  (if_neg fun e => hy (BitVec.eq_of_toNat_eq e)).trans (ofInt_tdiv_toInt x y)

theorem divOp_quotientU {n : Nat} (x : BitVec n) {y : BitVec n} (hy : y ≠ 0) : divOp 1#2 x y = x / y := by
  refine (if_neg fun e => hy (BitVec.eq_of_toNat_eq e)).trans ?_
  rw [← BitVec.toNat_udiv, BitVec.ofNat_toNat, BitVec.setWidth_eq]

theorem divOp_remainder {n : Nat} (x : BitVec n) {y : BitVec n} (hy : y ≠ 0) : divOp 2#2 x y = x.srem y :=
  (if_neg fun e => hy (BitVec.eq_of_toNat_eq e)).trans (ofInt_tmod_toInt x y)

theorem divOp_remainderU {n : Nat} (x : BitVec n) {y : BitVec n} (hy : y ≠ 0) : divOp 3#2 x y = x % y := by
  refine (if_neg fun e => hy (BitVec.eq_of_toNat_eq e)).trans ?_
  rw [← BitVec.toNat_umod, BitVec.ofNat_toNat, BitVec.setWidth_eq]

/-! ## The identities of division -/

/-- A signed quotient and remainder recompose the dividend modulo the word: also in the overflow, where the quotient wraps. -/
theorem sdiv_mul_add_srem {n : Nat} (x y : BitVec n) : x.sdiv y * y + x.srem y = x := by
  calc x.sdiv y * y + x.srem y
      = BitVec.ofInt n (x.toInt.tdiv y.toInt) * BitVec.ofInt n y.toInt + BitVec.ofInt n (x.toInt.tmod y.toInt) := by
        rw [ofInt_tdiv_toInt, ofInt_tmod_toInt, BitVec.ofInt_toInt]
    _ = BitVec.ofInt n (x.toInt.tdiv y.toInt * y.toInt + x.toInt.tmod y.toInt) := by
        rw [BitVec.ofInt_add, BitVec.ofInt_mul]
    _ = x := by rw [Int.tdiv_mul_add_tmod, BitVec.ofInt_toInt]

theorem udiv_mul_add_umod {n : Nat} (x y : BitVec n) : x / y * y + x % y = x := by
  apply BitVec.eq_of_toNat_eq
  rw [BitVec.toNat_add, BitVec.toNat_mul, BitVec.toNat_udiv, BitVec.toNat_umod, Nat.mod_add_mod, Nat.div_add_mod',
    Nat.mod_eq_of_lt x.isLt]

/-- The remainder is smaller than the divisor. -/
theorem natAbs_toInt_srem_lt {n : Nat} (x : BitVec n) {y : BitVec n} (hy : y ≠ 0) :
    (x.srem y).toInt.natAbs < y.toInt.natAbs := by
  have hy' : y.toInt ≠ 0 := fun e => hy (BitVec.eq_of_toInt_eq (e.trans BitVec.toInt_zero.symm))
  rw [BitVec.toInt_srem, Int.natAbs_tmod]
  exact Nat.mod_lt _ (Int.natAbs_pos.mpr hy')

theorem toInt_srem_nonneg {n : Nat} {x : BitVec n} (y : BitVec n) (hx : 0 ≤ x.toInt) : 0 ≤ (x.srem y).toInt := by
  rw [BitVec.toInt_srem]
  exact Int.tmod_nonneg _ hx

theorem toInt_srem_nonpos {n : Nat} {x : BitVec n} (y : BitVec n) (hx : x.toInt ≤ 0) : (x.srem y).toInt ≤ 0 := by
  have h := Int.tmod_nonneg y.toInt (Int.neg_nonneg_of_nonpos hx)
  rw [Int.neg_tmod] at h
  rw [BitVec.toInt_srem]
  omega

/-- 10 R197 and R198: the quotients and remainders of any width, by a divisor of 0 and by any other. -/
theorem divOp_identity : divisionIdentity := by
  intro n x y
  by_cases hy : y = 0
  case pos =>
    subst hy
    simp
  case neg =>
    rw [divOp_quotient x hy, divOp_quotientU x hy, divOp_remainder x hy, divOp_remainderU x hy]
    refine ⟨sdiv_mul_add_srem x y, udiv_mul_add_umod x y, fun _ => ⟨BitVec.toNat_udiv, BitVec.toNat_umod⟩, fun _ hov => ?_⟩
    have hfits : x ≠ BitVec.intMin n ∨ y ≠ -1#n := by
      rw [BitVec.neg_one_eq_allOnes]
      exact not_and_or.mp hov
    exact ⟨BitVec.toInt_sdiv_of_ne_or_ne x y hfits, BitVec.toInt_srem x y, natAbs_toInt_srem_lt x hy,
      toInt_srem_nonneg y, toInt_srem_nonpos y⟩

/-! ## The halves of a product -/

/-- The words of a number that fits in two: its signed high word and its unsigned low word. -/
theorem ofInt_high_low {p : Int} (lo : -2 ^ 127 ≤ p) (hi : p < 2 ^ 127) :
    (BitVec.ofInt 64 (p / 2 ^ 64)).toInt * 2 ^ 64 + (BitVec.ofInt 64 p).toNat = p := by
  rw [BitVec.toInt_ofInt_eq_self (by decide) (by omega) (by omega), BitVec.toNat_ofInt]
  omega

/-- The low word of a product is the same whether the second operand is read signed or unsigned. -/
theorem mulOp_low_toInt (x y : Word) : mulOp 0#2 x y = BitVec.ofInt 64 (x.toInt * y.toInt) := by
  rw [BitVec.ofInt_mul, BitVec.ofInt_toInt, BitVec.ofInt_toInt]
  rfl

theorem mulOp_low_toNat (x y : Word) : mulOp 0#2 x y = BitVec.ofInt 64 (x.toInt * (y.toNat : Int)) := by
  rw [BitVec.ofInt_mul, BitVec.ofInt_toInt, BitVec.ofInt_natCast, BitVec.ofNat_toNat, BitVec.setWidth_eq]
  rfl

/-- 10 R197: each high half, with the low half, is the exact product of its readings of the operands. -/
theorem mulOp_highProducts : highProducts := by
  intro x y
  have hx : -2 ^ 63 ≤ x.toInt ∧ x.toInt < 2 ^ 63 := ⟨BitVec.le_toInt x, BitVec.toInt_lt⟩
  have hy : -2 ^ 63 ≤ y.toInt ∧ y.toInt < 2 ^ 63 := ⟨BitVec.le_toInt y, BitVec.toInt_lt⟩
  have hyn : y.toNat < 2 ^ 64 := y.isLt
  refine ⟨?_, ?_, ?_⟩
  case refine_1 =>
    have hp : x.toNat * y.toNat < 2 ^ 64 * 2 ^ 64 := Nat.mul_lt_mul'' x.isLt hyn
    change (BitVec.ofNat 64 (x.toNat * y.toNat / 2 ^ 64)).toNat * 2 ^ 64 + (x * y).toNat = x.toNat * y.toNat
    rw [BitVec.toNat_ofNat, BitVec.toNat_mul]
    omega
  case refine_2 =>
    rw [mulOp_low_toInt]
    exact ofInt_high_low (by nlinarith) (by nlinarith)
  case refine_3 =>
    rw [mulOp_low_toNat]
    exact ofInt_high_low (by nlinarith) (by nlinarith)

/-- Settles O7: division and multiplication agree with exact arithmetic. -/
theorem arithmeticIdentities : Obligations.ArithmeticIdentities := ⟨divOp_identity, mulOp_highProducts⟩

end Sys2Proof.Machine
end

section
/-! The integer instructions in the lanes (10 R195 to R199, R210): what they leave unchanged, and the corners of division. -/
namespace Sys2Proof.Machine

/-- A write of an x register changes the x registers alone. -/
theorem Lane.wx_eq_withX (l : Lane) (r : Nat) (v : Reg) : l.wx r v = { l with x := (l.wx r v).x } := by
  unfold Lane.wx; split <;> rfl

/-- Settles O5: an integer row is a computation in the lanes that writes one x register of each. -/
theorem integerFrame : Obligations.IntegerFrame := by
  intro s t i d f hrow hi ht
  obtain ⟨u, hu, hown, hlanes, hlane⟩ := laneOp_completes hi fun l => l.wx d.toNat (f l)
  obtain rfl : u = t := Host.Outcome.next.inj (hu.symm.trans ((exec_intRow hrow s).symm.trans ht))
  refine ⟨hown, hlanes, fun l hl => ?_⟩
  rw [hlane l hl]
  refine ⟨fun r hr => ?_, ?_⟩
  · rw [Lane.rx_advanced, Lane.rx_wx_other _ hr]
  · rw [Lane.x_advanced, Lane.advanced, Lane.pc_wx, Lane.wx_eq_withX]

/-! ## The corners of division -/

/-- 10 R198: the overflow gives the dividend as quotient, and 0 as remainder, at any width. -/
theorem divOp_quotient_overflow {n : Nat} (hn : 0 < n) :
    divOp 0#2 (BitVec.intMin n) (BitVec.allOnes n) = BitVec.intMin n := by
  rw [divOp_quotient _ (mt BitVec.allOnes_eq_zero_iff.mp hn.ne'), ← BitVec.neg_one_eq_allOnes, BitVec.intMin_sdiv_neg_one]

theorem divOp_remainder_overflow {n : Nat} (hn : 0 < n) : divOp 2#2 (BitVec.intMin n) (BitVec.allOnes n) = 0 := by
  refine (divOp_remainder _ (mt BitVec.allOnes_eq_zero_iff.mp hn.ne')).trans (BitVec.eq_of_toInt_eq ?_)
  rw [BitVec.toInt_srem, BitVec.toInt_allOnes, if_pos hn]
  simp

theorem sext_allOnes : sext (BitVec.allOnes 32) = BitVec.allOnes 64 := by decide

/-- 10 R198 at 64 bits. -/
theorem divOp_corners (f : BitVec 2) (x y : Word) :
    (y = 0 → divOp f x y = if f.toNat < 2 then BitVec.allOnes 64 else x)
    ∧ (x = BitVec.intMin 64 → y = BitVec.allOnes 64 →
        (f = 0#2 → divOp f x y = BitVec.intMin 64) ∧ (f = 2#2 → divOp f x y = 0)) := by
  refine ⟨?_, ?_⟩
  · rintro rfl
    exact divOp_zero f x
  · rintro rfl rfl
    exact ⟨by rintro rfl; exact divOp_quotient_overflow (by decide), by rintro rfl; exact divOp_remainder_overflow (by decide)⟩

/-- 10 R198 at 32 bits, sign-extended. -/
theorem sext_divOp_corners (f : BitVec 2) (x y : BitVec 32) :
    (y = 0 → sext (divOp f x y) = if f.toNat < 2 then BitVec.allOnes 64 else sext x)
    ∧ (x = BitVec.intMin 32 → y = BitVec.allOnes 32 →
        (f = 0#2 → sext (divOp f x y) = sext (BitVec.intMin 32)) ∧ (f = 2#2 → sext (divOp f x y) = 0)) := by
  refine ⟨?_, ?_⟩
  · rintro rfl
    rw [show (0 : BitVec 32) = 0#32 from rfl, divOp_zero, apply_ite sext, sext_allOnes]
  · rintro rfl rfl
    refine ⟨?_, ?_⟩
    · rintro rfl
      rw [divOp_quotient_overflow (by decide)]
    · rintro rfl
      rw [divOp_remainder_overflow (by decide)]
      rfl

/-- What the lanes hold after an integer row whose destination is not x0. -/
theorem intRow_completes {s : State} {i : Instr} {d : BitVec 5} {f : Lane → Reg} (hrow : Instr.intRow i = some (d, f))
    (hd : d ≠ 0#5) (hi : s.canIssue i = true) :
    ∃ t, exec i s = .next t ∧ OnlyLanes s.own (t.ctx s.here) s.issue ∧ ∀ l, l ∈ s.issue →
      ((t.ctx s.here).lane l).pc = (s.own.lane l).pc + 4 ∧ ((t.ctx s.here).lane l).rx d.toNat = f (s.own.lane l) := by
  obtain ⟨t, ht, hres⟩ := integerResults s i d f hrow hi
  obtain ⟨-, hlanes, -⟩ := integerFrame s t i d f hrow hi ht
  refine ⟨t, ht, hlanes, fun l hl => ?_⟩
  obtain ⟨hpc, hrd⟩ := hres l hl
  exact ⟨hpc, hrd.trans (if_neg hd)⟩

/-- Settles O6: the rows of division at both lengths complete, and their operation has the corners of the table. -/
theorem divisionCorners : Obligations.DivisionCorners := by
  intro s b a d f hd
  refine ⟨fun hi => ?_, fun hi => ?_⟩
  case refine_1 =>
    obtain ⟨t, ht, hlanes, hlane⟩ := intRow_completes rfl hd hi
    refine ⟨t, ht, hlanes, fun l hl => ?_⟩
    obtain ⟨hpc, hrd⟩ := hlane l hl
    refine ⟨hpc, ?_⟩
    rw [hrd]
    exact divOp_corners f _ _
  case refine_2 =>
    obtain ⟨t, ht, hlanes, hlane⟩ := intRow_completes rfl hd hi
    refine ⟨t, ht, hlanes, fun l hl => ?_⟩
    obtain ⟨hpc, hrd⟩ := hlane l hl
    refine ⟨hpc, ?_⟩
    rw [hrd]
    exact sext_divOp_corners f _ _

end Sys2Proof.Machine
end

section
/-! Jumps and branches (10 R195, R212, R213): where no worker's jump faults, each executing lane goes where its jump sends it. -/
namespace Sys2Proof.Machine

/-- A lane that has jumped: its link is written, and it is at its target where it takes the jump without a fault, else at PC + 4. -/
def Lane.jumped (l : Lane) (j : Jump) (link : Option Nat) : Lane :=
  { (match link with
      | some r => l.wx r (Reg.of (l.pc + 4) false)
      | none => l) with pc := if j.taken && j.fault.isNone then j.target else l.pc + 4 }

/-- A jump has no fault where its sources are not poisoned and a target that it takes is aligned. -/
theorem Jump.fault_eq_none_iff (j : Jump) :
    j.fault = none ↔ j.poison = none ∧ (j.taken = true → j.target.toNat % 4 = 0) := by
  unfold Jump.fault
  split
  case h_1 r hp => simp [hp]
  case h_2 hp => simp [hp]

/-- Where a lane goes to its target: it takes the jump, and the jump has no fault. -/
theorem Jump.goes_iff (j : Jump) :
    (j.taken && j.fault.isNone) = true ↔ j.poison = none ∧ j.taken = true ∧ j.target.toNat % 4 = 0 := by
  rw [Bool.and_eq_true, Option.isNone_iff_eq_none, Jump.fault_eq_none_iff]
  tauto

theorem Lane.firstPoison_eq_none_iff (l : Lane) (rs : List Nat) : l.firstPoison rs = none ↔ ∀ r ∈ rs, (l.rx r).p = false := by
  simp [Lane.firstPoison]

/-- The lane that is looked for among the jumps of some lanes has its own. -/
theorem find?_map_jump {ls : List Nat} {f : Nat → Jump} (hf : ∀ n, (f n).lane = n) {l : Nat} (hl : l ∈ ls) :
    (ls.map f).find? (fun j => j.lane == l) = some (f l) := by
  induction ls with
  | nil => cases hl
  | cons m ls ih =>
    rw [List.map_cons, List.find?_cons, hf m]
    by_cases h : m = l
    · simp [h]
    · rw [beq_false_of_ne h]
      exact ih ((List.mem_cons.mp hl).resolve_left (Ne.symm h))

/-- A change of some lanes that retires with their PCs set changes the lanes, `instret` and the progress of the instruction alone. -/
theorem onlyLanes_retireAt (c : Ctx) (ls : List Nat) (f : Nat → Lane → Lane) : OnlyLanes c (c.modLanes ls f).retireAt ls :=
  ⟨by rw [Ctx.retireAt, Ctx.modLanes_eq_withLanes c ls f], fun _ hl => Ctx.lane_modLanes_other c ls f hl⟩

/-- A register that no worker of the issue holds poisoned. -/
theorem State.cleanX_iff (s : State) (r : BitVec 5) :
    s.cleanX r = true ↔ ∀ l, l ∈ s.issue → (s.own.lane l).helper = false → ((s.own.lane l).rx r.toNat).p = false := by
  simp only [State.cleanX, Ctx.poisoned, Ctx.workers, List.isEmpty_iff, List.filter_eq_nil_iff, List.mem_filter,
    Bool.not_eq_true', and_imp, Bool.not_eq_true]

/-- Jumps of the executing lanes none of which faults in a worker complete. -/
theorem jumpTo_completes {s : State} {f : Nat → Jump} (link : Option Nat) (hf : ∀ n, (f n).lane = n)
    (hok : ∀ l, l ∈ s.issue → (s.own.lane l).helper = false → (f l).fault = none) :
    let t := s.jumpTo s.here s.own s.issue (s.issue.map f) link
    OnlyOwn s t ∧ OnlyLanes s.own (t.ctx s.here) s.issue
      ∧ ∀ l, l ∈ s.issue → (t.ctx s.here).lane l = (s.own.lane l).jumped (f l) link := by
  have hbad : (((s.issue.map f).filter fun j => !(s.own.lane j.lane).helper).filterMap Jump.fault) = [] := by
    rw [List.filterMap_eq_nil_iff]
    intro j hj
    obtain ⟨hj, hw⟩ := List.mem_filter.mp hj
    obtain ⟨l, hl, rfl⟩ := List.mem_map.mp hj
    rw [hf l] at hw
    exact hok l hl (by simpa using hw)
  rw [State.jumpTo]
  simp only [hbad]
  refine ⟨onlyOwn_modCtx_here s _, ?_, fun l hl => ?_⟩
  · rw [State.ctx_modCtx_self]
    exact onlyLanes_retireAt s.own s.issue _
  · rw [State.ctx_modCtx_self]
    refine (Ctx.lane_modLanes_mem s.own s.issue _ s.own.executing_nodup hl).trans ?_
    rw [find?_map_jump hf hl]
    rfl

/-- A jump that links: the PC and rd of the lane, and what of it stays. -/
theorem Lane.jumped_link (l : Lane) (j : Jump) (d : BitVec 5) :
    (l.jumped j (some d.toNat)).rx d.toNat = (if d = 0#5 then Reg.zero else Reg.of (l.pc + 4) false)
    ∧ (∀ r, r ≠ d.toNat → (l.jumped j (some d.toNat)).rx r = l.rx r)
    ∧ (l.jumped j (some d.toNat)).f = l.f ∧ (l.jumped j (some d.toNat)).fcsr = l.fcsr :=
  ⟨Lane.rx_wx_toNat l d _, fun _ hr => Lane.rx_wx_other l hr _, Lane.f_wx l _ _, Lane.fcsr_wx l _ _⟩

/-! ## The instructions -/

/-- The jump of a lane that is numbered `n`, for each control transfer. -/
def Lane.jalJump (l : Lane) (i : BitVec 20) (n : Nat) : Jump :=
  { lane := n, target := l.pc + jumpOff i, taken := true, poison := none }

def Lane.jalrJump (l : Lane) (i : BitVec 12) (a : BitVec 5) (n : Nat) : Jump :=
  { lane := n, target := l.jalrTarget a i, taken := true, poison := l.firstPoison [a.toNat] }

def Lane.branchJump (l : Lane) (j : BitVec 7) (b a : BitVec 5) (f : BitVec 3) (k : BitVec 5) (n : Nat) : Jump :=
  { lane := n, target := l.pc + branchOff j k, taken := branchTaken f (l.rx a.toNat).v (l.rx b.toNat).v,
    poison := l.firstPoison [a.toNat, b.toNat] }

theorem exec_jal_open {s : State} {i : BitVec 20} {d : BitVec 5} (hi : s.canIssue (.jal i d) = true) :
    exec (.jal i d) s = .next (s.jumpTo s.here s.own s.issue (s.issue.map fun n => (s.own.lane n).jalJump i n) (some d.toNat)) :=
  gated_open hi _

theorem exec_jalr_open {s : State} {i : BitVec 12} {a d : BitVec 5} (hi : s.canIssue (.jalr i a d) = true) :
    exec (.jalr i a d) s =
      .next (s.jumpTo s.here s.own s.issue (s.issue.map fun n => (s.own.lane n).jalrJump i a n) (some d.toNat)) :=
  gated_open hi _

theorem exec_branch_open {s : State} {j : BitVec 7} {b a : BitVec 5} {f : BitVec 3} {k : BitVec 5}
    (hi : s.canIssue (.branch j b a f k) = true) :
    exec (.branch j b a f k) s =
      .next (s.jumpTo s.here s.own s.issue (s.issue.map fun n => (s.own.lane n).branchJump j b a f k n) none) :=
  gated_open hi _

theorem Lane.poison_jalrJump_iff (l : Lane) (i : BitVec 12) (a : BitVec 5) (n : Nat) :
    (l.jalrJump i a n).poison = none ↔ (l.rx a.toNat).p = false := by
  simp [Lane.jalrJump, Lane.firstPoison_eq_none_iff]

theorem Lane.poison_branchJump_iff (l : Lane) (j : BitVec 7) (b a : BitVec 5) (f : BitVec 3) (k : BitVec 5) (n : Nat) :
    (l.branchJump j b a f k n).poison = none ↔ (l.rx a.toNat).p = false ∧ (l.rx b.toNat).p = false := by
  simp [Lane.branchJump, Lane.firstPoison_eq_none_iff]

/-- A lane takes a branch where neither of its sources is poisoned and the condition holds. -/
theorem Lane.branches_iff (l : Lane) (j : BitVec 7) (b a : BitVec 5) (f : BitVec 3) (k : BitVec 5) (n : Nat) :
    l.branches f a b = true ↔ (l.branchJump j b a f k n).poison = none ∧ (l.branchJump j b a f k n).taken = true := by
  rw [Lane.poison_branchJump_iff, Lane.branches, Bool.and_eq_true, Bool.and_eq_true, Bool.not_eq_true', Bool.not_eq_true',
    and_assoc, and_comm]
  rfl

theorem jal_completes : jalCompletes := by
  intro s i d hi halign
  obtain ⟨hown, hlanes, hlane⟩ := jumpTo_completes (some d.toNat) (fun _ => rfl) fun l hl hw =>
    ((s.own.lane l).jalJump i l).fault_eq_none_iff.mpr ⟨rfl, fun _ => halign l hl hw⟩
  refine ⟨_, exec_jal_open hi, hown, hlanes, fun l hl => ?_⟩
  rw [hlane l hl]
  refine ⟨if_congr ?_ rfl rfl, Lane.jumped_link _ _ d⟩
  rw [Jump.goes_iff]
  simp [Lane.jalJump]

theorem jalr_completes : jalrCompletes := by
  intro s i a d hi hclean halign
  rw [State.cleanX_iff] at hclean
  obtain ⟨hown, hlanes, hlane⟩ := jumpTo_completes (some d.toNat) (fun _ => rfl) fun l hl hw =>
    ((s.own.lane l).jalrJump i a l).fault_eq_none_iff.mpr
      ⟨(Lane.poison_jalrJump_iff _ i a l).mpr (hclean l hl hw), fun _ => halign l hl hw⟩
  refine ⟨_, exec_jalr_open hi, hown, hlanes, fun l hl => ?_⟩
  rw [hlane l hl]
  refine ⟨if_congr ?_ rfl rfl, Lane.jumped_link _ _ d⟩
  rw [Jump.goes_iff, Lane.poison_jalrJump_iff]
  simp [Lane.jalrJump]

theorem branch_completes : branchCompletes := by
  intro s j b a f k hi ha hb halign
  rw [State.cleanX_iff] at ha hb
  have hok : ∀ l, l ∈ s.issue → (s.own.lane l).helper = false → ((s.own.lane l).branchJump j b a f k l).fault = none := by
    intro l hl hw
    have hp := (Lane.poison_branchJump_iff (s.own.lane l) j b a f k l).mpr ⟨ha l hl hw, hb l hl hw⟩
    exact (Jump.fault_eq_none_iff _).mpr ⟨hp, fun ht => halign l hl hw ((Lane.branches_iff _ j b a f k l).mpr ⟨hp, ht⟩)⟩
  obtain ⟨hown, hlanes, hlane⟩ := jumpTo_completes none (fun _ => rfl) hok
  refine ⟨_, exec_branch_open hi, hown, hlanes, fun l hl => ?_⟩
  rw [hlane l hl, Lane.jumped]
  congr 1
  refine if_congr ?_ rfl rfl
  rw [Jump.goes_iff, Lane.branches_iff _ j b a f k l, and_assoc]
  rfl

/-- Settles O9: each control transfer is a jump of every executing lane, with its target, condition and sources. -/
theorem controlTransfers : Obligations.ControlTransfers := ⟨jal_completes, jalr_completes, branch_completes⟩

end Sys2Proof.Machine
end

section
/-! Trap entry (15 R314 to R316; 18 R365, R366): the fields of `mstatus`, the lanes of the handler, and the trap of a context that
waits for nothing, holds no lease and runs no handler task. -/
namespace Sys2Proof

/-! ## Tables -/

/-- A table under a function of its entries: each entry that is there has the function's value. -/
theorem Tbl.get_map_entries {α : Type} (d : α) (t : Tbl α) (f : Nat → α → α) (k : Nat) :
    Tbl.get d (List.map (fun e => (e.1, f e.1 e.2)) t) k = if k ∈ t.map (·.1) then f k (Tbl.get d t k) else d := by
  induction t with
  | nil => rfl
  | cons e t ih =>
    simp only [List.map_cons, Tbl.get, List.mem_cons]
    by_cases h : e.1 = k
    · simp [h]
    · simp only [if_neg h, ih, Ne.symm h, false_or]

theorem Tbl.get_of_notMem {α : Type} (d : α) (t : Tbl α) {k : Nat} (h : k ∉ t.map (·.1)) : Tbl.get d t k = d := by
  induction t with
  | nil => rfl
  | cons e t ih =>
    rw [List.map_cons, List.mem_cons, not_or] at h
    obtain ⟨he, ht⟩ := h
    rw [Tbl.get, if_neg (Ne.symm he), ih ht]

end Sys2Proof

namespace Sys2Proof.Machine

/-! ## Fields of a word -/

/-- A field is written in its place, and every other bit stays. -/
theorem getLsbD_setField (w : Word) {lo len : Nat} (h : lo + len ≤ 64) (v b : Nat) :
    (setField w lo len v).getLsbD b = if lo ≤ b ∧ b < lo + len then v.testBit (b - lo) else w.getLsbD b := by
  have hform : w.toNat / 2 ^ (lo + len) * 2 ^ (lo + len) + v % 2 ^ len * 2 ^ lo + w.toNat % 2 ^ lo
      = 2 ^ lo * (2 ^ len * (w.toNat / 2 ^ (lo + len)) + v % 2 ^ len) + w.toNat % 2 ^ lo := by
    rw [pow_add]
    ring
  rw [setField, hform, BitVec.getLsbD_ofNat, Nat.testBit_two_pow_mul_add _ (Nat.mod_lt _ (Nat.two_pow_pos lo)),
    Nat.testBit_two_pow_mul_add _ (Nat.mod_lt _ (Nat.two_pow_pos len)), Nat.testBit_mod_two_pow, Nat.testBit_mod_two_pow,
    Nat.testBit_div_two_pow, ← BitVec.testBit_toNat]
  by_cases hlow : b < lo
  · simp [hlow, show b < 64 by omega, show ¬lo ≤ b by omega]
  · by_cases hin : b < lo + len
    · simp [hlow, show b < 64 by omega, show lo ≤ b by omega, hin, show b - lo < len by omega]
    · by_cases h64 : b < 64
      · simp [hlow, h64, hin, show ¬b - lo < len by omega, show b - lo - len + (lo + len) = b by omega]
      · simp [hin, h64, BitVec.testBit_toNat, BitVec.getLsbD_of_ge w b (by omega)]

theorem toNat_bits_setField (w : Word) {lo len : Nat} (h : lo + len ≤ 64) (v : Nat) :
    (bits lo len (setField w lo len v)).toNat = v % 2 ^ len := by
  apply Nat.eq_of_testBit_eq
  intro b
  rw [BitVec.testBit_toNat, bits, BitVec.getLsbD_extractLsb', getLsbD_setField w h, Nat.testBit_mod_two_pow]
  by_cases hb : b < len
  · simp [hb]
  · simp [hb]

/-- A field of one bit that is written with a bit holds it. -/
theorem getLsbD_setField_bit (w : Word) {b : Nat} (h : b + 1 ≤ 64) (p : Prop) [Decidable p] :
    (setField w b 1 (if p then 1 else 0)).getLsbD b = decide p := by
  rw [getLsbD_setField w h, if_pos ⟨le_rfl, Nat.lt_succ_self b⟩, Nat.sub_self]
  by_cases hp : p
  · simp [hp]
  · simp [hp]

/-- A write of a field leaves the bits outside it. -/
theorem getLsbD_setField_other (w : Word) {lo len b : Nat} (h : lo + len ≤ 64) (v : Nat) (hb : b < lo ∨ lo + len ≤ b) :
    (setField w lo len v).getLsbD b = w.getLsbD b := by
  rw [getLsbD_setField w h, if_neg (by omega)]

/-! ## The status, the mode and the saved registers -/

/-- An entry into S mode: `SPIE` takes `SIE`, `SIE` is clear, `SPP` takes the mode, and nothing else of `mstatus` changes. -/
theorem statusEntered_toS (w : Word) (mode : Mode) :
    statusEntered w (setField (setField (setField w 5 1 (if w.getLsbD 1 then 1 else 0)) 1 1 0) 8 1 (if mode = .u then 0 else 1))
      true mode := by
  refine ⟨?_, ?_, ?_, fun b h1 h5 h8 => ?_⟩
  · rw [getLsbD_setField_other _ (by decide) _ (by decide), getLsbD_setField_other _ (by decide) _ (by decide),
      getLsbD_setField_bit _ (by decide), Bool.decide_eq_true]
  · rw [getLsbD_setField_other _ (by decide) _ (by decide), getLsbD_setField _ (by decide)]
    rfl
  · rw [getLsbD_setField _ (by decide)]
    cases mode <;> rfl
  · rw [getLsbD_setField_other _ (by decide) _ (by omega), getLsbD_setField_other _ (by decide) _ (by omega),
      getLsbD_setField_other _ (by decide) _ (by omega)]

/-- An entry into M mode: `MPIE` takes `MIE`, `MIE` is clear, `MPP` takes the mode, and nothing else of `mstatus` changes. -/
theorem statusEntered_toM (w : Word) (mode : Mode) :
    statusEntered w (setField (setField (setField w 7 1 (if w.getLsbD 3 then 1 else 0)) 3 1 0) 11 2 mode.code) false mode := by
  refine ⟨?_, ?_, ?_, fun b h3 h7 h11 h12 => ?_⟩
  · rw [getLsbD_setField_other _ (by decide) _ (by decide), getLsbD_setField_other _ (by decide) _ (by decide),
      getLsbD_setField_bit _ (by decide), Bool.decide_eq_true]
  · rw [getLsbD_setField_other _ (by decide) _ (by decide), getLsbD_setField _ (by decide)]
    rfl
  · rw [toNat_bits_setField _ (by decide)]
    cases mode <;> rfl
  · rw [getLsbD_setField_other _ (by decide) _ (by omega), getLsbD_setField_other _ (by decide) _ (by omega),
      getLsbD_setField_other _ (by decide) _ (by omega)]

@[simp] theorem Ctx.lane_enterMode (c : Ctx) (toS : Bool) (cause tval epc mask : Word) (l : Nat) :
    (c.enterMode toS cause tval epc mask).lane l = c.lane l := by
  cases toS <;> rfl

@[simp] theorem Ctx.depth_enterMode (c : Ctx) (toS : Bool) (cause tval epc mask : Word) :
    (c.enterMode toS cause tval epc mask).depth = c.depth := by
  cases toS <;> rfl

theorem Ctx.statusEntered_enterMode (c : Ctx) (toS : Bool) (cause tval epc mask : Word) :
    statusEntered c.csr.mstatus (c.enterMode toS cause tval epc mask).csr.mstatus toS c.mode := by
  cases toS
  case true => exact statusEntered_toS c.csr.mstatus c.mode
  case false => exact statusEntered_toM c.csr.mstatus c.mode

/-! ## The lanes -/

/-- The numbers of the lanes that a context has. -/
def Ctx.laneNos (c : Ctx) : List Nat := c.lanes.map (·.1)

theorem Ctx.lane_mapLanes (c : Ctx) (f : Nat → Lane → Lane) (l : Nat) :
    (c.mapLanes f).lane l = if l ∈ c.laneNos then f l (c.lane l) else Lane.idle :=
  Tbl.get_map_entries Lane.idle c.lanes f l

theorem Ctx.lane_of_notMem (c : Ctx) {l : Nat} (h : l ∉ c.laneNos) : c.lane l = Lane.idle :=
  Tbl.get_of_notMem Lane.idle c.lanes h

theorem Ctx.candidates_subset_runnable (c : Ctx) : c.candidates ⊆ c.runnable := by
  unfold Ctx.candidates
  simp only
  split_ifs
  · exact List.filter_subset_self _
  · exact List.filter_subset_self _
  · exact List.filter_subset_self _
  · exact List.filter_subset_self _
  · exact List.Subset.refl _

/-- A context has the lanes that it executes. -/
theorem Ctx.executing_subset_laneNos (c : Ctx) : c.executing ⊆ c.laneNos := by
  intro l hl
  have hrun : l ∈ c.runnable := c.candidates_subset_runnable (List.mem_of_mem_filter hl)
  obtain ⟨e, he, rfl⟩ := List.mem_map.mp (List.mem_dedup.mp hrun)
  exact List.mem_map_of_mem (List.mem_of_mem_filter he)

theorem Ctx.workers_subset (c : Ctx) (ls : List Nat) : c.workers ls ⊆ ls := List.filter_subset_self ls

/-- What an entry of the lanes `ls` into a handler at `pc`, to depth `d`, makes of a lane. -/
def Lane.entering (ls : List Nat) (pc : Word) (d n : Nat) (l : Lane) : Lane :=
  if ls.contains n then { l with pc := pc } else if l.st == .runnable then { l with st := .trap, depth := d } else l

theorem Ctx.lane_enterLanes (c : Ctx) (ls : List Nat) (pc : Word) (l : Nat) :
    (c.enterLanes ls pc).lane l =
      if l ∈ c.laneNos then Lane.entering ls pc (c.depth + 1) l (c.lane l) else Lane.idle :=
  Ctx.lane_mapLanes c (Lane.entering ls pc (c.depth + 1)) l

theorem Ctx.lane_enterLanes_mem (c : Ctx) {ls : List Nat} (pc : Word) {l : Nat} (hl : l ∈ ls) (hc : l ∈ c.laneNos) :
    (c.enterLanes ls pc).lane l = { c.lane l with pc := pc } := by
  rw [Ctx.lane_enterLanes, if_pos hc, Lane.entering, if_pos (List.contains_iff_mem.mpr hl)]

theorem Ctx.lane_enterLanes_other (c : Ctx) {ls : List Nat} (pc : Word) {l : Nat} (hl : l ∉ ls) :
    (c.enterLanes ls pc).lane l =
      if (c.lane l).st = .runnable then { c.lane l with st := .trap, depth := c.depth + 1 } else c.lane l := by
  rw [Ctx.lane_enterLanes]
  by_cases hc : l ∈ c.laneNos
  · rw [if_pos hc, Lane.entering, if_neg (mt List.contains_iff_mem.mp hl)]
    simp only [beq_iff_eq]
  · rw [if_neg hc, Ctx.lane_of_notMem c hc]
    rfl

/-! ## The entry -/

theorem Ctx.entered_enterMode (c : Ctx) (k : Nat) (toS : Bool) (cause tval epc : Word) {ls : List Nat}
    (hls : ls ⊆ c.laneNos) :
    Entered c ((c.enterLanes ls (c.handlerPc toS)).enterMode toS cause tval epc (laneMask k ls)) k toS cause tval epc ls := by
  refine ⟨Ctx.statusEntered_enterMode _ toS cause tval epc _, ?_, ?_, fun l hl => ?_, fun l hl => ?_⟩
  · cases toS
    case true => exact ⟨rfl, rfl⟩
    case false => exact ⟨rfl, rfl⟩
  · rw [Ctx.depth_enterMode]
    rfl
  · rw [Ctx.lane_enterMode, Ctx.lane_enterLanes_mem c _ hl (hls hl)]
    rfl
  · rw [Ctx.lane_enterMode, Ctx.lane_enterLanes_other c _ hl]

/-- The entry of a trap or an interrupt in a given mode. -/
theorem State.enterIn_entered (s : State) (k : Nat) (toS intr : Bool) (code : Nat) (tval epc : Word) {ls : List Nat}
    (hls : ls ⊆ (s.ctx k).laneNos) :
    Entered (s.ctx k) ((s.enterIn k toS intr code tval epc ls).ctx k) k toS
      (BitVec.ofNat 64 (code + if intr then 2 ^ 63 else 0)) tval epc ls := by
  rw [State.enterIn, State.ctx_modCtx_self]
  exact Ctx.entered_enterMode (s.ctx k) k toS _ tval epc hls

/-! ## The trap -/

theorem onlyAt_modCtx (s : State) (k : Nat) (f : Ctx → Ctx) : OnlyAt k s (s.modCtx k f) :=
  ⟨rfl, fun _ hj => State.ctx_modCtx_other s hj f⟩

theorem OnlyAt.trans {k : Nat} {s t u : State} (hst : OnlyAt k s t) (htu : OnlyAt k t u) : OnlyAt k s u := by
  obtain ⟨ht, htc⟩ := hst
  obtain ⟨hu, huc⟩ := htu
  refine ⟨?_, fun j hj => (huc j hj).trans (htc j hj)⟩
  rw [hu, ht]

theorem State.enter_onlyAt (s : State) (k : Nat) (intr : Bool) (code : Nat) (tval epc : Word) (ls : List Nat) :
    OnlyAt k s (s.enter k intr code tval epc ls) := by
  rw [State.enter, State.enterIn]
  exact onlyAt_modCtx s k _

/-- A context whose instruction starts anew. -/
def Ctx.restarted (c : Ctx) : Ctx := { c with phase := 0, walkFault := [], look := [] }

/-- A context that waits for nothing, holds no lease and runs no handler task enters its handler at once. -/
theorem State.trap_quiet {s : State} {k : Nat} (h : (s.ctx k).quiet) (cause : Nat) (tval epc : Word) (ls : List Nat) :
    s.trap k cause tval epc ls = (s.modCtx k Ctx.restarted).enter k false cause tval epc ls := by
  obtain ⟨hblock, hlease, htask⟩ := h
  have hcancel : s.cancelWaits k = s.modCtx k Ctx.restarted := by
    simp only [State.cancelWaits, hblock]
    rfl
  have hbreak : (s.modCtx k Ctx.restarted).breakRegion k = s.modCtx k Ctx.restarted := by
    simp only [State.breakRegion, State.ctx_modCtx_self, Ctx.restarted, hlease]
  have habort : (s.modCtx k Ctx.restarted).abortTask k = s.modCtx k Ctx.restarted := by
    simp only [State.abortTask, State.ctx_modCtx_self, Ctx.restarted, htask]
  have hregion : (s.ctx k).region = none := by rw [Ctx.region, hlease]
  simp only [State.trap, hcancel, hbreak, hregion, habort]

theorem Ctx.delegated_exception (c : Ctx) (cause : Nat) : c.delegated false cause = c.toS cause := by
  by_cases h : cause = 31
  · simp [Ctx.delegated, Ctx.toS, h]
  · simp [Ctx.delegated, Ctx.toS, h, bne, beq_false_of_ne h]

/-- 15 R314 to R316: the trap of such a context changes that context alone, which has entered the handler of the mode that `medeleg`
selects. -/
theorem State.trap_entered {s : State} {k : Nat} (h : (s.ctx k).quiet) (cause : Nat) (tval epc : Word) {ls : List Nat}
    (hls : ls ⊆ (s.ctx k).laneNos) :
    OnlyAt k s (s.trap k cause tval epc ls)
      ∧ Entered (s.ctx k) ((s.trap k cause tval epc ls).ctx k) k ((s.ctx k).toS cause) (BitVec.ofNat 64 cause) tval epc ls := by
  rw [State.trap_quiet h]
  refine ⟨(onlyAt_modCtx s k Ctx.restarted).trans (State.enter_onlyAt _ k false cause tval epc ls), ?_⟩
  have hent := State.enterIn_entered (s.modCtx k Ctx.restarted) k ((s.ctx k).toS cause) false cause tval epc (ls := ls)
    (by rw [State.ctx_modCtx_self]; exact hls)
  rw [State.enter, State.ctx_modCtx_self, Ctx.delegated_exception]
  rw [State.ctx_modCtx_self] at hent
  exact hent

end Sys2Proof.Machine
end

section
/-! Environment calls (10 R206), and the instructions that act once for a wave where helper lanes alone issue (11 R449). -/
namespace Sys2Proof.Machine

/-! ## Instructions that act once -/

theorem Ctx.lead_eq_none_iff (c : Ctx) (ls : List Nat) : c.lead ls = none ↔ c.workers ls = [] := List.head?_eq_none_iff

/-- An instruction that acts once acts where some executing lane is a worker. -/
theorem leading_of_workers {s : State} {k : Nat} {c : Ctx} {ls : List Nat} (h : c.workers ls ≠ []) (t : State) :
    leading s k c ls (fun _ => t) = t := by
  unfold leading
  split
  case h_1 hlead => exact absurd ((c.lead_eq_none_iff ls).mp hlead) h
  case h_2 => rfl

/-- Every instruction that acts once acts through the gate. -/
theorem exec_once_gated {i : Instr} (h : Instr.once i = true) (s : State) : ∃ body, exec i s = gated i s body := by
  cases i
  case ecall | ebreak => exact ⟨_, rfl⟩
  case csrrw | csrrs | csrrc | csrrwi | csrrsi | csrrci => exact ⟨_, rfl⟩
  case sfenceVma | rtabSet | ctxTag | islandQuery | islandSetPoint | islandGate | islandUngate => exact ⟨_, rfl⟩
  case barInit | barArrive | barExpect | barWait | barTry | bseal | bopen | qsend | qrecv | wflush => exact ⟨_, rfl⟩
  case mma | mzero | epi | mlink | mmaSp | pred | punion | sparge | msave | mrest => exact ⟨_, rfl⟩
  all_goals nomatch h

/-- 11 R449: where helper lanes alone issue, the gate retires an instruction that acts once. -/
theorem gated_onlyHelpers {i : Instr} {s : State} (honce : Instr.once i = true) (h : s.onlyHelpers = true)
    (body : State → Nat → Ctx → List Nat → State) : gated i s body = .next (s.retire s.here s.issue) := by
  simp only [State.onlyHelpers, State.issue, State.own, Bool.and_eq_true, Bool.not_eq_true', Bool.or_eq_true, beq_iff_eq,
    bne_iff_ne, Option.isNone_iff_eq_none, List.isEmpty_iff] at h
  obtain ⟨⟨⟨⟨⟨⟨⟨⟨hres, hexec⟩, hworkers⟩, hwfi⟩, hflush⟩, hcrossed⟩, hremote⟩, hexpired⟩, hblock⟩ := h
  have hwaits : ¬((s.ctx s.here).block.isSome = true ∧ (s.ctx s.here).phase = 0) := by
    rintro ⟨hb, hp⟩
    exact hblock.elim (fun e => by simp [e] at hb) fun e => e hp
  have hlead : (s.ctx s.here).lead (s.ctx s.here).executing = none := (Ctx.lead_eq_none_iff _ _).mpr hworkers
  rw [gated, gate, State.remoteOr_clean hremote, checked]
  rw [if_neg (by simp [hres, hexec, hwfi, hflush, hcrossed]), if_neg (by simp [hexpired]), if_neg (by simpa using hwaits),
    if_pos (by simp [honce, hlead])]
  rfl

/-- Retirement as a no-op: the lanes of the issue go to PC + 4, and nothing else of the context changes. -/
theorem onlyLanes_retire (c : Ctx) (ls : List Nat) : OnlyLanes c (c.retire ls) ls :=
  ⟨Ctx.retire_eq_withLanes c ls, fun _ hl => Ctx.lane_retire_other c hl⟩

theorem exec_once_onlyHelpers {i : Instr} {s : State} (honce : Instr.once i = true) (h : s.onlyHelpers = true) :
    ∃ t, exec i s = .next t ∧ OnlyAt s.here s t ∧ OnlyLanes s.own (t.ctx s.here) s.issue
      ∧ ∀ l, l ∈ s.issue → (t.ctx s.here).lane l = { s.own.lane l with pc := (s.own.lane l).pc + 4 } := by
  obtain ⟨body, hbody⟩ := exec_once_gated honce s
  refine ⟨_, hbody.trans (gated_onlyHelpers honce h body), onlyAt_modCtx s s.here _, ?_, fun l hl => ?_⟩
  · rw [State.retire, State.ctx_modCtx_self]
    exact onlyLanes_retire s.own s.issue
  · rw [State.retire, State.ctx_modCtx_self]
    exact Ctx.lane_retire_mem s.own s.own.executing_nodup hl

/-! ## The calls -/

/-- 18 R366: the trap of the workers of an issue. -/
theorem trap_workers_entered {s : State} (h : s.own.quiet) (cause : Nat) (tval : Word) :
    let t := s.trap s.here cause tval s.own.nextPc (s.own.workers s.issue)
    OnlyAt s.here s t ∧ Entered s.own (t.ctx s.here) s.here (s.own.toS cause) (BitVec.ofNat 64 cause) tval s.own.nextPc
      (s.own.workers s.issue) :=
  State.trap_entered h cause tval s.own.nextPc (List.Subset.trans (Ctx.workers_subset _ _) (Ctx.executing_subset_laneNos _))

theorem exec_ecall_open {s : State} (hi : s.canIssue .ecall = true) (hw : s.own.workers s.issue ≠ []) :
    exec .ecall s = .next (s.trap s.here (8 + s.own.mode.code) 0 s.own.nextPc (s.own.workers s.issue)) :=
  (gated_open hi _).trans (congrArg Host.Outcome.next (leading_of_workers hw _))

theorem exec_ebreak_open {s : State} (hi : s.canIssue .ebreak = true) (hw : s.own.workers s.issue ≠ []) :
    exec .ebreak s = .next (s.trap s.here 3 s.own.nextPc s.own.nextPc (s.own.workers s.issue)) :=
  (gated_open hi _).trans (congrArg Host.Outcome.next (leading_of_workers hw _))

/-- 10 R206: `ecall` enters its handler with the cause that belongs to the mode. -/
theorem exec_ecall_entered {s : State} {cause : Nat} (hq : s.own.quiet) (hi : s.canIssue .ecall = true)
    (hw : s.own.workers s.issue ≠ []) (hcause : 8 + s.own.mode.code = cause) :
    ∃ t, exec .ecall s = .next t ∧ OnlyAt s.here s t ∧
      Entered s.own (t.ctx s.here) s.here (s.own.toS cause) (BitVec.ofNat 64 cause) 0 s.own.nextPc (s.own.workers s.issue) := by
  obtain ⟨honly, hentered⟩ := trap_workers_entered hq cause 0
  exact ⟨_, hcause ▸ exec_ecall_open hi hw, honly, hentered⟩

/-- 10 R206: `ebreak` enters its handler with its PC in `tval`. -/
theorem exec_ebreak_entered {s : State} (hq : s.own.quiet) (hi : s.canIssue .ebreak = true)
    (hw : s.own.workers s.issue ≠ []) :
    ∃ t, exec .ebreak s = .next t ∧ OnlyAt s.here s t ∧
      Entered s.own (t.ctx s.here) s.here (s.own.toS 3) 3 s.own.nextPc s.own.nextPc (s.own.workers s.issue) := by
  obtain ⟨honly, hentered⟩ := trap_workers_entered hq 3 s.own.nextPc
  exact ⟨_, exec_ebreak_open hi hw, honly, hentered⟩

/-- Settles O16: both calls trap their workers, and an instruction that acts once retires where there are none. -/
theorem environmentCalls : Obligations.EnvironmentCalls := by
  intro s hquiet
  refine ⟨fun hi hw => exec_ecall_entered hquiet hi hw ?_, exec_ebreak_entered hquiet,
    fun i honce h => exec_once_onlyHelpers honce h⟩
  cases s.own.mode <;> rfl

end Sys2Proof.Machine
end

section
/-! The encoding as a whole (09 R164 to R184): every step of the opcode table either has a word, which decodes back to it, or is an event
of the device, which has none. -/
namespace Sys2Proof.Laws

/-- An event of the device has no word, so the family says nothing about it. -/
theorem roundTrip_of_no_word {i : Instr} (hasNone : i.hasWord = false) : RoundTrip.Statement i :=
  fun hasWord => nomatch hasNone.symm.trans hasWord

/-- Settles O1: by the constructor of the instruction, each with the round trip of its own word; the events of the device have none. -/
theorem roundTrip : Obligations.RoundTrip := by
  intro i
  cases i with
  | lui i d => exact RoundTrip.lui i d
  | auipc i d => exact RoundTrip.auipc i d
  | jal i d => exact RoundTrip.jal i d
  | jalr i a d => exact RoundTrip.jalr i a d
  | branch j b a f k => exact RoundTrip.branch j b a f k
  | load i a f d => exact RoundTrip.load i a f d
  | store j b a f k => exact RoundTrip.store j b a f k
  | opImm i a f d => exact RoundTrip.opImm i a f d
  | slli s a d => exact RoundTrip.slli s a d
  | srli s a d => exact RoundTrip.srli s a d
  | srai s a d => exact RoundTrip.srai s a d
  | addiw i a d => exact RoundTrip.addiw i a d
  | slliw s a d => exact RoundTrip.slliw s a d
  | srliw s a d => exact RoundTrip.srliw s a d
  | sraiw s a d => exact RoundTrip.sraiw s a d
  | op b a f d => exact RoundTrip.op b a f d
  | sub b a d => exact RoundTrip.sub b a d
  | sra b a d => exact RoundTrip.sra b a d
  | op32 b a f d => exact RoundTrip.op32 b a f d
  | subw b a d => exact RoundTrip.subw b a d
  | sraw b a d => exact RoundTrip.sraw b a d
  | fence f p s a d => exact RoundTrip.fence f p s a d
  | fenceI i a d => exact RoundTrip.fenceI i a d
  | ecall => exact RoundTrip.ecall
  | ebreak => exact RoundTrip.ebreak
  | mul b a f d => exact RoundTrip.mul b a f d
  | div b a f d => exact RoundTrip.div b a f d
  | mulw b a d => exact RoundTrip.mulw b a d
  | divw b a f d => exact RoundTrip.divw b a f d
  | shadd b a f d => exact RoundTrip.shadd b a f d
  | addUw b a d => exact RoundTrip.addUw b a d
  | shaddUw b a f d => exact RoundTrip.shaddUw b a f d
  | slliUw s a d => exact RoundTrip.slliUw s a d
  | andnOrnXnor b a f d => exact RoundTrip.andnOrnXnor b a f d
  | minMax b a f d => exact RoundTrip.minMax b a f d
  | rolRor b a f d => exact RoundTrip.rolRor b a f d
  | rolwRorw b a f d => exact RoundTrip.rolwRorw b a f d
  | rori s a d => exact RoundTrip.rori s a d
  | roriw s a d => exact RoundTrip.roriw s a d
  | clzCtzCpopSext f a d => exact RoundTrip.clzCtzCpopSext f a d
  | clzwCtzwCpopw f a d => exact RoundTrip.clzwCtzwCpopw f a d
  | orcB a d => exact RoundTrip.orcB a d
  | rev8 a d => exact RoundTrip.rev8 a d
  | zextH a d => exact RoundTrip.zextH a d
  | fpLoad i a f d => exact RoundTrip.fpLoad i a f d
  | fpStore j b a f k => exact RoundTrip.fpStore j b a f k
  | fpFused c t b a r d o => exact RoundTrip.fpFused c t b a r d o
  | fpArith o t b a r d => exact RoundTrip.fpArith o t b a r d
  | fsqrt t a r d => exact RoundTrip.fsqrt t a r d
  | fsgnj t b a f d => exact RoundTrip.fsgnj t b a f d
  | fminFmax t b a f d => exact RoundTrip.fminFmax t b a f d
  | fcvtSD a r d => exact RoundTrip.fcvtSD a r d
  | fcvtDS a r d => exact RoundTrip.fcvtDS a r d
  | fpCompare t b a f d => exact RoundTrip.fpCompare t b a f d
  | fcvtToInt t f a r d => exact RoundTrip.fcvtToInt t f a r d
  | fcvtFromInt t f a r d => exact RoundTrip.fcvtFromInt t f a r d
  | fmvX t a d => exact RoundTrip.fmvX t a d
  | fclass t a d => exact RoundTrip.fclass t a d
  | fmvToF t a d => exact RoundTrip.fmvToF t a d
  | csrrw c a d => exact RoundTrip.csrrw c a d
  | csrrs c a d => exact RoundTrip.csrrs c a d
  | csrrc c a d => exact RoundTrip.csrrc c a d
  | csrrwi c u d => exact RoundTrip.csrrwi c u d
  | csrrsi c u d => exact RoundTrip.csrrsi c u d
  | csrrci c u d => exact RoundTrip.csrrci c u d
  | sfenceVma b a => exact RoundTrip.sfenceVma b a
  | mret => exact RoundTrip.mret
  | sret => exact RoundTrip.sret
  | wfi => exact RoundTrip.wfi
  | ldAcq z s a d => exact RoundTrip.ldAcq z s a d
  | stRel z s b a => exact RoundTrip.stRel z s b a
  | amoW o q l b a d => exact RoundTrip.amoW o q l b a d
  | amoD o q l b a d => exact RoundTrip.amoD o q l b a d
  | amoFaddF32 q l b a d => exact RoundTrip.amoFaddF32 q l b a d
  | amoFaddBf16 q l b a d => exact RoundTrip.amoFaddBf16 q l b a d
  | amoCasW c b a d => exact RoundTrip.amoCasW c b a d
  | amoCasD c b a d => exact RoundTrip.amoCasD c b a d
  | lease2 c b a d => exact RoundTrip.lease2 c b a d
  | red o t b a => exact RoundTrip.red o t b a
  | fld a d => exact RoundTrip.fld a d
  | fldD a d => exact RoundTrip.fldD a d
  | fst b a => exact RoundTrip.fst b a
  | fstD b a => exact RoundTrip.fstD b a
  | frst a => exact RoundTrip.frst a
  | frstD a => exact RoundTrip.frstD a
  | lease b a d => exact RoundTrip.lease b a d
  | lclose => exact RoundTrip.lclose
  | labort => exact RoundTrip.labort
  | waitcnt a p => exact RoundTrip.waitcnt a p
  | fenceOwn => exact RoundTrip.fenceOwn
  | fenceForce a => exact RoundTrip.fenceForce a
  | bseal b a => exact RoundTrip.bseal b a
  | bopen a => exact RoundTrip.bopen a
  | cwb a => exact RoundTrip.cwb a
  | cwbCtx => exact RoundTrip.cwbCtx
  | cinv a => exact RoundTrip.cinv a
  | pfL1 i a k => exact RoundTrip.pfL1 i a k
  | pfL2 i a => exact RoundTrip.pfL2 i a
  | barInit b a => exact RoundTrip.barInit b a
  | barArrive a d => exact RoundTrip.barArrive a d
  | barExpect b a => exact RoundTrip.barExpect b a
  | barWait b a => exact RoundTrip.barWait b a
  | barTry b a d => exact RoundTrip.barTry b a d
  | msend n s b a => exact RoundTrip.msend n s b a
  | hend => exact RoundTrip.hend
  | carm b a d => exact RoundTrip.carm b a d
  | cdec a => exact RoundTrip.cdec a
  | spawn b a d => exact RoundTrip.spawn b a d
  | migrateAddr a => exact RoundTrip.migrateAddr a
  | migrateRank a => exact RoundTrip.migrateRank a
  | uiret => exact RoundTrip.uiret
  | yield => exact RoundTrip.yield
  | qsend n b a => exact RoundTrip.qsend n b a
  | qrecv n q d => exact RoundTrip.qrecv n q d
  | qpoll q d => exact RoundTrip.qpoll q d
  | msave a n => exact RoundTrip.msave a n
  | mrest a n => exact RoundTrip.mrest a n
  | rtabSet b a => exact RoundTrip.rtabSet b a
  | ctxTag a => exact RoundTrip.ctxTag a
  | islandQuery b a d => exact RoundTrip.islandQuery b a d
  | islandSetPoint b a d => exact RoundTrip.islandSetPoint b a d
  | islandGate b a d => exact RoundTrip.islandGate b a d
  | islandUngate b a d => exact RoundTrip.islandUngate b a d
  | wavego b a => exact RoundTrip.wavego b a
  | wret => exact RoundTrip.wret
  | wflush a => exact RoundTrip.wflush a
  | regroup a => exact RoundTrip.regroup a
  | wsync => exact RoundTrip.wsync
  | voteAny a d => exact RoundTrip.voteAny a d
  | voteAll a d => exact RoundTrip.voteAll a d
  | ballot a d => exact RoundTrip.ballot a d
  | shfl b a d => exact RoundTrip.shfl b a d
  | shflXor b a d => exact RoundTrip.shflXor b a d
  | rdlane b a d => exact RoundTrip.rdlane b a d
  | quadSx a d => exact RoundTrip.quadSx a d
  | quadSy a d => exact RoundTrip.quadSy a d
  | quadSd a d => exact RoundTrip.quadSd a d
  | quadBc i a d => exact RoundTrip.quadBc i a d
  | ishelper d => exact RoundTrip.ishelper d
  | bxt b a d => exact RoundTrip.bxt b a d
  | trt b a d => exact RoundTrip.trt b a d
  | vlW i a d => exact RoundTrip.vlW i a d
  | vsW i b a j => exact RoundTrip.vsW i b a j
  | vadd t b a d => exact RoundTrip.vadd t b a d
  | vsub t b a d => exact RoundTrip.vsub t b a d
  | vmul t b a d => exact RoundTrip.vmul t b a d
  | vmin t b a d => exact RoundTrip.vmin t b a d
  | vmax t b a d => exact RoundTrip.vmax t b a d
  | vbc t a d => exact RoundTrip.vbc t a d
  | bsort t a d => exact RoundTrip.bsort t a d
  | bmerge t b a d => exact RoundTrip.bmerge t b a d
  | vfma c t b a d => exact RoundTrip.vfma c t b a d
  | mma b a n => exact RoundTrip.mma b a n
  | mzero n => exact RoundTrip.mzero n
  | epi a n => exact RoundTrip.epi a n
  | mlink a n => exact RoundTrip.mlink a n
  | pred a => exact RoundTrip.pred a
  | punion a => exact RoundTrip.punion a
  | sparge a => exact RoundTrip.sparge a
  | mmaSp c b a n => exact RoundTrip.mmaSp c b a n
  | _ => exact roundTrip_of_no_word rfl

end Sys2Proof.Laws
end

section
/-! One step of a context (18 R368): what the turn of a place that may issue runs is the instruction that its fetched word encodes. -/
namespace Sys2Proof.Machine

/-- The place that moves next is no part of a context. -/
@[simp] theorem State.ctx_withCur (s : State) (p : Place) (k : Nat) : State.ctx { s with cur := p } k = s.ctx k := rfl

/-- The place that moves next is no part of an `sfence.vma` broadcast. -/
@[simp] theorem State.shootOf_withCur (s : State) (p : Place) (uid : Nat) :
    State.shootOf { s with cur := p } uid = s.shootOf uid := rfl

/-- A word that decodes runs as the execution of its instruction, with the issue noted where it goes forward. -/
theorem runWord_of_decode {w : BitVec 32} {i : Instr} (decoded : decode w = .ok i) (s : State) :
    s.runWord w = match exec (s.resolve i) s with
      | .next t => .next (s.noteIssue t s.here (s.resolve i))
      | o => o := by
  rw [State.runWord, decoded] <;> rfl

/-- A resident context that may try its next instruction, with no step of an `sfence.vma`, event, forced fence or `wfi` before it, runs
the word that it fetches. -/
theorem issue_of_fetched_word {s u : State} {p : Place} {w : BitVec 32} (resident : (s.ctx p.key).status = .resident)
    (noShoot : s.shootOf (s.ctx p.key).uid = none) (noEvent : State.boundaryEvent { s with cur := p } p = none)
    (noForced : (s.ctx p.key).forced = []) (mayTry : (s.ctx p.key).mayTry = true) (noWfi : (s.ctx p.key).wfi = false)
    (fetched : State.fetch { s with cur := p } p.key = .word w u) : issue p s = u.runWord w := by
  simp [issue, resident, noShoot, noEvent, noForced, mayTry, noWfi, fetched]

/-- The turn of a place is one issue of its context, with the turn taken off the agenda. -/
theorem step_of_run {s : State} {p : Place} {r : List Turn} (turn : s.agenda = .run p :: r) :
    step s = issue p { s with agenda := r } := by
  rw [step, turn]

/-- Settles O3: the turn is one issue, which runs the fetched word, which is the execution of the instruction that it decodes to. -/
theorem stepRunsDecoded : Obligations.StepRunsDecoded := by
  intro s u p r w i turn resident noEvent noForced noWfi mayTry noShoot fetched decoded
  have issued : issue p { s with agenda := r } = u.runWord w :=
    issue_of_fetched_word (s := { s with agenda := r }) resident noShoot noEvent noForced mayTry noWfi fetched
  rw [step_of_run turn, issued]
  exact runWord_of_decode decoded u

end Sys2Proof.Machine
end
